-- ==== Sys2Proof/Word.lean ====
section
/-!
DEFINITION. The sizes of data the manual names (spec/00_scope.md, R6).
-/
namespace Sys2Proof

/-- A byte: 8 bits (R6). -/
abbrev Byte := BitVec 8
/-- A half: 16 bits (R6). -/
abbrev Half := BitVec 16
/-- A word: 32 bits (R6). -/
abbrev Word := BitVec 32
/-- A dword: 64 bits (R6). Lane masks, addresses and PC values are dwords (R25, R89, R142). -/
abbrev DWord := BitVec 64

end Sys2Proof
end

