-- ==== Sys2Proof/Machine/Bits.lean ====
section
/-!
DEFINITION. Bit ranges, extensions, rounding up and byte order (spec/00_scope.md, R6, R7 and Table 0-3), on numbers.
-/
namespace Sys2Proof.Machine

/-- Bits `[lo + len - 1 : lo]` of the number `x`, as an unsigned number (R7, Table 0-3). -/
def bitField (x lo len : Nat) : Nat := x / 2 ^ lo % 2 ^ len

/-- Bit `n` of the number `x` (R7). -/
def bitOf (x n : Nat) : Bool := x / 2 ^ n % 2 == 1

/-- The least multiple of `k` that is not below `x`. -/
def roundUp (x k : Nat) : Nat := (x + k - 1) / k * k

/-- The number `x` read as a two's-complement value of `w` bits: `sext` of Table 0-3, before it is narrowed. -/
def signed (w x : Nat) : Int := if x % 2 ^ w < 2 ^ (w - 1) then (x % 2 ^ w : Int) else (x % 2 ^ w : Int) - 2 ^ w

/-- The low `w` bits of an exact integer, as an unsigned number. -/
def wrapTo (w : Nat) (x : Int) : Nat := (x % 2 ^ w).toNat

/-- The number of 1 bits among the low `n` bits of `x`. -/
def popCount (x : Nat) : Nat → Nat
  | 0 => 0
  | n + 1 => x % 2 + popCount (x / 2) n

/-- The index of the lowest 1 bit of `x` among its low `n` bits, if any. -/
def lowestBit (x : Nat) : Nat → Option Nat
  | 0 => none
  | n + 1 => if x % 2 = 1 then some 0 else (lowestBit (x / 2) n).map (· + 1)

/-- The number of leading zeros of `x` read at width `w`. -/
def leadingZeros (x : Nat) : Nat → Nat
  | 0 => 0
  | w + 1 => if bitOf x w then 0 else 1 + leadingZeros x w

/-- Bit `l` of a lane mask (R7). -/
def laneIn (m : DWord) (l : Nat) : Bool := m.getLsbD l

/-- The lanes of a mask, in ascending order, below `w`. -/
def lanesOf (m : DWord) (w : Nat) : List Nat := (List.range w).filter (fun l => m.getLsbD l)

/-- The mask holding exactly lane `l`. -/
def laneBit (l : Nat) : DWord := BitVec.ofNat 64 (2 ^ l)

/-- The mask of the lanes in a list. -/
def maskOf (ls : List Nat) : DWord := ls.foldl (fun m l => m ||| laneBit l) 0

/-- The mask of lanes 0 to w - 1: `wm` of spec/09_isa_uniform_control.md. -/
def widthMask (w : Nat) : DWord := BitVec.ofNat 64 (2 ^ w - 1)

/-- The number whose little-endian bytes are `l` (R6). -/
def bytesLE : List Byte → Nat
  | [] => 0
  | b :: t => b.toNat + 256 * bytesLE t

/-- The `n` low bytes of `v`, low byte first (R6). -/
def toBytesLE : Nat → Nat → List Byte
  | 0, _ => []
  | n + 1, v => BitVec.ofNat 8 v :: toBytesLE n (v / 256)

end Sys2Proof.Machine
end

