-- ==== Sys2Proof/Syntax.lean ====
section
/-!
DEFINITION. The operations and events of the part: one constructor of `Instr` per row of spec/opcode_table.json.

A group instruction carries the raw fields of its format (Tables 7-2 and 7-4 to 7-7, spec/07_instruction_formats.md), every bit
of them, so that an illegal encoding is a term too and takes the trap the manual gives it (R149, R169). A stream word carries the
fields of format Z (R154). A device event carries the numbers that say which unit, operation or record it is about.
-/
namespace Sys2Proof

/-- Format T, three-operand (Table 7-2 and Table 7-4). -/
structure FmtT where
  /-- destination field, bits [55:48] -/
  d : Byte
  /-- source a, bits [47:40] -/
  a : Byte
  /-- source b, bits [39:32] -/
  b : Byte
  /-- source c, bits [31:24] -/
  c : Byte
  /-- kind of a, bits [23:22] (R145) -/
  ka : BitVec 2
  /-- kind of b, bits [21:20] -/
  kb : BitVec 2
  /-- kind of c, bits [19:18] -/
  kc : BitVec 2
  /-- negate a, b, c: bits [17], [16], [15] (R146) -/
  na : Bool
  nb : Bool
  nc : Bool
  /-- absolute value of a, b, c: bits [14], [13], [12] (R146) -/
  aa : Bool
  ab : Bool
  ac : Bool
  /-- rounding, bits [11:9] -/
  rnd : BitVec 3
  /-- `.sat`, bit [8] -/
  sat : Bool
  /-- instruction-specific, bits [7:0] -/
  op : Byte
deriving DecidableEq, Repr

/-- Format I, immediate (Table 7-2 and Table 7-5). -/
structure FmtI where
  /-- destination field, bits [55:48] -/
  d : Byte
  /-- source a, bits [47:40] -/
  a : Byte
  /-- kind of a, bits [39:38] -/
  ka : BitVec 2
  /-- negate a, bit [37] -/
  na : Bool
  /-- absolute value of a, bit [36] -/
  aa : Bool
  /-- instruction-specific, bits [35:32] -/
  op : BitVec 4
  /-- immediate, bits [31:0]; it takes the place of b -/
  imm : Word
deriving DecidableEq, Repr

/-- Format M, memory (Table 7-2 and Table 7-6). -/
structure FmtM where
  /-- data register, bits [55:48] -/
  d : Byte
  /-- address, bits [47:40] -/
  a : Byte
  /-- base, bits [39:32] -/
  b : Byte
  /-- bit [31]: the address register is uniform -/
  ka : Bool
  /-- bit [30]: b names a uniform base -/
  bu : Bool
  /-- bits [29:27]: 0 byte, 1 half, 2 word, 3 dword -/
  size : BitVec 3
  /-- bits [26:25]: full/empty mode -/
  fe : BitVec 2
  /-- bit [24]: `.stk` (R92) -/
  stk : Bool
  /-- bit [23]: sign-extend a load below a word -/
  sx : Bool
  /-- bits [22:20]: reserved -/
  rsvd : BitVec 3
  /-- bits [19:0]: signed byte offset -/
  off : BitVec 20
deriving DecidableEq, Repr

/-- Format A, atomic (Table 7-2 and Table 7-7). -/
structure FmtA where
  /-- result register, bits [55:48] -/
  d : Byte
  /-- address pair, bits [47:40] -/
  a : Byte
  /-- operand, bits [39:32] -/
  b : Byte
  /-- compare value, bits [31:24] -/
  c : Byte
  /-- bit [23]: the address pair is uniform -/
  ka : Bool
  /-- bits [22:20]: scope code (R148) -/
  scope : BitVec 3
  /-- bits [19:17]: order code -/
  order : BitVec 3
  /-- bit [16]: value-returning -/
  ret : Bool
  /-- bit [15]: b is uniform -/
  kb : Bool
  /-- bit [14]: c is uniform -/
  kc : Bool
  /-- bits [13:0]: instruction-specific -/
  op : BitVec 14
deriving DecidableEq, Repr

/-- Format E, engine (Table 7-2 and Table 7-7). -/
structure FmtE where
  /-- bits [55:48] -/
  d : Byte
  /-- bits [47:40] -/
  a : Byte
  /-- bits [39:32] -/
  b : Byte
  /-- bits [31:24] -/
  c : Byte
  /-- bit [23]: acquire flag -/
  acq : Bool
  /-- bits [22:20]: acquire scope code (R148) -/
  acqScope : BitVec 3
  /-- bit [19]: release flag -/
  rel : Bool
  /-- bits [18:16]: release scope code -/
  relScope : BitVec 3
  /-- bits [15:0]: instruction-specific -/
  op : Half
deriving DecidableEq, Repr

/-- Format Z, matrix stream (R154): the field positions of format T. -/
structure FmtZ where
  /-- bits [55:48] -/
  d : Byte
  /-- bits [47:40] -/
  a : Byte
  /-- bits [39:32] -/
  b : Byte
  /-- bits [31:24] -/
  c : Byte
  /-- bits [23:0] -/
  mods : BitVec 24
deriving DecidableEq, Repr

/-- Every operation and event of the part: group instructions (Table 8-1), words of a matrix stream (Table 8-6) and device events. -/
inductive Instr where
  /-- `SADD` (R179): Uniform add of a and b, wrapped to 32 bits, into sd (register form, opcode 0x01). -/
  | sadd (f : FmtT)
  /-- `SADD_IMM` (R179): Uniform add of a and a 32-bit immediate, wrapped, into sd (opcode 0x21). -/
  | saddImm (f : FmtI)
  /-- `SSUB` (R179): Uniform subtract a minus b, wrapped to 32 bits (opcode 0x02). -/
  | ssub (f : FmtT)
  /-- `SSUB_IMM` (R179): Uniform subtract a minus the immediate, wrapped (opcode 0x22). -/
  | ssubImm (f : FmtI)
  /-- `SMUL` (R179): Uniform multiply keeping the low 32 bits (opcode 0x03). -/
  | smul (f : FmtT)
  /-- `SMUL_IMM` (R179): Uniform multiply by an immediate keeping the low 32 bits (opcode 0x23). -/
  | smulImm (f : FmtI)
  /-- `SMULH` (R179): Uniform multiply keeping bits 63 to 32 of the typed product (opcode 0x04). -/
  | smulh (f : FmtT)
  /-- `SMULH_IMM` (R179): Uniform high multiply by an immediate (opcode 0x24). -/
  | smulhImm (f : FmtI)
  /-- `SAND` (R179): Uniform bitwise AND (opcode 0x05). -/
  | sand (f : FmtT)
  /-- `SAND_IMM` (R179): Uniform bitwise AND with an immediate (opcode 0x25). -/
  | sandImm (f : FmtI)
  /-- `SOR` (R179): Uniform bitwise OR (opcode 0x06). -/
  | sor (f : FmtT)
  /-- `SOR_IMM` (R179): Uniform bitwise OR with an immediate (opcode 0x26). -/
  | sorImm (f : FmtI)
  /-- `SXOR` (R179): Uniform bitwise XOR (opcode 0x07). -/
  | sxor (f : FmtT)
  /-- `SXOR_IMM` (R179): Uniform bitwise XOR with an immediate (opcode 0x27). -/
  | sxorImm (f : FmtI)
  /-- `SANDN` (R179): Uniform a AND NOT b (opcode 0x08). -/
  | sandn (f : FmtT)
  /-- `SANDN_IMM` (R179): Uniform a AND NOT immediate (opcode 0x28). -/
  | sandnImm (f : FmtI)
  /-- `SSHL` (R179): Uniform shift left, zero for amounts of 32 or more (opcode 0x09). -/
  | sshl (f : FmtT)
  /-- `SSHL_IMM` (R179): Uniform shift left by an immediate (opcode 0x29). -/
  | sshlImm (f : FmtI)
  /-- `SSHR` (R179): Uniform logical shift right (opcode 0x0A). -/
  | sshr (f : FmtT)
  /-- `SSHR_IMM` (R179): Uniform logical shift right by an immediate (opcode 0x2A). -/
  | sshrImm (f : FmtI)
  /-- `SSRA` (R179): Uniform arithmetic shift right, amount capped at 31 (opcode 0x0B). -/
  | ssra (f : FmtT)
  /-- `SSRA_IMM` (R179): Uniform arithmetic shift right by an immediate (opcode 0x2B). -/
  | ssraImm (f : FmtI)
  /-- `SMIN` (R179): Uniform typed minimum (opcode 0x0C). -/
  | smin (f : FmtT)
  /-- `SMIN_IMM` (R179): Uniform typed minimum with an immediate (opcode 0x2C). -/
  | sminImm (f : FmtI)
  /-- `SMAX` (R179): Uniform typed maximum (opcode 0x0D). -/
  | smax (f : FmtT)
  /-- `SMAX_IMM` (R179): Uniform typed maximum with an immediate (opcode 0x2D). -/
  | smaxImm (f : FmtI)
  /-- `SCMP` (R180): Uniform compare by condition and type writing 1 or 0 to sd (opcode 0x0E). -/
  | scmp (f : FmtT)
  /-- `SCMP_IMM` (R180): Uniform compare against an immediate with implied type (opcode 0x2E). -/
  | scmpImm (f : FmtI)
  /-- `SSEL` (R181): Uniform select of a or b by c nonzero (opcode 0x0F). -/
  | ssel (f : FmtT)
  /-- `SSEL_IMM` (R181): Uniform select of a or immediate using old sd as condition (opcode 0x2F). -/
  | sselImm (f : FmtI)
  /-- `SMOV` (R182): Uniform move of a word or pair (opcode 0x10). -/
  | smov (f : FmtT)
  /-- `SADD64` (R182): Uniform 64-bit add of pairs (opcode 0x11). -/
  | sadd64 (f : FmtT)
  /-- `SADD64_IMM` (R182): Uniform 64-bit add of a pair and a sign-extended immediate (opcode 0x31). -/
  | sadd64Imm (f : FmtI)
  /-- `SSUB64` (R182): Uniform 64-bit subtract (opcode 0x12). -/
  | ssub64 (f : FmtT)
  /-- `SSUB64_IMM` (R182): Uniform 64-bit subtract of a sign-extended immediate (opcode 0x32). -/
  | ssub64Imm (f : FmtI)
  /-- `SBFE` (R183): Uniform bit-field extract with field descriptor in b (opcode 0x13). -/
  | sbfe (f : FmtT)
  /-- `SBFE_IMM` (R183): Uniform bit-field extract with immediate offset and width (opcode 0x33). -/
  | sbfeImm (f : FmtI)
  /-- `SBFI` (R183): Uniform bit-field insert into sd (opcode 0x14). -/
  | sbfi (f : FmtT)
  /-- `SBFI_IMM` (R183): Uniform bit-field insert with immediate offset and width (opcode 0x34). -/
  | sbfiImm (f : FmtI)
  /-- `SPOPC` (R182): Uniform population count of a word or pair (opcode 0x15). -/
  | spopc (f : FmtT)
  /-- `SCLZ` (R182): Uniform count of leading zeros (opcode 0x16). -/
  | sclz (f : FmtT)
  /-- `SFFS` (R182): Uniform index of lowest set bit, all ones for zero (opcode 0x17). -/
  | sffs (f : FmtT)
  /-- `SLI` (R184): Writes an immediate to a uniform register or extended to a pair (opcode 0x20). -/
  | sli (f : FmtI)
  /-- `SLDK` (R185): Reads a word or dword of the launch's argument block copy into uniform registers (opcode 0x30). -/
  | sldk (f : FmtI)
  /-- `SRD` (R186): Reads a system register into a uniform register or pair (opcode 0x38). -/
  | srd (f : FmtI)
  /-- `SWR` (R186): Writes a system register per its access code (opcode 0x39). -/
  | swr (f : FmtI)
  /-- `MGET` (R187): Copies exec into a uniform pair (opcode 0x40). -/
  | mget (f : FmtT)
  /-- `MSET` (R187): Sets exec from a mask ANDed with the live mask (opcode 0x41). -/
  | mset (f : FmtT)
  /-- `MAND` (R187): Mask AND into exec or a pair (opcode 0x42). -/
  | mand (f : FmtT)
  /-- `MANDN` (R187): Mask AND NOT into exec or a pair (opcode 0x43). -/
  | mandn (f : FmtT)
  /-- `MOR` (R187): Mask OR into exec or a pair (opcode 0x44). -/
  | mor (f : FmtT)
  /-- `MXOR` (R187): Mask XOR into exec or a pair (opcode 0x45). -/
  | mxor (f : FmtT)
  /-- `MCNT` (R187): Counts the set bits of a mask into a uniform register (opcode 0x46). -/
  | mcnt (f : FmtT)
  /-- `RET` (R191): Lowers the spill pointer by the frame size and jumps to the link pair (opcode 0x48). -/
  | ret (f : FmtT)
  /-- `EXIT` (R197): Removes active lanes from live and exec; the group ends when live is zero (opcode 0x49). -/
  | exit (f : FmtT)
  /-- `NOP` (R198): No effect (opcode 0x4A). -/
  | nop (f : FmtT)
  /-- `YIELD` (R198): After its clause, the group trades places with the oldest ready pending group (opcode 0x4B). -/
  | yield (f : FmtT)
  /-- `BKPT` (R200): Raises the breakpoint trap with a code in the detail field (opcode 0x4C). -/
  | bkpt (f : FmtT)
  /-- `TRAPRET` (R412): Leaves a trap handler: clears intrap, restores exec from trapexec AND live, continues at trappc (opcode 0x4D). -/
  | trapret (f : FmtT)
  /-- `BR` (R189): Unconditional branch, direct or through a uniform pair (opcode 0x50). -/
  | br (f : FmtI)
  /-- `BZ` (R189): Branch taken when exec is zero (opcode 0x51). -/
  | bz (f : FmtI)
  /-- `BNZ` (R189): Branch taken when exec is nonzero (opcode 0x52). -/
  | bnz (f : FmtI)
  /-- `BS` (R189): Branch on a uniform value zero or nonzero (opcode 0x53). -/
  | bs (f : FmtI)
  /-- `CALL` (R190): Saves a return PC, raises the spill pointer by the frame size and jumps (opcode 0x54). -/
  | call (f : FmtI)
  /-- `LOOP` (R193): Opens a loop register with start, end clause and count, or skips the body on zero count (opcode 0x55). -/
  | loop (f : FmtI)
  /-- `LBRK` (R195): Closes the innermost live loop, conditionally by op (opcode 0x56). -/
  | lbrk (f : FmtI)
  /-- `SLEEP` (R199): Suspends the group for t clocks after its clause (opcode 0x57). -/
  | sleep (f : FmtI)
  /-- `TRAP` (R201): Raises the software trap with a 16-bit code (opcode 0x58). -/
  | trap (f : FmtI)
  /-- `VADD` (R208): Per-lane integer add with optional saturation (opcode 0x61). -/
  | vadd (f : FmtT)
  /-- `VADD_IMM` (R208): Per-lane integer add of an immediate (opcode 0x81). -/
  | vaddImm (f : FmtI)
  /-- `VSUB` (R208): Per-lane integer subtract (opcode 0x62). -/
  | vsub (f : FmtT)
  /-- `VSUB_IMM` (R208): Per-lane integer subtract of an immediate (opcode 0x82). -/
  | vsubImm (f : FmtI)
  /-- `VMUL` (R208): Per-lane multiply low 32 bits (opcode 0x63). -/
  | vmul (f : FmtT)
  /-- `VMUL_IMM` (R208): Per-lane multiply by an immediate (opcode 0x83). -/
  | vmulImm (f : FmtI)
  /-- `VMULH` (R208): Per-lane multiply high 32 bits (opcode 0x64). -/
  | vmulh (f : FmtT)
  /-- `VMULH_IMM` (R208): Per-lane multiply high by an immediate (opcode 0x84). -/
  | vmulhImm (f : FmtI)
  /-- `VMAD` (R208): Per-lane multiply-add X·Y+C with optional saturation (opcode 0x65). -/
  | vmad (f : FmtT)
  /-- `VMAD_IMM` (R209): Per-lane multiply by immediate plus old d (opcode 0x85). -/
  | vmadImm (f : FmtI)
  /-- `VAND` (R208): Per-lane bitwise AND (opcode 0x66). -/
  | vand (f : FmtT)
  /-- `VAND_IMM` (R208): Per-lane bitwise AND with an immediate (opcode 0x86). -/
  | vandImm (f : FmtI)
  /-- `VOR` (R208): Per-lane bitwise OR (opcode 0x67). -/
  | vor (f : FmtT)
  /-- `VOR_IMM` (R208): Per-lane bitwise OR with an immediate (opcode 0x87). -/
  | vorImm (f : FmtI)
  /-- `VXOR` (R208): Per-lane bitwise XOR (opcode 0x68). -/
  | vxor (f : FmtT)
  /-- `VXOR_IMM` (R208): Per-lane bitwise XOR with an immediate (opcode 0x88). -/
  | vxorImm (f : FmtI)
  /-- `VANDN` (R208): Per-lane a AND NOT b (opcode 0x69). -/
  | vandn (f : FmtT)
  /-- `VANDN_IMM` (R208): Per-lane a AND NOT immediate (opcode 0x89). -/
  | vandnImm (f : FmtI)
  /-- `VSHL` (R208): Per-lane shift left (opcode 0x6A). -/
  | vshl (f : FmtT)
  /-- `VSHL_IMM` (R208): Per-lane shift left by an immediate (opcode 0x8A). -/
  | vshlImm (f : FmtI)
  /-- `VSHR` (R208): Per-lane logical shift right (opcode 0x6B). -/
  | vshr (f : FmtT)
  /-- `VSHR_IMM` (R208): Per-lane logical shift right by an immediate (opcode 0x8B). -/
  | vshrImm (f : FmtI)
  /-- `VSRA` (R208): Per-lane arithmetic shift right (opcode 0x6C). -/
  | vsra (f : FmtT)
  /-- `VSRA_IMM` (R208): Per-lane arithmetic shift right by an immediate (opcode 0x8C). -/
  | vsraImm (f : FmtI)
  /-- `VMIN` (R208): Per-lane typed integer minimum (opcode 0x6D). -/
  | vmin (f : FmtT)
  /-- `VMIN_IMM` (R208): Per-lane typed minimum with an immediate (opcode 0x8D). -/
  | vminImm (f : FmtI)
  /-- `VMAX` (R208): Per-lane typed integer maximum (opcode 0x6E). -/
  | vmax (f : FmtT)
  /-- `VMAX_IMM` (R208): Per-lane typed maximum with an immediate (opcode 0x8E). -/
  | vmaxImm (f : FmtI)
  /-- `VCMP` (R210): Per-lane integer compare writing a lane mask to a uniform pair (opcode 0x6F). -/
  | vcmp (f : FmtT)
  /-- `VCMP_IMM` (R210): Per-lane integer compare against an immediate writing a mask (opcode 0x8F). -/
  | vcmpImm (f : FmtI)
  /-- `VSEL` (R211): Per-lane select of a or b by a mask pair (opcode 0x70). -/
  | vsel (f : FmtT)
  /-- `VMOV` (R208): Per-lane move of a word or pair (opcode 0x71). -/
  | vmov (f : FmtT)
  /-- `VABS` (R208): Per-lane integer absolute value with optional saturation (opcode 0x72). -/
  | vabs (f : FmtT)
  /-- `VBFE` (R212): Per-lane bit-field extract (opcode 0x73). -/
  | vbfe (f : FmtT)
  /-- `VBFI` (R212): Per-lane bit-field insert (opcode 0x74). -/
  | vbfi (f : FmtT)
  /-- `VPOPC` (R212): Per-lane population count (opcode 0x75). -/
  | vpopc (f : FmtT)
  /-- `VCLZ` (R212): Per-lane count of leading zeros (opcode 0x76). -/
  | vclz (f : FmtT)
  /-- `VADDC` (R213): Per-lane add with carry-in and carry-out mask pair (opcode 0x77). -/
  | vaddc (f : FmtT)
  /-- `VSAD` (R214): Per-lane sum of absolute byte differences plus C (opcode 0x78). -/
  | vsad (f : FmtT)
  /-- `VDOT4` (R214): Per-lane four-byte dot product plus C (opcode 0x79). -/
  | vdot4 (f : FmtT)
  /-- `VLI` (R208): Per-lane load of an immediate (opcode 0x80). -/
  | vli (f : FmtI)
  /-- `FADD` (R215): Per-lane f32 add via fres (opcode 0xA0). -/
  | fadd (f : FmtT)
  /-- `FADD_IMM` (R215): Per-lane f32 add of an immediate (opcode 0xC0). -/
  | faddImm (f : FmtI)
  /-- `FSUB` (R215): Per-lane f32 subtract (opcode 0xA1). -/
  | fsub (f : FmtT)
  /-- `FSUB_IMM` (R215): Per-lane f32 subtract of an immediate (opcode 0xC1). -/
  | fsubImm (f : FmtI)
  /-- `FMUL` (R215): Per-lane f32 multiply (opcode 0xA2). -/
  | fmul (f : FmtT)
  /-- `FMUL_IMM` (R215): Per-lane f32 multiply by an immediate (opcode 0xC2). -/
  | fmulImm (f : FmtI)
  /-- `FFMA` (R215): Per-lane f32 fused multiply-add rounded once (opcode 0xA3). -/
  | ffma (f : FmtT)
  /-- `FFMA_IMM` (R215): Per-lane f32 fused multiply by immediate plus old d (opcode 0xC3). -/
  | ffmaImm (f : FmtI)
  /-- `FMIN` (R216): Per-lane f32 minimum, NaN canonical, −0 below +0 (opcode 0xA4). -/
  | fmin (f : FmtT)
  /-- `FMIN_IMM` (R216): Per-lane f32 minimum with an immediate (opcode 0xC4). -/
  | fminImm (f : FmtI)
  /-- `FMAX` (R216): Per-lane f32 maximum (opcode 0xA5). -/
  | fmax (f : FmtT)
  /-- `FMAX_IMM` (R216): Per-lane f32 maximum with an immediate (opcode 0xC5). -/
  | fmaxImm (f : FmtI)
  /-- `FCMP` (R210): Per-lane f32 compare writing a lane mask (opcode 0xA6). -/
  | fcmp (f : FmtT)
  /-- `FCMP_IMM` (R210): Per-lane f32 compare against an immediate writing a mask (opcode 0xC6). -/
  | fcmpImm (f : FmtI)
  /-- `FFRAC` (R217): Per-lane f32 fractional part (opcode 0xA7). -/
  | ffrac (f : FmtT)
  /-- `FRND` (R217): Per-lane round to integral f32 by mode (opcode 0xA8). -/
  | frnd (f : FmtT)
  /-- `FCLASS` (R217): Per-lane f32 classification into a one-hot word (opcode 0xA9). -/
  | fclass (f : FmtT)
  /-- `HFMA2` (R220): Packed 16-bit fused multiply-add per half (opcode 0xAA). -/
  | hfma2 (f : FmtT)
  /-- `HADD2` (R220): Packed 16-bit add per half (opcode 0xAB). -/
  | hadd2 (f : FmtT)
  /-- `HMUL2` (R220): Packed 16-bit multiply per half (opcode 0xAC). -/
  | hmul2 (f : FmtT)
  /-- `HDOT2` (R220): Packed 16-bit two-element dot product plus f32 c (opcode 0xAD). -/
  | hdot2 (f : FmtT)
  /-- `DADD` (R219): Per-lane f64 add on the FP64 lanes (opcode 0xB0). -/
  | dadd (f : FmtT)
  /-- `DMUL` (R219): Per-lane f64 multiply (opcode 0xB1). -/
  | dmul (f : FmtT)
  /-- `DFMA` (R219): Per-lane f64 fused multiply-add (opcode 0xB2). -/
  | dfma (f : FmtT)
  /-- `DCMP` (R219): Per-lane f64 compare writing a lane mask (opcode 0xB3). -/
  | dcmp (f : FmtT)
  /-- `FRCP` (R218): Per-lane correctly rounded reciprocal on the transcendental lanes (opcode 0xB8). -/
  | frcp (f : FmtT)
  /-- `FRSQ` (R218): Per-lane reciprocal square root (opcode 0xB9). -/
  | frsq (f : FmtT)
  /-- `FSQRT` (R218): Per-lane square root (opcode 0xBA). -/
  | fsqrt (f : FmtT)
  /-- `FDIV` (R218): Per-lane f32 division (opcode 0xBB). -/
  | fdiv (f : FmtT)
  /-- `FEXP2` (R218): Per-lane base-2 exponential (opcode 0xBC). -/
  | fexp2 (f : FmtT)
  /-- `FLOG2` (R218): Per-lane base-2 logarithm (opcode 0xBD). -/
  | flog2 (f : FmtT)
  /-- `FSIN` (R218): Per-lane sin(π·x) (opcode 0xBE). -/
  | fsin (f : FmtT)
  /-- `FCOS` (R218): Per-lane cos(π·x) (opcode 0xBF). -/
  | fcos (f : FmtT)
  /-- `CVT` (R224): Per-lane format conversion, or block MX encoding across lanes (opcode 0xD0). -/
  | cvt (f : FmtT)
  /-- `VPERM` (R227): Per-lane permute within sub-groups through the crossbar, counted on ts (opcode 0xD1). -/
  | vperm (f : FmtT)
  /-- `VSHFL` (R227): Sub-group shuffle xor/up/down/broadcast through the crossbar (opcode 0xD2). -/
  | vshfl (f : FmtT)
  /-- `VRDL` (R229): Reads one lane of a vector register into a uniform register (opcode 0xD3). -/
  | vrdl (f : FmtT)
  /-- `VWRL` (R229): Writes a uniform value into one lane of a vector register (opcode 0xD4). -/
  | vwrl (f : FmtT)
  /-- `VRED` (R231): Sub-group tree reduction over active lanes (opcode 0xD5). -/
  | vred (f : FmtT)
  /-- `VSCAN` (R232): Sub-group inclusive prefix scan with a seed (opcode 0xD6). -/
  | vscan (f : FmtT)
  /-- `TLD` (R235): Team-scratchpad or spill-stack load with full/empty mode, counted on ts (opcode 0xE0). -/
  | tld (f : FmtM)
  /-- `TST` (R235): Posted team-scratchpad or spill-stack store (opcode 0xE1). -/
  | tst (f : FmtM)
  /-- `DLD` (R235): Die-scratchpad load, counted on ds (opcode 0xE2). -/
  | dld (f : FmtM)
  /-- `DST` (R235): Posted die-scratchpad store (opcode 0xE3). -/
  | dst (f : FmtM)
  /-- `PLD` (R237): Peer-window load, counted on pw (opcode 0xE4). -/
  | pld (f : FmtM)
  /-- `PST` (R237): Peer-window store that sets full bits (opcode 0xE5). -/
  | pst (f : FmtM)
  /-- `ATOP` (R240): Per-lane atomic read-modify-write at the home, optionally returning (opcode 0xE8). -/
  | atop (f : FmtA)
  /-- `ATCAS` (R241): Per-lane 4- or 8-byte compare-and-swap (opcode 0xE9). -/
  | atcas (f : FmtA)
  /-- `ATCAS128` (R242): Per-lane 16-byte compare-and-swap (opcode 0xEA). -/
  | atcas128 (f : FmtA)
  /-- `MCAS` (R245): Multi-word compare-and-swap of 2 to 8 dwords from a parameter block (opcode 0xEB). -/
  | mcas (f : FmtA)
  /-- `REDB` (R248): Places per-lane buffered reduction entries in the partition's atomic buffer (opcode 0xEC). -/
  | redb (f : FmtA)
  /-- `REDF` (R249): Starts a drain of the team's buffered reductions and blocks until performed (opcode 0xED). -/
  | redf (f : FmtA)
  /-- `WAITA` (R250): Arms a wait-on-address entry at the home or returns at once (opcode 0xEE). -/
  | waita (f : FmtA)
  /-- `FENCE` (R251): Orders accesses by order and scope, blocking until earlier accesses are performed (opcode 0xEF). -/
  | fence (f : FmtA)
  /-- `TCOPY` (R265): Queues a strided, gather or scatter copy tow command (opcode 0x90). -/
  | tcopy (f : FmtE)
  /-- `TXFORM` (R267): Queues a transform tow command run on a quay transform executor (opcode 0x91). -/
  | txform (f : FmtE)
  /-- `TREMOTE` (R269): Queues a remote transfer through a sluice to a fabric device (opcode 0x92). -/
  | tremote (f : FmtE)
  /-- `TFLUSH` (R272): Queues a write-back of dirty pound sectors and host writes over a range (opcode 0x93). -/
  | tflush (f : FmtE)
  /-- `TFILL` (R266): Queues a pattern fill tow command (opcode 0x94). -/
  | tfill (f : FmtE)
  /-- `FORK` (R276): Starts a matrix-stream run once the sequencer is idle (opcode 0x95). -/
  | fork (f : FmtE)
  /-- `RDV` (R277): Blocks until the team's placed runs end, then returns the latest run status (opcode 0x96). -/
  | rdv (f : FmtE)
  /-- `RAST` (R325): Rasterises one tile of a triangle into live lanes and updates the continuation (opcode 0x97). -/
  | rast (f : FmtE)
  /-- `TRACE` (R300): Forms barges for valid rays, takes return slots and admits them at the root record (opcode 0x98). -/
  | trace (f : FmtE)
  /-- `QFILT` (R313): Sends texture filter requests to the stack holding the texture (opcode 0x99). -/
  | qfilt (f : FmtE)
  /-- `QHASH` (R315): Sends hash-grid lookup requests to the stack holding the grid (opcode 0x9A). -/
  | qhash (f : FmtE)
  /-- `CALLQ` (R328): Sends per-lane records as a batch to a depth, blend or tessellator unit (opcode 0x9B). -/
  | callq (f : FmtE)
  /-- `TOKACQ` (R333): Takes the next ordering token of a tile in a domain (opcode 0x9C). -/
  | tokacq (f : FmtE)
  /-- `TOKSKIP` (R334): Closes a token at the named units without records (opcode 0x9D). -/
  | tokskip (f : FmtE)
  /-- `ENQR` (R336): Sends a tagged record to a work-graph node's token-matching table (opcode 0x9E). -/
  | enqr (f : FmtE)
  /-- `FREL` (R373): Appends a frame-buffer release entry to display outputs' pending lists (opcode 0x9F). -/
  | frel (f : FmtE)
  /-- `WOPEN` (R238): Binds a free peer-window entry to a line of the team allocation (opcode 0xF0). -/
  | wopen (f : FmtE)
  /-- `WCLOSE` (R238): Frees a peer-window entry and invalidates its copies (opcode 0xF1). -/
  | wclose (f : FmtE)
  /-- `FLREG` (R254): Registers the group on a flight in a mode (opcode 0xF2). -/
  | flreg (f : FmtE)
  /-- `FLDROP` (R254): Removes the group from a flight, withdrawing its arrival (opcode 0xF3). -/
  | fldrop (f : FmtE)
  /-- `FLARR` (R254): Arrives at a flight or sets the early bit, then applies fl_check (opcode 0xF4). -/
  | flarr (f : FmtE)
  /-- `FLWAIT` (R254): Blocks until a flight's phase passes the expected value (opcode 0xF5). -/
  | flwait (f : FmtE)
  /-- `FLADV` (R254): Arrives then waits on the same flight (opcode 0xF6). -/
  | fladv (f : FmtE)
  /-- `BINIT` (R257): Initialises a landing's expected, arrived, phase and empties its words (opcode 0xF7). -/
  | binit (f : FmtE)
  /-- `BXP` (R257): Adds to a landing's expected count and applies land_update (opcode 0xF8). -/
  | bxp (f : FmtE)
  /-- `BWAIT` (R257): Blocks until a landing's phase equals the given bit (opcode 0xF9). -/
  | bwait (f : FmtE)
  /-- `WAITP` (R258): Blocks until a path counter is at or below a threshold (opcode 0xFA). -/
  | waitp (f : FmtE)
  /-- `PQLAUNCH` (R320): Launches a grid of groups on quay cores from a physical launch record (opcode 0xFE). -/
  | pqlaunch (f : FmtE)
  /-- `MMA` (R284): Stream word computing a 64×64 tile product in a semiring from A, holders' B and the tile. -/
  | mma (f : FmtZ)
  /-- `MCB` (R286): Stream word loading a 32-byte codebook into a slot. -/
  | mcb (f : FmtZ)
  /-- `MZERO` (R286): Stream word zeroing a run of tiles. -/
  | mzero (f : FmtZ)
  /-- `MZLD` (R286): Stream word loading a tile image from team scratchpad. -/
  | mzld (f : FmtZ)
  /-- `MZST` (R287): Stream word storing a tile converted or MX-encoded to team scratchpad. -/
  | mzst (f : FmtZ)
  /-- `MSCAL` (R288): Stream word scaling every element of a run of tiles. -/
  | mscal (f : FmtZ)
  /-- `MFLSIG` (R289): Stream arrival at a team flight. -/
  | mflsig (f : FmtZ)
  /-- `MFLWAIT` (R289): Stream wait on a team flight phase, then increments the count scalar. -/
  | mflwait (f : FmtZ)
  /-- `MLOOP` (R290): Stream word opening a stream loop. -/
  | mloop (f : FmtZ)
  /-- `MEND` (R291): Ends the run: waits for writes, drops flights, releases, writes status and frees the sequencer. -/
  | mend (f : FmtZ)
  /-- `MNOP` (R291): Stream word with no effect. -/
  | mnop (f : FmtZ)
  /-- `UNALLOCATED_OPCODE` (R171): A fetched group word with an unallocated opcode raises the illegal-instruction trap with detail 0x0100 plus the opcode, or the return trap on a quay core. -/
  | unallocatedOpcode (word : DWord)
  /-- `UNALLOCATED_STREAM_WORD` (R174): A stream word with opcode 0x00 or 0x0C to 0xFF halts the run with the stream illegal-instruction code. -/
  | unallocatedStreamWord (word : DWord)
  /-- `CLAUSE_ENTRY` (R140): A clause header is decoded on entry at index 0, checked, and its wait applied. -/
  | clauseEntry (g : Nat)
  /-- `DEFERRED_TRAP` (R409): A pending deferred error is taken as one trap at the next instruction boundary. -/
  | deferredTrap (g : Nat)
  /-- `DOUBLE_FAULT` (R413): A fault inside a handler halts the group and logs 0x01F0. -/
  | doubleFault (g : Nat)
  /-- `HALTED_GROUP_TIMEOUT` (R414): 100 ms after a halt without debug hold, the group is ended. -/
  | haltedGroupTimeout (g : Nat)
  /-- `BREAKPOINT_MATCH` (R498): An armed mailbox breakpoint matching the next instruction raises cause 0x02. -/
  | breakpointMatch (g : Nat)
  /-- `STEP_TRAP` (R499): After one stepped instruction following trapret, the step trap is taken. -/
  | stepTrap (g : Nat)
  /-- `RETURN_TRAP` (R318): A quay-core group meeting an unsupported opcode spills its state and moves to its origin core. -/
  | returnTrap (g : Nat)
  /-- `RETURN_SLOT_RESUME` (R318): The moved group obtains a return slot and temporary allocation and resumes. -/
  | returnSlotResume (g : Nat)
  /-- `RETURN_TRAP_TIMEOUT` (R480): A return trap not completed in 1 ms ends the group with code 0x0C21. -/
  | returnTrapTimeout (g : Nat)
  /-- `SLOT_WRITE_FAILURE` (R416): A failed victim slot write keeps the value mapped and charges cause 0x06 to the victim. -/
  | slotWriteFailure (g : Nat) (reg : Nat)
  /-- `REGISTER_FILL_DONE` (R49): A backed register's fill completes, or fails with a register access fault. -/
  | registerFillDone (g : Nat) (reg : Nat)
  /-- `LOAD_RESULT_LANDING` (R51): An outstanding load or returning atomic writes its destination lanes and releases the interlock. -/
  | loadResultLanding (op : Nat) (lanes : DWord)
  /-- `STORE_PERFORMED` (R235): A posted store is performed at its home. -/
  | storePerformed (op : Nat) (lanes : DWord)
  /-- `ATOMIC_AT_HOME` (R240): An atomic lane is performed as one single-copy atomic event at its home. -/
  | atomicAtHome (op : Nat) (lane : Nat)
  /-- `SC_FLOOR_PUBLISH` (R131): Every 32 clocks each core publishes its Lamport floor and raises its clock. -/
  | scFloorPublish (core : Nat)
  /-- `SC_APPLY_AT_HOME` (R132): A home applies held SC operations in stamp order once floors pass. -/
  | scApplyAtHome (op : Nat) (lane : Nat)
  /-- `CROSSBAR_GRANT` (R228): A waiting tld, vperm or vshfl request takes the team-scratchpad crossbar. -/
  | crossbarGrant (op : Nat)
  /-- `PEER_ACCESS_AT_OWNER` (R454): A peer access arrives at the owner's bank, is checked and performed with copy invalidation. -/
  | peerAccessAtOwner (op : Nat) (lane : Nat)
  /-- `POUND_ACCESS` (R110): The pound controller serves an LPDDR6 access: hit, write-back, fill and tag update. -/
  | poundAccess (addr : Nat) (write : Bool) (data : Nat)
  /-- `MCAS_ADMISSION` (R245): An mcas is admitted once its stamp is the lowest any core may still apply. -/
  | mcasAdmission (op : Nat)
  /-- `MCAS_LOCK_GRANT` (R245): A home grants a line lock in key order returning its words. -/
  | mcasLockGrant (op : Nat)
  /-- `MCAS_RESULT` (R246): After every line is released the result word is written to sd. -/
  | mcasResult (op : Nat)
  /-- `MCAS_LOCK_TIMEOUT` (R470): A lock not granted within four times its bound is retried, then ends with status 0x07. -/
  | mcasLockTimeout (op : Nat)
  /-- `REDUCTION_DRAIN` (R136): All buffered entries of a team are performed in fixed order. -/
  | reductionDrain (team : Nat)
  /-- `REDF_RELEASE` (R249): The redf group resumes when every drained entry has been performed. -/
  | redfRelease (g : Nat)
  /-- `FENCE_COMPLETE` (R251): The fenced group resumes once the ordered accesses are performed. -/
  | fenceComplete (g : Nat)
  /-- `FLIGHT_WAITERS_RELEASED` (R254): Waits completed by a phase advance are released together. -/
  | flightWaitersReleased (flight : Nat)
  /-- `EARLY_ARRIVAL_RELEASE` (R254): An flarr held on its early bit proceeds when the phase advances. -/
  | earlyArrivalRelease (g : Nat)
  /-- `BWAIT_RELEASE` (R257): A bwait completes when the landing phase flips to the awaited value. -/
  | bwaitRelease (g : Nat)
  /-- `PATH_WAIT_RELEASE` (R55): A waitp or clause-header wait completes when the counter reaches the threshold. -/
  | pathWaitRelease (g : Nat)
  /-- `SLEEP_EXPIRY` (R199): A sleeping group becomes eligible after t clocks. -/
  | sleepExpiry (g : Nat)
  /-- `ACTIVE_SET_ENTRY` (R354): A ready pending group enters a free active place by earliest ready stamp. -/
  | activeSetEntry (core : Nat) (partition : Nat)
  /-- `PENDING_STARVATION` (R356): A pending group ready for 2,048 clocks displaces the oldest active group. -/
  | pendingStarvation (core : Nat) (partition : Nat)
  /-- `TOW_QUEUE_SLOT` (R260): A blocked tow instruction is placed when a queue slot frees. -/
  | towQueueSlot (g : Nat)
  /-- `TOW_COMMAND_START` (R262): A queued tow command is taken and begins its translated accesses. -/
  | towCommandStart (cmd : Nat)
  /-- `TXFORM_EXECUTION` (R268): A transform executor sums, scales, rounds or MX-encodes source rows. -/
  | txformExecution (cmd : Nat)
  /-- `TOW_COMMAND_COMPLETE` (R261): A tow command writes its status word then counts its bytes on the landing. -/
  | towCommandComplete (cmd : Nat)
  /-- `FORK_SERVED` (R276): A blocked fork is served when the sequencer becomes idle. -/
  | forkServed (g : Nat)
  /-- `RDV_RELEASE` (R277): rdv resumes when the team's earlier runs have ended. -/
  | rdvRelease (g : Nat)
  /-- `MMA_PIN_RELEASE` (R285): 192 clocks after start the mma's B reads end and holder pins are released. -/
  | mmaPinRelease (run : Nat)
  /-- `MMA_TILE_WRITE` (R292): 32 clocks after the reads end the tile update is written. -/
  | mmaTileWrite (run : Nat)
  /-- `GROUP_END` (R42): A group with zero live mask waits for counters and pins, leaves flights and frees resources. -/
  | groupEnd (g : Nat)
  /-- `TEAM_RETIREMENT` (R43): After the last group ends, the team waits for its stream and copies, drains, closes windows and frees resources. -/
  | teamRetirement (team : Nat)
  /-- `TEAM_PLACEMENT` (R345): The launcher places a grid's next team on a core meeting R35 by placement preference. -/
  | teamPlacement (grid : Nat)
  /-- `PREEMPTION_START` (R357): An unplaced team waiting 2 µs chooses a lower-priority victim team. -/
  | preemptionStart (grid : Nat)
  /-- `PREEMPTION_SAVE` (R358): The victim stops, waits for outstanding work, writes images and save area and frees the core. -/
  | preemptionSave (team : Nat)
  /-- `TEAM_RESUME` (R358): A parked team's save area is read back and its groups and stream restart. -/
  | teamResume (team : Nat)
  /-- `TRACE_ADMISSION` (R294): One event at the root record reads gen and dir and adds k to a parity counter. -/
  | traceAdmission (trace : Nat)
  /-- `RETURN_SLOTS_GRANTED` (R302): A blocked trace is granted its k return slots in issue order. -/
  | returnSlotsGranted (g : Nat)
  /-- `BARGE_ARRIVAL` (R307): A barge enters its treelet's basin on a stack, spilling when SRAM is full. -/
  | bargeArrival (barge : Nat)
  /-- `TRAVERSAL_TURN` (R308): A traversal unit picks a basin, loads the treelet and runs up to 512 barges. -/
  | traversalTurn (stack : Nat) (treelet : Nat)
  /-- `TOP_STEP` (R305): A barge searches treelet 0 for its next instance and is handed to a basin or ends. -/
  | topStep (barge : Nat)
  /-- `ANY_HIT_GROUP_START` (R310): A quay core starts a width-8 group over gathered candidates. -/
  | anyHitGroupStart (stack : Nat)
  /-- `ANY_HIT_DECISION` (R310): When the any-hit group ends its v0 values decide each candidate. -/
  | anyHitDecision (g : Nat)
  /-- `ANY_HIT_BUDGET_EXCEEDED` (R479): An any-hit group at 2^24 instructions is ended and its rays get status 0x06. -/
  | anyHitBudgetExceeded (g : Nat)
  /-- `HIT_RECORD_LANDING` (R302): A ray's hit record lands and its return slot frees. -/
  | hitRecordLanding (barge : Nat)
  /-- `QFILT_RECORD` (R314): The filter unit computes and lands a filtered texel record. -/
  | qfiltRecord (op : Nat) (lane : Nat)
  /-- `QHASH_RECORD` (R316): The filter unit interpolates hash-grid features and lands the record. -/
  | qhashRecord (op : Nat) (lane : Nat)
  /-- `PQLAUNCH_COMPLETE` (R320): When every quay group has ended the command writes status and counts 64. -/
  | pqlaunchComplete (cmd : Nat)
  /-- `CALLED_QUEUE_ROOM` (R331): A blocked callq enters its records once the unit queue has room. -/
  | calledQueueRoom (g : Nat)
  /-- `CALLED_RECORD_APPLY` (R329): A depth or blend record is applied as one read-modify-write of its sample. -/
  | calledRecordApply (batch : Nat)
  /-- `BATCH_HELD` (R331): A batch whose token is not current moves to the holding store. -/
  | batchHeld (batch : Nat)
  /-- `TESSELLATOR_RECORD` (R330): The tessellator returns a count or an emitted domain triangle. -/
  | tessellatorRecord (batch : Nat)
  /-- `RETURN_RECORD_LANDING` (R332): A called-unit return record lands in team scratchpad; cq falls after the last. -/
  | returnRecordLanding (batch : Nat)
  /-- `TOKACQ_PERFORMED` (R333): The tile's home returns the token count and adds one. -/
  | tokacqPerformed (op : Nat)
  /-- `TOKEN_MATCH_ENTRY` (R348): An enqr record enters the token-matching table and matching is checked. -/
  | tokenMatchEntry (op : Nat)
  /-- `MATCH_TABLE_ROOM` (R336): A blocked enqr enters its record when a table entry frees. -/
  | matchTableRoom (g : Nat)
  /-- `COMMAND_LAUNCH` (R339): Launch command: reads and checks the record and starts the grid. -/
  | commandLaunch (queue : Nat) (index : Nat)
  /-- `COMMAND_GRAPH` (R347): Graph command binds a graph descriptor to the queue's context. -/
  | commandGraph (queue : Nat) (index : Nat)
  /-- `COMMAND_WAIT` (R338): Wait command completes when the word read with acquire reaches v. -/
  | commandWait (queue : Nat) (index : Nat)
  /-- `COMMAND_SIGNAL` (R338): Signal command writes v with release after earlier commands complete and raises MSI-X. -/
  | commandSignal (queue : Nat) (index : Nat)
  /-- `COMMAND_REACH` (R351): Reach command sets a die's target G*, privileged queues only. -/
  | commandReach (queue : Nat) (index : Nat)
  /-- `COMMAND_RUNG` (R353): Rung command raises a running grid's rung, privileged queues only. -/
  | commandRung (queue : Nat) (index : Nat)
  /-- `COMMAND_RELEASE` (R341): Release command frees kept segments once no grid names the segid. -/
  | commandRelease (queue : Nat) (index : Nat)
  /-- `COMMAND_RESERVED` (R338): A reserved command kind is rejected with code 0x0507. -/
  | commandReserved (queue : Nat) (index : Nat)
  /-- `GRANT_WAIT_END` (R343): A grid waiting for overlapping flights or domains starts when the earlier grid completes. -/
  | grantWaitEnd (grid : Nat)
  /-- `REACH_BALANCER_STEP` (R350): Every 20 µs per die the balancer compares G with G* and marks one core. -/
  | reachBalancerStep (die : Nat)
  /-- `REACH_CORE_MOVE` (R350): A marked core with no resident teams changes reach and G moves by one. -/
  | reachCoreMove (die : Nat)
  /-- `REACH_PREEMPT_TIMEOUT` (R351): 100 µs after marking with pre-empt set the core pre-empts its teams. -/
  | reachPreemptTimeout (die : Nat)
  /-- `DEADLINE_PROJECTION` (R353): At least every 10 µs the launcher projects finish and raises the rung. -/
  | deadlineProjection (grid : Nat)
  /-- `DOORBELL` (R362): A doorbell write sets a queue's tail, starting waiting commands. -/
  | doorbell (queue : Nat) (data : Word)
  /-- `QUEUE_ENABLE` (R362): Setting enable resets head and tail to 0. -/
  | queueEnable (queue : Nat)
  /-- `QUEUE_DISABLE` (R362): Clearing enable lets started commands complete and starts no more. -/
  | queueDisable (queue : Nat)
  /-- `HOST_BAR2_ACCESS` (R363): A host access through an aperture enters at the home of its physical address. -/
  | hostBar2Access (offset : Nat) (size : Nat) (write : Bool) (data : Nat)
  /-- `REGISTER_WRITE` (R8): Host write to a BAR0 register with no behaviour of its own, per its access code. -/
  | registerWrite (offset : Nat) (size : Nat) (data : Nat)
  /-- `DUTY_MODE_WRITE` (R380): Sets duty modes, ignored and logged while a duty is in use. -/
  | dutyModeWrite (data : Word)
  /-- `REACH_LIMIT_WRITE` (R351): Sets gmin and gmax, ignored and logged when inconsistent. -/
  | reachLimitWrite (die : Nat) (data : Word)
  /-- `DISPLAY_BLOCK_WRITE` (R372): Writes a display output block, refusing enable for impossible timings. -/
  | displayBlockWrite (output : Nat) (offset : Nat) (data : DWord)
  /-- `TIME_FREQ_WRITE` (R371): Sets the clock frequency adjustment within ±1,000 ppm. -/
  | timeFreqWrite (data : Word)
  /-- `TIME_OFFSET_WRITE` (R371): Applies a forward offset at once or absorbs a backward one by slowing. -/
  | timeOffsetWrite (data : DWord)
  /-- `LOGCTL_WRITE` (R397): Writes the log control, clearing ovf by W1C and rejecting reserved sizes. -/
  | logctlWrite (data : Word)
  /-- `LOGLOST_READ` (R397): Reads and clears the lost-record counter as one event. -/
  | loglostRead
  /-- `FAULTREPLY_RETRY` (R404): faultreply with bit 63 clear retries a held translation. -/
  | faultreplyRetry (seq : Nat)
  /-- `FAULTREPLY_FAIL` (R404): faultreply with bit 63 set fails a held access with status 0x03. -/
  | faultreplyFail (seq : Nat)
  /-- `HELD_FAULT_TIMEOUT` (R404): A held page fault fails with status 0x03 after 100 ms. -/
  | heldFaultTimeout (seq : Nat)
  /-- `CONFIG_CHANGE_RELOAD` (R364): A raised change word reloads units, finishes invalidations and writes the acknowledgement. -/
  | configChangeReload
  /-- `ATTESTATION_START` (R407): Writing 1 to the attestation command produces a signed report. -/
  | attestationStart
  /-- `RESTORE_APPEND` (R406): rcmd 1 appends a firmware chunk. -/
  | restoreAppend
  /-- `RESTORE_COMMIT` (R406): rcmd 2 verifies and commits the image and reruns bring-up. -/
  | restoreCommit
  /-- `RESTORE_DISCARD` (R406): rcmd 3 discards appended bytes. -/
  | restoreDiscard
  /-- `RETRAIN_WORD_WRITE` (R485): A retrain-word write starts retraining of a down port or is ignored and logged. -/
  | retrainWordWrite (data : Word)
  /-- `DEBUG_HOLD_WRITE` (R501): Writing hold; clearing it ends every held halted group. -/
  | debugHoldWrite (data : Word)
  /-- `DEBUG_MAILBOX_RELOAD` (R497): A change word differing from ack reloads breakpoints, step and watchpoints and writes ack. -/
  | debugMailboxReload
  /-- `CAMTOS_WRITE_COMMAND` (R366): A write command head and its body arrive and are performed at the target, then a response is sent. -/
  | camtosWriteCommand (port : Nat) (index : Nat)
  /-- `CAMTOS_ADD_COMMAND` (R366): An n64 add command is performed at the target and answered. -/
  | camtosAddCommand (port : Nat) (index : Nat)
  /-- `CAMTOS_RESERVED_OP` (R366): A command head with a reserved op is refused with status 0x05. -/
  | camtosReservedOp (port : Nat) (index : Nat)
  /-- `CAMTOS_BODY_FLIT` (R366): A body flit follows its head by link tag. -/
  | camtosBodyFlit (port : Nat) (index : Nat)
  /-- `CAMTOS_RESPONSE` (R366): A response flit ends the origin's command acknowledgement. -/
  | camtosResponse (port : Nat) (index : Nat)
  /-- `LINK_ACK` (R367): A link-control acknowledgement releases flits from the replay buffer. -/
  | linkAck (port : Nat) (seq : Nat)
  /-- `LINK_NAK` (R367): A negative acknowledgement replays from the named flit. -/
  | linkNak (port : Nat) (seq : Nat)
  /-- `LINK_CREDIT_UPDATE` (R365): A credit-only link-control flit returns credits. -/
  | linkCreditUpdate (port : Nat) (vc : Nat) (credits : Nat)
  /-- `FLIT_CRC_FAIL` (R367): A flit failing CRC is discarded with later flits and a NAK returned. -/
  | flitCrcFail (port : Nat)
  /-- `LINK_CONTROL_PERIODIC` (R366): A port sends link control at least every 64 flit times while flits are unacknowledged. -/
  | linkControlPeriodic (port : Nat)
  /-- `REPLAY_TIMEOUT` (R366): An unacknowledged flit waiting 1 µs is replayed. -/
  | replayTimeout (port : Nat)
  /-- `PORT_RETRAIN` (R483): After 8 failed replays the port retrains and resumes replay or goes down. -/
  | portRetrain (port : Nat) (ok : Bool)
  /-- `HOST_RETRAIN_TIMEOUT` (R484): In host-assisted mode commands wait 100 ms for a retrain command then end. -/
  | hostRetrainTimeout (port : Nat)
  /-- `PTP_EVENT_MESSAGE` (R370): A PTP event message is timestamped and the servo adjusts the clock. -/
  | ptpEventMessage (message : Nat) (sequence : Nat) (seconds : Nat) (nanos : Nat)
  /-- `PTP_LOCK_CHANGE` (R491): PTP lock lost or regained is logged and frame starts continue. -/
  | ptpLockChange (locked : Bool)
  /-- `FRAME_START` (R374): At a frame start the due entry with largest T becomes the scanned buffer. -/
  | frameStart (output : Nat)
  /-- `FRAME_BUFFER_RETIRE` (R374): Once the previous frame has read them, replaced entries add 1 to retire words. -/
  | frameBufferRetire (output : Nat)
  /-- `DISPLAY_PENDING_ROOM` (R373): A blocked frel appends when pending lists have room. -/
  | displayPendingRoom (g : Nat)
  /-- `POWER_ON_BRINGUP` (R375): After power good Porman verifies firmware, trains, sets P and G, reserves areas and sets ready. -/
  | powerOnBringup
  /-- `POWER_LIMIT_THROTTLE` (R20): Porman lowers the clock to hold draw at 4,500 W. -/
  | powerLimitThrottle (watts : Nat)
  /-- `INLET_CLOCK_STEP` (R379): A coolant inlet change steps the arithmetic clock and logs 0x0606. -/
  | inletClockStep (celsius : Nat)
  /-- `PATROL_SCRUB` (R405): Patrol scrub reads DRAM units, corrects or logs latent errors. -/
  | patrolScrub (unit : Nat)
  /-- `SCRATCHPAD_SCRUB` (R378): Scrub of one scratchpad line per slice or core per 1,024 clocks. -/
  | scratchpadScrub (unit : Nat) (line : Nat)
  /-- `DRAM_CALIBRATION` (R405): Periodic DRAM and LPDDR6 calibration, logging failures. -/
  | dramCalibration (channel : Nat) (ok : Bool)
  /-- `SERDES_CALIBRATION` (R378): Periodic SerDes calibration within its share. -/
  | serdesCalibration (port : Nat) (ok : Bool)
  /-- `ROW_ACTIVITY_MITIGATION` (R378): Row activity mitigation within 1 % of each stack channel. -/
  | rowActivityMitigation (stack : Nat) (channel : Nat)
  /-- `AGING_MONITOR` (R405): An aging monitor past its limit is logged with code 0x0605. -/
  | agingMonitor (unit : Nat)
  /-- `MODULE_RESET` (R131): A module reset zeroes the core clocks and %clock, clears density histories, restarts log sequence numbers and ends the period in which P is fixed. -/
  | moduleReset
  /-- `CODE_OBJECT_LOAD` (R111): Loading a code object builds its 32 KiB code map from pages with the exec bit and clears the density history of its entry points. -/
  | codeObjectLoad (ctx base size text textEnd mstream mstreamEnd : Nat)
  /-- `CODE_OBJECT_UNLOAD` (R23): Unloading a code object clears the density history of its entry points and frees no segment. -/
  | codeObjectUnload (code : Nat)
  /-- `CAMTOS_PORT_CONNECT` (R485): A Camtos port with a partner attached trains and moves from not connected to up. -/
  | camtosPortConnect (port : Nat)
deriving DecidableEq, Repr

end Sys2Proof
end

