-- ==== Sys2Proof/Machine/Operands.lean ====
section
/-!
DEFINITION. Operand forms: for every group instruction, what each of its operand fields names and which values of its other
fields its description admits (R145 to R149, R169, and the field tables of chapters 09 to 16 and 18).

The check of R149 and R169 is made from this description and from nothing else: a fault of an operand field is charged to that
operand (0 for d, 1 for a, 2 for b, 3 for c), and every other fault has detail 0x00FF.
-/
namespace Sys2Proof.Machine

/-- What an operand field names. -/
inductive Opnd where
  /-- the field is not used; `zero` says whether it and its kind field are zero, as R149 asks -/
  | unused (zero : Bool)
  /-- vector registers n to n + cnt - 1, n a multiple of `align` -/
  | vec (n cnt align : Nat)
  /-- uniform registers n to n + cnt - 1, n a multiple of `align` -/
  | uni (n cnt align : Nat)
  /-- a special source of Table 7-3 -/
  | spec (code : Nat)
  /-- a reserved kind or code, or a kind the instruction does not accept -/
  | bad
deriving DecidableEq, Repr

/-- The operands of one instruction and whether its remaining fields are admitted. -/
structure Sig where
  d : Opnd
  a : Opnd
  b : Opnd
  c : Opnd
  /-- the old value of d is read -/
  dSrc : Bool
  /-- d is written -/
  dDst : Bool
  /-- c is read -/
  cSrc : Bool
  /-- c is written -/
  cDst : Bool
  /-- no field outside the operands is at fault -/
  ok : Bool
  /-- issue class of Table 7-8 -/
  cls : Nat
deriving DecidableEq, Repr

/-- Whether an operand is legal for a budget of `b` vector and `u` uniform registers (R149, R34). -/
def opndOk (b u : Nat) : Opnd → Bool
  | .unused z => z
  | .vec n cnt align => decide (n % align = 0) && decide (n + cnt ≤ b)
  | .uni n cnt align => decide (n % align = 0) && decide (n + cnt ≤ u)
  | .spec _ => true
  | .bad => false

/-- The detail of the illegal-instruction trap an instruction's fields raise, if any: operand numbers 0 to 3 in ascending order,
then 0x00FF (R149, R169, R422 step 4). -/
def sigDetail (b u : Nat) (g : Sig) : Option Nat :=
  if !opndOk b u g.d then some 0
  else if !opndOk b u g.a then some 1
  else if !opndOk b u g.b then some 2
  else if !opndOk b u g.c then some 3
  else if !g.ok then some 0xFF
  else none

/-- The vector registers an operand names. -/
def opndVecs : Opnd → List Nat
  | .vec n cnt _ => (List.range cnt).map (n + ·)
  | _ => []

/-- The uniform registers an operand names. -/
def opndUnis : Opnd → List Nat
  | .uni n cnt _ => (List.range cnt).map (n + ·)
  | _ => []

/-- The vector registers an instruction reads: its vector sources (R151, R209). -/
def sigVecReads (g : Sig) : List Nat :=
  opndVecs g.a ++ opndVecs g.b ++ (if g.cSrc then opndVecs g.c else []) ++ (if g.dSrc then opndVecs g.d else [])

/-- The vector registers an instruction writes. -/
def sigVecWrites (g : Sig) : List Nat :=
  (if g.dDst then opndVecs g.d else []) ++ (if g.cDst then opndVecs g.c else [])

/-- The uniform registers an instruction reads. -/
def sigUniReads (g : Sig) : List Nat :=
  opndUnis g.a ++ opndUnis g.b ++ (if g.cSrc then opndUnis g.c else []) ++ (if g.dSrc then opndUnis g.d else [])

/-- The uniform registers an instruction writes. -/
def sigUniWrites (g : Sig) : List Nat :=
  (if g.dDst then opndUnis g.d else []) ++ (if g.cDst then opndUnis g.c else [])

/-- Every vector register an instruction names. -/
def sigVecs (g : Sig) : List Nat := sigVecReads g ++ sigVecWrites g

/-- An unused operand field of format T with its kind (R149). -/
def unusedT (n : Byte) (k : BitVec 2) : Opnd := .unused (n == 0 && k == 0)

/-- An unused operand field with no kind. -/
def unusedF (n : Byte) : Opnd := .unused (n == 0)

/-- A source of chapter 09: uniform, or a special source 0x01 to 0x07 (R177). -/
def srcUni (k : BitVec 2) (n : Byte) (cnt : Nat) : Opnd :=
  if k = 1 then .uni n.toNat cnt cnt else if k = 2 ∧ 1 ≤ n.toNat ∧ n.toNat ≤ 7 then .spec n.toNat else .bad

/-- A source that is a uniform register or the literal 0, special code 0x01 (R185, R190, R191). -/
def srcUniOrZero (k : BitVec 2) (n : Byte) : Opnd :=
  if k = 1 then .uni n.toNat 1 1 else if k = 2 ∧ n.toNat = 1 then .spec 1 else .bad

/-- A source that must be uniform. -/
def srcUniOnly (k : BitVec 2) (n : Byte) (cnt align : Nat) : Opnd := if k = 1 then .uni n.toNat cnt align else .bad

/-- A source of chapters 10 and 11 of kind 0, 1 or 2; every special code of Table 7-3 is accepted (R203). -/
def srcAny (k : BitVec 2) (n : Byte) (cnt : Nat) : Opnd :=
  if k = 0 then .vec n.toNat cnt cnt
  else if k = 1 then .uni n.toNat cnt cnt
  else if k = 2 ∧ n.toNat ≤ 7 then .spec n.toNat
  else .bad

/-- A source that must be a vector register. -/
def srcVecOnly (k : BitVec 2) (n : Byte) (cnt align : Nat) : Opnd := if k = 0 then .vec n.toNat cnt align else .bad

/-- A vector destination: a register, or an even pair for a 64-bit result. -/
def dstVec (n : Byte) (cnt : Nat) : Opnd := .vec n.toNat cnt cnt

/-- A uniform register or even pair named by d. -/
def dstUni (n : Byte) (cnt : Nat) : Opnd := .uni n.toNat cnt cnt

/-- An operand of Table 12-3: a uniform register, or a special source 0x01 to 0x07 (R238). -/
def srcE (k : Bool) (n : Byte) : Opnd :=
  if k then .uni n.toNat 1 1 else if 1 ≤ n.toNat ∧ n.toNat ≤ 7 then .spec n.toNat else .bad

/-- No negate, absolute-value, rounding or saturation bit is set (R177). -/
def noModsT (f : FmtT) : Bool := !f.na && !f.nb && !f.nc && !f.aa && !f.ab && !f.ac && f.rnd == 0 && !f.sat

/-- No negate or absolute-value bit is set. -/
def noModsI (f : FmtI) : Bool := !f.na && !f.aa

/-- Whether `rnd` is a rounding code the instructions marked "rnd" accept: 0 to 4 (R205). -/
def rndOk (r : BitVec 3) : Bool := decide (r.toNat ≤ 4)

/-- Registers one operand of a type code takes: 64-bit types (0x2, 0x3, 0x9) take a pair. In format T the code is op[3:0] (R166); a code that
the instruction does not accept still says what its operands take.
DESIGN CHOICE: notes/assumptions/125.md. -/
def typeRegs (t : Nat) : Nat := if t % 16 = 2 ∨ t % 16 = 3 ∨ t % 16 = 9 then 2 else 1

/-- Conditions 0x0 to 0x5 and, in the immediate integer forms, 0xA to 0xD (R167, R210). -/
def immCondOk (c : Nat) : Bool := decide (c ≤ 5) || (decide (0xA ≤ c) && decide (c ≤ 0xD))

/-! ## Shapes shared by several instructions -/

/-- Two-source uniform operation (R179, R182): `n` registers per operand. -/
def sigUniT2 (f : FmtT) (n : Nat) (opOk : Bool) : Sig :=
  ⟨dstUni f.d n, srcUni f.ka f.a n, srcUni f.kb f.b n, unusedT f.c f.kc, false, true, true, false, noModsT f && opOk, 1⟩

/-- Immediate form of a two-source uniform operation. -/
def sigUniI2 (f : FmtI) (n : Nat) (opOk : Bool) : Sig :=
  ⟨dstUni f.d n, srcUni f.ka f.a n, .unused true, .unused true, false, true, true, false, noModsI f && opOk, 1⟩

/-- One-source uniform operation (R182): `nd` registers of result, `na` of source. -/
def sigUniT1 (f : FmtT) (nd na : Nat) (opOk : Bool) : Sig :=
  ⟨dstUni f.d nd, srcUni f.ka f.a na, unusedT f.b f.kb, unusedT f.c f.kc, false, true, true, false, noModsT f && opOk, 1⟩

/-- An instruction of format T all of whose fields but the opcode, and perhaps op, are zero (R197, R198, R200, R202). -/
def sigPlainT (f : FmtT) (opOk : Bool) : Sig :=
  ⟨unusedF f.d, unusedT f.a f.ka, unusedT f.b f.kb, unusedT f.c f.kc, false, false, false, false, noModsT f && opOk, 1⟩

/-- Mask instruction with two sources (R187, Table 9-5): op[1] reads exec for a, op[0] writes a pair. -/
def sigMask2 (f : FmtT) : Sig :=
  let ax := f.op.getLsbD 1
  let dp := f.op.getLsbD 0
  ⟨if dp then dstUni f.d 2 else unusedF f.d, if ax then unusedT f.a f.ka else srcUni f.ka f.a 2, srcUni f.kb f.b 2,
    unusedT f.c f.kc, false, dp, true, false, noModsT f && decide (f.op.toNat < 4), 1⟩

/-- Vector integer instruction of two sources (R208): `n` registers per operand, `.sat` accepted or not. -/
def sigVecT2 (f : FmtT) (n : Nat) (satOk opOk : Bool) : Sig :=
  ⟨dstVec f.d n, srcAny f.ka f.a n, srcAny f.kb f.b n, unusedT f.c f.kc, false, true, true, false,
    noModsT { f with sat := f.sat && !satOk } && opOk, 2⟩

/-- Vector integer instruction of one source. -/
def sigVecT1 (f : FmtT) (nd na : Nat) (satOk opOk : Bool) : Sig :=
  ⟨dstVec f.d nd, srcAny f.ka f.a na, unusedT f.b f.kb, unusedT f.c f.kc, false, true, true, false,
    noModsT { f with sat := f.sat && !satOk } && opOk, 2⟩

/-- Vector integer instruction of three sources (R208, R214). -/
def sigVecT3 (f : FmtT) (satOk opOk : Bool) : Sig :=
  ⟨dstVec f.d 1, srcAny f.ka f.a 1, srcAny f.kb f.b 1, srcAny f.kc f.c 1, false, true, true, false,
    noModsT { f with sat := f.sat && !satOk } && opOk, 2⟩

/-- Immediate vector integer instruction. -/
def sigVecI2 (f : FmtI) (n : Nat) (readD opOk : Bool) : Sig :=
  ⟨dstVec f.d n, srcAny f.ka f.a n, .unused true, .unused true, readD, true, true, false, noModsI f && opOk, 2⟩

/-- Floating-point instruction of two sources, `n` registers each (R215, R219, R220). -/
def sigFltT2 (f : FmtT) (n cls : Nat) (rnd opOk : Bool) : Sig :=
  ⟨dstVec f.d n, srcAny f.ka f.a n, srcAny f.kb f.b n, unusedT f.c f.kc, false, true, true, false,
    !f.nc && !f.ac && !f.sat && (if rnd then rndOk f.rnd else f.rnd == 0) && opOk, cls⟩

/-- Floating-point instruction of three sources. -/
def sigFltT3 (f : FmtT) (n cls : Nat) (opOk : Bool) : Sig :=
  ⟨dstVec f.d n, srcAny f.ka f.a n, srcAny f.kb f.b n, srcAny f.kc f.c n, false, true, true, false,
    !f.sat && rndOk f.rnd && opOk, cls⟩

/-- Floating-point instruction of one source (R217, R218). -/
def sigFltT1 (f : FmtT) (cls : Nat) (rnd : Bool) : Sig :=
  ⟨dstVec f.d 1, srcAny f.ka f.a 1, unusedT f.b f.kb, unusedT f.c f.kc, false, true, true, false,
    !f.nb && !f.nc && !f.ab && !f.ac && !f.sat && (if rnd then rndOk f.rnd else f.rnd == 0) && f.op == 0, cls⟩

/-- Immediate floating-point instruction (R215): negate and absolute value of a are accepted. -/
def sigFltI2 (f : FmtI) (readD : Bool) : Sig :=
  ⟨dstVec f.d 1, srcAny f.ka f.a 1, .unused true, .unused true, readD, true, true, false, f.op == 0, 3⟩

/-- Compare of format T (R210): `n` registers per source, mask to a uniform pair. -/
def sigCmpT (f : FmtT) (n cls : Nat) (negOk opOk : Bool) : Sig :=
  ⟨dstUni f.d 2, srcAny f.ka f.a n, srcAny f.kb f.b n, unusedT f.c f.kc, false, true, true, false,
    (negOk || (!f.na && !f.nb && !f.aa && !f.ab)) && !f.nc && !f.ac && f.rnd == 0 && !f.sat && opOk, cls⟩

/-- Compare of format I. -/
def sigCmpI (f : FmtI) (cls : Nat) (negOk opOk : Bool) : Sig :=
  ⟨dstUni f.d 2, srcAny f.ka f.a 1, .unused true, .unused true, false, true, true, false, (negOk || noModsI f) && opOk, cls⟩

/-! ## Conversion and lanes (chapter 11) -/

/-- A `cvt` float format: f32, bf16, f16, e4m3, e5m2, f64 (R223). -/
def cvtFloat (k : Nat) : Bool := decide (k ≤ 4) || k == 0xE
/-- A `cvt` integer format: i8, n8, i4, n4, i32, n32. -/
def cvtInt (k : Nat) : Bool := (decide (9 ≤ k) && decide (k ≤ 0xD)) || k == 0xF
/-- mx8 in its two forms, and mx4. -/
def cvtMx (k : Nat) : Bool := decide (5 ≤ k) && decide (k ≤ 7)

/-- The pairs of source and destination `cvt` accepts (R223). -/
def cvtPairOk (src dst : Nat) : Bool :=
  ((cvtFloat src || cvtInt src) && (cvtFloat dst || cvtInt dst)) || (decide (src ≤ 1) && cvtMx dst) ||
    ((cvtMx src || src == 8) && cvtFloat dst)

/-- Whether `cvt` uses b: the source is narrower than 32 bits and the destination is not MX (R223). -/
def cvtUsesB (src dst : Nat) : Bool := decide (1 ≤ src) && decide (src ≤ 0xC) && !cvtMx dst

/-- Registers an MX destination takes at width w: n = max(1, 32 / W) (R225). -/
def mxRegs (w : Nat) : Nat := max 1 (32 / w)

/-- `cvt` (R222 to R225); `w` is the group's width, on which the ranges of an MX destination depend. -/
def sigCvt (w : Nat) (f : FmtT) : Sig :=
  let dst := f.op.toNat / 16
  let src := f.op.toNat % 16
  let mxd := cvtMx dst
  let n := mxRegs w
  ⟨if mxd then .vec f.d.toNat n 1 else dstVec f.d (if dst = 0xE then 2 else 1),
    if mxd then srcVecOnly f.ka f.a n 1 else srcAny f.ka f.a (if src = 0xE then 2 else 1),
    if cvtUsesB src dst then srcAny f.kb f.b 1 else unusedT f.b f.kb,
    if mxd then srcUniOnly f.kc f.c 1 1
    else if cvtMx src then (if f.kc = 0 then .vec f.c.toNat 1 1 else if f.kc = 1 then .uni f.c.toNat 1 1 else .bad)
    else if src = 8 then srcUniOnly f.kc f.c 8 1 else unusedT f.c f.kc,
    false, true, !mxd, mxd,
    cvtPairOk src dst && !f.nb && !f.nc && !f.ab && !f.ac && (!(f.na || f.aa) || !cvtInt src) && decide (f.rnd.toNat ≤ 5) &&
      (!mxd || (f.rnd == 0 && !f.sat)) && (!f.sat || (cvtFloat src && cvtFloat dst) || (cvtInt src && cvtInt dst)), 6⟩

/-- Sub-group width S of op[1:0]: 8, 16, 32 or 64 (Table 11-3). -/
def subWidth (op : Byte) : Nat := 8 * 2 ^ (op.toNat % 4)

/-- A count, lane number or seed of kind 1 or 2 (R226, R229, R232); every special code is accepted (R203, R425). -/
def srcCount (k : BitVec 2) (n : Byte) (cnt : Nat) : Opnd :=
  if k = 1 then .uni n.toNat cnt cnt else if k = 2 ∧ n.toNat ≤ 7 then .spec n.toNat else .bad

/-- `vperm` and `vshfl` (R226). -/
def sigPerm (w : Nat) (f : FmtT) (shfl : Bool) : Sig :=
  let n := if f.op.getLsbD 3 then 2 else 1
  let mk := f.op.getLsbD 2
  let mode := f.op.toNat / 16 % 8
  ⟨dstVec f.d n, srcVecOnly f.ka f.a n n,
    if shfl then srcCount f.kb f.b 1
    else if f.kb = 0 then .vec f.b.toNat 1 1 else if f.kb = 1 then .uni f.b.toNat 1 1 else .bad,
    if mk then srcUniOnly f.kc f.c 2 2 else unusedT f.c f.kc, false, true, false, mk,
    noModsT f && !f.op.getLsbD 7 && (if shfl then decide (mode ≤ 3) else mode == 0) && decide (subWidth f.op ≤ w), 6⟩

/-- `vred` and `vscan` (R230): op[7:5] oper, op[4:2] type, op[1:0] sub. -/
def sigRed (w : Nat) (f : FmtT) (scan : Bool) : Sig :=
  let oper := f.op.toNat / 32
  let ty := f.op.toNat / 4 % 8
  let n := if ty = 2 ∨ ty = 3 ∨ ty = 5 then 2 else 1
  let flt := decide (4 ≤ ty)
  ⟨dstVec f.d n, srcAny f.ka f.a n, if scan then srcCount f.kb f.b n else unusedT f.b f.kb, unusedT f.c f.kc,
    false, true, true, false,
    decide (oper ≤ 5) && decide (ty ≤ 5) && (!flt || decide (oper ≤ 2)) && decide (subWidth f.op ≤ w) && !f.nb && !f.nc &&
      !f.ab && !f.ac && !f.sat && (flt || (!f.na && !f.aa)) && (if flt && oper == 0 then rndOk f.rnd else f.rnd == 0), 6⟩

/-! ## Memory, atomics and synchronisation (chapter 12) -/

/-- Loads and stores of format M (R147, R234, R426); `feMax` is the highest full/empty mode the instruction accepts. -/
def sigMem (f : FmtM) (load stkOk : Bool) (feMax : Nat) : Sig :=
  let n := if f.size = 3 then 2 else 1
  ⟨dstVec f.d n, if f.ka then .uni f.a.toNat 1 1 else .vec f.a.toNat 1 1,
    if f.bu then .uni f.b.toNat 1 1 else unusedF f.b, .unused true, !load, load, true, false,
    decide (f.size.toNat ≤ 3) && decide (f.fe.toNat ≤ feMax) && (!f.stk || (stkOk && f.fe == 0)) && (load || !f.sx) &&
      f.rsvd == 0, 7⟩

/-- The address pair of format A (R239). -/
def addrPair (f : FmtA) : Opnd := if f.ka then .uni f.a.toNat 2 2 else .vec f.a.toNat 2 2

/-- A data operand of format A: `cnt` registers, aligned to `cnt`. -/
def dataA (k : Bool) (n : Byte) (cnt : Nat) : Opnd := if k then .uni n.toNat cnt cnt else .vec n.toNat cnt cnt

/-- An unused operand of format A with its kind bit. -/
def unusedA (k : Bool) (n : Byte) : Opnd := .unused (n == 0 && !k)

/-- Order and scope of an atomic: order 0 to 4, relaxed requires scope 0, scope 7 is reserved (R148, R239, R429). -/
def orderOk (f : FmtA) : Bool :=
  decide (f.order.toNat ≤ 4) && (f.order != 0 || f.scope == 0) && f.scope != 7

/-- Operation and type of Table 8-5. -/
def atomTypeOk (oper ty : Nat) : Bool :=
  if oper ≤ 2 then decide (ty ≤ 3) || (decide (8 ≤ ty) && decide (ty ≤ 0xB))
  else if oper ≤ 5 then decide (ty ≤ 3)
  else oper == 6 && (decide (ty ≤ 3) || ty == 8 || ty == 9)

/-- `atop` (R240). -/
def sigAtop (f : FmtA) : Sig :=
  let ty := f.op.toNat / 16 % 16
  let n := typeRegs ty
  ⟨if f.ret then dstVec f.d n else unusedF f.d, addrPair f, dataA f.kb f.b n, unusedA f.kc f.c, false, f.ret, true, false,
    orderOk f && decide (f.op.toNat < 256) && atomTypeOk (f.op.toNat % 16) ty, 7⟩

/-- `atcas` (R241). -/
def sigAtcas (f : FmtA) : Sig :=
  let ty := f.op.toNat / 16 % 16
  let n := typeRegs ty
  ⟨dstVec f.d n, addrPair f, dataA f.kb f.b n, dataA f.kc f.c n, false, true, true, false,
    orderOk f && f.ret && decide (f.op.toNat < 256) && decide (f.op.toNat % 16 = 0) && decide (ty ≤ 3), 7⟩

/-- `atcas128` (R242). -/
def sigAtcas128 (f : FmtA) : Sig :=
  ⟨dstVec f.d 4, addrPair f, dataA f.kb f.b 4, dataA f.kc f.c 4, false, true, true, false, orderOk f && f.ret && f.op == 0, 7⟩

/-- `mcas` (R244, R433). -/
def sigMcas (f : FmtA) : Sig :=
  ⟨dstUni f.d 1, if f.ka then .uni f.a.toNat 2 2 else .bad, unusedA f.kb f.b, unusedA f.kc f.c, false, true, false, false,
    f.order == 4 && f.scope == 4 && f.ret && f.op == 0, 7⟩

/-- `redb` (R248). -/
def sigRedb (f : FmtA) : Sig :=
  let ty := f.op.toNat / 16 % 16
  ⟨unusedF f.d, addrPair f, dataA f.kb f.b (typeRegs ty), unusedA f.kc f.c, false, false, false, false,
    f.order == 0 && f.scope == 0 && !f.ret && decide (f.op.toNat < 256) && decide (f.op.toNat % 16 ≤ 5) &&
      atomTypeOk (f.op.toNat % 16) ty, 7⟩

/-- `redf` (R249): every field but the opcode is zero. -/
def sigRedf (f : FmtA) : Sig :=
  ⟨unusedF f.d, unusedA f.ka f.a, unusedA f.kb f.b, unusedA f.kc f.c, false, false, false, false,
    f.order == 0 && f.scope == 0 && !f.ret && f.op == 0, 7⟩

/-- `waita` (R250). -/
def sigWaita (f : FmtA) : Sig :=
  let ty := f.op.toNat / 16 % 16
  let n := typeRegs ty
  ⟨dstUni f.d 1, if f.ka then .uni f.a.toNat 2 2 else .bad, if f.kb then .uni f.b.toNat n n else .bad,
    if f.kc then .uni f.c.toNat n n else .bad, false, true, true, false,
    f.order == 0 && f.scope == 0 && !f.ret && decide (f.op.toNat < 256) && decide (f.op.toNat % 16 ≤ 5) && decide (ty ≤ 3), 7⟩

/-- `fence` (R251): order 1 to 4, scope 0 to 6. -/
def sigFence (f : FmtA) : Sig :=
  ⟨unusedF f.d, unusedA f.ka f.a, unusedA f.kb f.b, unusedA f.kc f.c, false, false, false, false,
    decide (1 ≤ f.order.toNat) && decide (f.order.toNat ≤ 4) && f.scope != 7 && !f.ret && f.op == 0, 7⟩

/-- No ordering field of format E is set. -/
def noOrderE (f : FmtE) : Bool := !f.acq && f.acqScope == 0 && !f.rel && f.relScope == 0

/-- An instruction of Table 12-3: which of d, a and b it uses; `opOk` is the test of op[12:0]. -/
def sigE12 (f : FmtE) (useD useA useB opOk : Bool) : Sig :=
  let ka := f.op.getLsbD 15
  let kb := f.op.getLsbD 14
  ⟨if useD then dstUni f.d 1 else unusedF f.d, if useA then srcE ka f.a else .unused (f.a == 0 && !ka),
    if useB then srcE kb f.b else .unused (f.b == 0 && !kb), .unused (f.c == 0 && !f.op.getLsbD 13), false, useD, false, false,
    noOrderE f && opOk, 7⟩

/-- op[12:0] of Table 12-3. -/
def opE12 (f : FmtE) : Nat := f.op.toNat % 2 ^ 13

/-! ## Engines, rendering, graph and frames (chapters 13 to 16 and 18) -/

/-- A flag with its scope field: zero when the flag is clear, between `lo` and `hi` when it is set. -/
def scopeOk (flag : Bool) (scope : BitVec 3) (lo hi : Nat) : Bool :=
  if flag then decide (lo ≤ scope.toNat) && decide (scope.toNat ≤ hi) else scope == 0

/-- A tow instruction (Table 13-1): scope `fabric` is accepted by `tremote` alone. -/
def sigTow (f : FmtE) (maxScope : Nat) : Sig :=
  ⟨unusedF f.d, .uni f.a.toNat 1 1, .uni f.b.toNat 1 1, unusedF f.c, false, false, false, false,
    scopeOk f.acq f.acqScope 0 maxScope && scopeOk f.rel f.relScope 0 maxScope && f.op == 0, 8⟩

/-- `fork` (Table 14-2). -/
def sigFork (f : FmtE) : Sig :=
  let dflt := f.op.getLsbD 0
  ⟨.uni f.d.toNat 16 1, if dflt then unusedF f.a else .uni f.a.toNat 2 2, .uni f.b.toNat 1 1, .uni f.c.toNat 1 1,
    true, false, true, false, scopeOk f.acq f.acqScope 1 4 && scopeOk f.rel f.relScope 1 4 && decide (f.op.toNat < 2), 8⟩

/-- `rdv` (Table 14-2). -/
def sigRdv (f : FmtE) : Sig :=
  ⟨dstUni f.d 1, unusedF f.a, unusedF f.b, unusedF f.c, false, true, false, false, noOrderE f && f.op == 0, 8⟩

/-- `rast` (Table 16-1). -/
def sigRast (f : FmtE) : Sig :=
  ⟨.vec f.d.toNat 5 1, .uni f.a.toNat 9 1, .uni f.b.toNat 2 2, .uni f.c.toNat 2 2, false, true, true, true,
    noOrderE f && decide (f.op.toNat ≤ 2), 8⟩

/-- `trace`, `qfilt` and `qhash` (Table 15-4): `n` source registers; c used or zero. -/
def sigQuay (f : FmtE) (n : Nat) (useC : Bool) : Sig :=
  ⟨.uni f.d.toNat 1 1, .vec f.a.toNat n 1, .uni f.b.toNat 2 2, if useC then .uni f.c.toNat 1 1 else unusedF f.c,
    true, false, true, false, scopeOk f.acq f.acqScope 1 4 && !f.rel && f.relScope == 0 && f.op == 0, 8⟩

/-- `callq` (Table 16-1). The payload count and the use of c follow from the call word and are checked at issue (R441). -/
def sigCallq (f : FmtE) : Sig :=
  ⟨.uni f.d.toNat 1 1, .vec f.a.toNat 1 1, .uni f.b.toNat 1 1, .uni f.c.toNat 2 2, true, false, true, false,
    scopeOk f.acq f.acqScope 1 4 && !f.rel && f.relScope == 0 && f.op == 0, 8⟩

/-- `tokacq` (Table 16-1). -/
def sigTokacq (f : FmtE) : Sig :=
  ⟨dstUni f.d 1, .uni f.a.toNat 1 1, .uni f.b.toNat 1 1, unusedF f.c, false, true, false, false, noOrderE f && f.op == 0, 8⟩

/-- `tokskip` (Table 16-1): at least one of op[1:0] is set. -/
def sigTokskip (f : FmtE) : Sig :=
  ⟨unusedF f.d, .uni f.a.toNat 1 1, .uni f.b.toNat 2 2, unusedF f.c, false, false, false, false,
    noOrderE f && decide (1 ≤ f.op.toNat) && decide (f.op.toNat ≤ 3), 8⟩

/-- `enqr` (Table 16-1). -/
def sigEnqr (f : FmtE) : Sig :=
  ⟨unusedF f.d, .uni f.a.toNat 1 1, .uni f.b.toNat 1 1, .uni f.c.toNat 1 1, false, false, true, false,
    !f.acq && f.acqScope == 0 && scopeOk f.rel f.relScope 1 4 && decide (f.op.toNat ≤ 3), 8⟩

/-- `frel` (R373): acquire scope 1 to 5. -/
def sigFrel (f : FmtE) : Sig :=
  ⟨dstUni f.d 1, .uni f.a.toNat 1 1, .uni f.b.toNat 2 2, .uni f.c.toNat 2 2, false, true, true, false,
    scopeOk f.acq f.acqScope 1 5 && !f.rel && f.relScope == 0 && f.op == 0, 8⟩

/-- `pqlaunch` (R320): the fields of Table 13-1 with a an even uniform pair. -/
def sigPqlaunch (f : FmtE) : Sig :=
  ⟨unusedF f.d, .uni f.a.toNat 2 2, .uni f.b.toNat 1 1, unusedF f.c, false, false, false, false,
    scopeOk f.acq f.acqScope 0 5 && scopeOk f.rel f.relScope 0 5 && f.op == 0, 8⟩

/-! ## The description of every group instruction -/

/-- Registers a system register takes: a pair when Table 3-3 gives it 64 bits, one word otherwise (R57, R186). -/
def sysRegs (n : Nat) : Nat :=
  if n = 0x0C ∨ n = 0x10 ∨ n = 0x11 ∨ n = 0x12 ∨ n = 0x1B ∨ n = 0x1D ∨ n = 0x1E ∨ n = 0x1F then 2 else 1

/-- Operand forms of `sadd` (R179). -/
def sigSaddOf (f : FmtT) : Sig :=
  sigUniT2 f 1 (f.op == 0)

/-- Operand forms of `saddImm` (R179). -/
def sigSaddImmOf (f : FmtI) : Sig :=
  sigUniI2 f 1 (f.op == 0)

/-- Operand forms of `ssub` (R179). -/
def sigSsubOf (f : FmtT) : Sig :=
  sigUniT2 f 1 (f.op == 0)

/-- Operand forms of `ssubImm` (R179). -/
def sigSsubImmOf (f : FmtI) : Sig :=
  sigUniI2 f 1 (f.op == 0)

/-- Operand forms of `smul` (R179). -/
def sigSmulOf (f : FmtT) : Sig :=
  sigUniT2 f 1 (f.op == 0)

/-- Operand forms of `smulImm` (R179). -/
def sigSmulImmOf (f : FmtI) : Sig :=
  sigUniI2 f 1 (f.op == 0)

/-- Operand forms of `smulh` (R179). -/
def sigSmulhOf (f : FmtT) : Sig :=
  sigUniT2 f 1 (decide (f.op.toNat ≤ 1))

/-- Operand forms of `smulhImm` (R179). -/
def sigSmulhImmOf (f : FmtI) : Sig :=
  sigUniI2 f 1 (decide (f.op.toNat ≤ 1))

/-- Operand forms of `sand` (R179). -/
def sigSandOf (f : FmtT) : Sig :=
  sigUniT2 f 1 (f.op == 0)

/-- Operand forms of `sandImm` (R179). -/
def sigSandImmOf (f : FmtI) : Sig :=
  sigUniI2 f 1 (f.op == 0)

/-- Operand forms of `sor` (R179). -/
def sigSorOf (f : FmtT) : Sig :=
  sigUniT2 f 1 (f.op == 0)

/-- Operand forms of `sorImm` (R179). -/
def sigSorImmOf (f : FmtI) : Sig :=
  sigUniI2 f 1 (f.op == 0)

/-- Operand forms of `sxor` (R179). -/
def sigSxorOf (f : FmtT) : Sig :=
  sigUniT2 f 1 (f.op == 0)

/-- Operand forms of `sxorImm` (R179). -/
def sigSxorImmOf (f : FmtI) : Sig :=
  sigUniI2 f 1 (f.op == 0)

/-- Operand forms of `sandn` (R179). -/
def sigSandnOf (f : FmtT) : Sig :=
  sigUniT2 f 1 (f.op == 0)

/-- Operand forms of `sandnImm` (R179). -/
def sigSandnImmOf (f : FmtI) : Sig :=
  sigUniI2 f 1 (f.op == 0)

/-- Operand forms of `sshl` (R179). -/
def sigSshlOf (f : FmtT) : Sig :=
  sigUniT2 f 1 (f.op == 0)

/-- Operand forms of `sshlImm` (R179). -/
def sigSshlImmOf (f : FmtI) : Sig :=
  sigUniI2 f 1 (f.op == 0)

/-- Operand forms of `sshr` (R179). -/
def sigSshrOf (f : FmtT) : Sig :=
  sigUniT2 f 1 (f.op == 0)

/-- Operand forms of `sshrImm` (R179). -/
def sigSshrImmOf (f : FmtI) : Sig :=
  sigUniI2 f 1 (f.op == 0)

/-- Operand forms of `ssra` (R179). -/
def sigSsraOf (f : FmtT) : Sig :=
  sigUniT2 f 1 (f.op == 0)

/-- Operand forms of `ssraImm` (R179). -/
def sigSsraImmOf (f : FmtI) : Sig :=
  sigUniI2 f 1 (f.op == 0)

/-- Operand forms of `smin` (R179). -/
def sigSminOf (f : FmtT) : Sig :=
  sigUniT2 f 1 (decide (f.op.toNat ≤ 1))

/-- Operand forms of `sminImm` (R179). -/
def sigSminImmOf (f : FmtI) : Sig :=
  sigUniI2 f 1 (decide (f.op.toNat ≤ 1))

/-- Operand forms of `smax` (R179). -/
def sigSmaxOf (f : FmtT) : Sig :=
  sigUniT2 f 1 (decide (f.op.toNat ≤ 1))

/-- Operand forms of `smaxImm` (R179). -/
def sigSmaxImmOf (f : FmtI) : Sig :=
  sigUniI2 f 1 (decide (f.op.toNat ≤ 1))

/-- Operand forms of `scmp` (R180). -/
def sigScmpOf (f : FmtT) : Sig :=
  ⟨dstUni f.d 1, srcUni f.ka f.a (typeRegs (f.op.toNat % 16)), srcUni f.kb f.b (typeRegs (f.op.toNat % 16)), unusedT f.c f.kc, false, true, true, false, noModsT f && decide (f.op.toNat / 16 ≤ 5) && decide (f.op.toNat % 16 ≤ 3), 1⟩

/-- Operand forms of `scmpImm` (R180). -/
def sigScmpImmOf (f : FmtI) : Sig :=
  sigUniI2 f 1 (immCondOk f.op.toNat)

/-- Operand forms of `ssel` (R181). -/
def sigSselOf (f : FmtT) : Sig :=
  ⟨dstUni f.d 1, srcUni f.ka f.a 1, srcUni f.kb f.b 1, srcUni f.kc f.c 1, false, true, true, false, noModsT f && f.op == 0, 1⟩

/-- Operand forms of `sselImm` (R181). -/
def sigSselImmOf (f : FmtI) : Sig :=
  { sigUniI2 f 1 (f.op == 0) with dSrc := true }

/-- Operand forms of `smov` (R182). -/
def sigSmovOf (f : FmtT) : Sig :=
  sigUniT1 f (typeRegs f.op.toNat) (typeRegs f.op.toNat) (decide (f.op.toNat ≤ 3))

/-- Operand forms of `sadd64` (R182). -/
def sigSadd64Of (f : FmtT) : Sig :=
  sigUniT2 f 2 (f.op == 0)

/-- Operand forms of `sadd64Imm` (R182). -/
def sigSadd64ImmOf (f : FmtI) : Sig :=
  sigUniI2 f 2 (f.op == 0)

/-- Operand forms of `ssub64` (R182). -/
def sigSsub64Of (f : FmtT) : Sig :=
  sigUniT2 f 2 (f.op == 0)

/-- Operand forms of `ssub64Imm` (R182). -/
def sigSsub64ImmOf (f : FmtI) : Sig :=
  sigUniI2 f 2 (f.op == 0)

/-- Operand forms of `sbfe` (R183). -/
def sigSbfeOf (f : FmtT) : Sig :=
  sigUniT2 f 1 (decide (f.op.toNat ≤ 1))

/-- Operand forms of `sbfeImm` (R183). -/
def sigSbfeImmOf (f : FmtI) : Sig :=
  sigUniI2 f 1 (decide (f.op.toNat ≤ 1) && decide (f.imm.toNat < 2 ^ 16))

/-- Operand forms of `sbfi` (R183). -/
def sigSbfiOf (f : FmtT) : Sig :=
  { sigUniT2 f 1 (f.op == 0) with dSrc := true }

/-- Operand forms of `sbfiImm` (R183). -/
def sigSbfiImmOf (f : FmtI) : Sig :=
  { sigUniI2 f 1 (f.op == 0 && decide (f.imm.toNat < 2 ^ 16)) with dSrc := true }

/-- Operand forms of `spopc` (R182). -/
def sigSpopcOf (f : FmtT) : Sig :=
  sigUniT1 f 1 (typeRegs f.op.toNat) (decide (f.op.toNat ≤ 3))

/-- Operand forms of `sclz` (R182). -/
def sigSclzOf (f : FmtT) : Sig :=
  sigUniT1 f 1 (typeRegs f.op.toNat) (decide (f.op.toNat ≤ 3))

/-- Operand forms of `sffs` (R182). -/
def sigSffsOf (f : FmtT) : Sig :=
  sigUniT1 f 1 (typeRegs f.op.toNat) (decide (f.op.toNat ≤ 3))

/-- Operand forms of `sli` (R184). -/
def sigSliOf (f : FmtI) : Sig :=
  ⟨dstUni f.d (typeRegs f.op.toNat), unusedT f.a f.ka, .unused true, .unused true, false, true, false, false, noModsI f && decide (f.op.toNat ≤ 3), 1⟩

/-- Operand forms of `sldk` (R185). -/
def sigSldkOf (f : FmtI) : Sig :=
  ⟨dstUni f.d (typeRegs f.op.toNat), srcUniOrZero f.ka f.a, .unused true, .unused true, false, true, false, false, noModsI f && (f.op == 0 || f.op == 2), 1⟩

/-- Operand forms of `srd` (R186). -/
def sigSrdOf (f : FmtI) : Sig :=
  ⟨dstUni f.d (sysRegs f.imm.toNat), unusedT f.a f.ka, .unused true, .unused true, false, true, false, false, noModsI f && f.op == 0 && decide (f.imm.toNat < 256), 1⟩

/-- Operand forms of `swr` (R186). -/
def sigSwrOf (f : FmtI) : Sig :=
  ⟨unusedF f.d, srcUni f.ka f.a (sysRegs f.imm.toNat), .unused true, .unused true, false, false, false, false, noModsI f && f.op == 0 && decide (f.imm.toNat < 256), 1⟩

/-- Operand forms of `mget` (R187). -/
def sigMgetOf (f : FmtT) : Sig :=
  ⟨dstUni f.d 2, unusedT f.a f.ka, unusedT f.b f.kb, unusedT f.c f.kc, false, true, false, false, noModsT f && f.op == 0, 1⟩

/-- Operand forms of `mset` (R187). -/
def sigMsetOf (f : FmtT) : Sig :=
  ⟨unusedF f.d, srcUni f.ka f.a 2, unusedT f.b f.kb, unusedT f.c f.kc, false, false, false, false, noModsT f && f.op == 0, 1⟩

/-- Operand forms of `mand` (R187). -/
def sigMandOf (f : FmtT) : Sig :=
  sigMask2 f

/-- Operand forms of `mandn` (R187). -/
def sigMandnOf (f : FmtT) : Sig :=
  sigMask2 f

/-- Operand forms of `mor` (R187). -/
def sigMorOf (f : FmtT) : Sig :=
  sigMask2 f

/-- Operand forms of `mxor` (R187). -/
def sigMxorOf (f : FmtT) : Sig :=
  sigMask2 f

/-- Operand forms of `mcnt` (R187). -/
def sigMcntOf (f : FmtT) : Sig :=
  ⟨dstUni f.d 1, if f.op.getLsbD 1 then unusedT f.a f.ka else srcUni f.ka f.a 2, unusedT f.b f.kb, unusedT f.c f.kc, false, true, false, false, noModsT f && (f.op == 0 || f.op == 2), 1⟩

/-- Operand forms of `ret` (R191). -/
def sigRetOf (f : FmtT) : Sig :=
  ⟨unusedF f.d, srcUniOnly f.ka f.a 2 2, srcUniOrZero f.kb f.b, unusedT f.c f.kc, false, false, false, false, noModsT f && f.op == 0, 1⟩

/-- Operand forms of `exit` (R197). -/
def sigExitOf (f : FmtT) : Sig :=
  sigPlainT f (f.op == 0)

/-- Operand forms of `nop` (R198). -/
def sigNopOf (f : FmtT) : Sig :=
  sigPlainT f (f.op == 0)

/-- Operand forms of `yield` (R198). -/
def sigYieldOf (f : FmtT) : Sig :=
  sigPlainT f (f.op == 0)

/-- Operand forms of `bkpt` (R200). -/
def sigBkptOf (f : FmtT) : Sig :=
  sigPlainT f true

/-- Operand forms of `trapret` (R412). -/
def sigTrapretOf (f : FmtT) : Sig :=
  sigPlainT f (f.op == 0)

/-- Operand forms of `br` (R189). -/
def sigBrOf (f : FmtI) : Sig :=
  ⟨unusedF f.d, if f.op = 1 then srcUniOnly f.ka f.a 2 2 else unusedT f.a f.ka, .unused (f.op == 1 || decide (f.imm.toNat % 8 = 0)), .unused true, false, false, false, false, noModsI f && decide (f.op.toNat ≤ 1), 1⟩

/-- Operand forms of `bz` (R189). -/
def sigBzOf (f : FmtI) : Sig :=
  ⟨unusedF f.d, unusedT f.a f.ka, .unused (decide (f.imm.toNat % 8 = 0)), .unused true, false, false, false, false, noModsI f && f.op == 0, 1⟩

/-- Operand forms of `bnz` (R189). -/
def sigBnzOf (f : FmtI) : Sig :=
  ⟨unusedF f.d, unusedT f.a f.ka, .unused (decide (f.imm.toNat % 8 = 0)), .unused true, false, false, false, false, noModsI f && f.op == 0, 1⟩

/-- Operand forms of `bs` (R189). -/
def sigBsOf (f : FmtI) : Sig :=
  ⟨unusedF f.d, srcUni f.ka f.a 1, .unused (decide (f.imm.toNat % 8 = 0)), .unused true, false, false, false, false, noModsI f && decide (f.op.toNat ≤ 1), 1⟩

/-- Operand forms of `call` (R190). -/
def sigCallOf (f : FmtI) : Sig :=
  ⟨dstUni f.d 2, srcUniOrZero f.ka f.a, .unused (f.op == 1 || decide (f.imm.toNat % 8 = 0)), .unused true, f.op == 1, true, false, false, noModsI f && decide (f.op.toNat ≤ 1), 1⟩

/-- Operand forms of `loop` (R193). -/
def sigLoopOf (f : FmtI) : Sig :=
  ⟨unusedF f.d, srcUni f.ka f.a 1, .unused (decide (f.imm.toNat % 8 = 0)), .unused true, false, false, false, false, noModsI f && f.op == 0, 1⟩

/-- Operand forms of `lbrk` (R195). -/
def sigLbrkOf (f : FmtI) : Sig :=
  ⟨unusedF f.d, if f.op = 2 ∨ f.op = 3 then srcUni f.ka f.a 1 else unusedT f.a f.ka, .unused (f.imm == 0), .unused true, false, false, false, false, noModsI f && decide (f.op.toNat ≤ 3), 1⟩

/-- Operand forms of `sleep` (R199). -/
def sigSleepOf (f : FmtI) : Sig :=
  ⟨unusedF f.d, if f.ka = 1 then .uni f.a.toNat 1 1 else unusedT f.a f.ka, .unused true, .unused true, false, false, false, false, noModsI f && f.op == 0, 1⟩

/-- Operand forms of `trap` (R201). -/
def sigTrapOf (f : FmtI) : Sig :=
  ⟨unusedF f.d, unusedT f.a f.ka, .unused true, .unused true, false, false, false, false, noModsI f && f.op == 0 && decide (f.imm.toNat < 2 ^ 16), 1⟩

/-- Operand forms of `vadd` (R208). -/
def sigVaddOf (f : FmtT) : Sig :=
  sigVecT2 f (typeRegs f.op.toNat) true (decide (f.op.toNat ≤ 3))

/-- Operand forms of `vaddImm` (R208). -/
def sigVaddImmOf (f : FmtI) : Sig :=
  sigVecI2 f (typeRegs f.op.toNat) false (decide (f.op.toNat ≤ 3))

/-- Operand forms of `vsub` (R208). -/
def sigVsubOf (f : FmtT) : Sig :=
  sigVecT2 f (typeRegs f.op.toNat) true (decide (f.op.toNat ≤ 3))

/-- Operand forms of `vsubImm` (R208). -/
def sigVsubImmOf (f : FmtI) : Sig :=
  sigVecI2 f (typeRegs f.op.toNat) false (decide (f.op.toNat ≤ 3))

/-- Operand forms of `vmul` (R208). -/
def sigVmulOf (f : FmtT) : Sig :=
  sigVecT2 f 1 false (decide (f.op.toNat ≤ 1))

/-- Operand forms of `vmulImm` (R208). -/
def sigVmulImmOf (f : FmtI) : Sig :=
  sigVecI2 f 1 false (decide (f.op.toNat ≤ 1))

/-- Operand forms of `vmulh` (R208). -/
def sigVmulhOf (f : FmtT) : Sig :=
  sigVecT2 f 1 false (decide (f.op.toNat ≤ 1))

/-- Operand forms of `vmulhImm` (R208). -/
def sigVmulhImmOf (f : FmtI) : Sig :=
  sigVecI2 f 1 false (decide (f.op.toNat ≤ 1))

/-- Operand forms of `vmad` (R208). -/
def sigVmadOf (f : FmtT) : Sig :=
  sigVecT3 f true (decide (f.op.toNat ≤ 1))

/-- Operand forms of `vmadImm` (R209). -/
def sigVmadImmOf (f : FmtI) : Sig :=
  sigVecI2 f 1 true (decide (f.op.toNat ≤ 1))

/-- Operand forms of `vand` (R208). -/
def sigVandOf (f : FmtT) : Sig :=
  sigVecT2 f (typeRegs f.op.toNat) false (decide (f.op.toNat ≤ 3))

/-- Operand forms of `vandImm` (R208). -/
def sigVandImmOf (f : FmtI) : Sig :=
  sigVecI2 f (typeRegs f.op.toNat) false (decide (f.op.toNat ≤ 3))

/-- Operand forms of `vor` (R208). -/
def sigVorOf (f : FmtT) : Sig :=
  sigVecT2 f (typeRegs f.op.toNat) false (decide (f.op.toNat ≤ 3))

/-- Operand forms of `vorImm` (R208). -/
def sigVorImmOf (f : FmtI) : Sig :=
  sigVecI2 f (typeRegs f.op.toNat) false (decide (f.op.toNat ≤ 3))

/-- Operand forms of `vxor` (R208). -/
def sigVxorOf (f : FmtT) : Sig :=
  sigVecT2 f (typeRegs f.op.toNat) false (decide (f.op.toNat ≤ 3))

/-- Operand forms of `vxorImm` (R208). -/
def sigVxorImmOf (f : FmtI) : Sig :=
  sigVecI2 f (typeRegs f.op.toNat) false (decide (f.op.toNat ≤ 3))

/-- Operand forms of `vandn` (R208). -/
def sigVandnOf (f : FmtT) : Sig :=
  sigVecT2 f (typeRegs f.op.toNat) false (decide (f.op.toNat ≤ 3))

/-- Operand forms of `vandnImm` (R208). -/
def sigVandnImmOf (f : FmtI) : Sig :=
  sigVecI2 f (typeRegs f.op.toNat) false (decide (f.op.toNat ≤ 3))

/-- Operand forms of `vshl` (R208). -/
def sigVshlOf (f : FmtT) : Sig :=
  sigVecT2 f (typeRegs f.op.toNat) false (decide (f.op.toNat ≤ 3))

/-- Operand forms of `vshlImm` (R208). -/
def sigVshlImmOf (f : FmtI) : Sig :=
  sigVecI2 f (typeRegs f.op.toNat) false (decide (f.op.toNat ≤ 3))

/-- Operand forms of `vshr` (R208). -/
def sigVshrOf (f : FmtT) : Sig :=
  sigVecT2 f (typeRegs f.op.toNat) false (decide (f.op.toNat ≤ 3))

/-- Operand forms of `vshrImm` (R208). -/
def sigVshrImmOf (f : FmtI) : Sig :=
  sigVecI2 f (typeRegs f.op.toNat) false (decide (f.op.toNat ≤ 3))

/-- Operand forms of `vsra` (R208). -/
def sigVsraOf (f : FmtT) : Sig :=
  sigVecT2 f (typeRegs f.op.toNat) false (decide (f.op.toNat ≤ 3))

/-- Operand forms of `vsraImm` (R208). -/
def sigVsraImmOf (f : FmtI) : Sig :=
  sigVecI2 f (typeRegs f.op.toNat) false (decide (f.op.toNat ≤ 3))

/-- Operand forms of `vmin` (R208). -/
def sigVminOf (f : FmtT) : Sig :=
  sigVecT2 f (typeRegs f.op.toNat) false (decide (f.op.toNat ≤ 3))

/-- Operand forms of `vminImm` (R208). -/
def sigVminImmOf (f : FmtI) : Sig :=
  sigVecI2 f (typeRegs f.op.toNat) false (decide (f.op.toNat ≤ 3))

/-- Operand forms of `vmax` (R208). -/
def sigVmaxOf (f : FmtT) : Sig :=
  sigVecT2 f (typeRegs f.op.toNat) false (decide (f.op.toNat ≤ 3))

/-- Operand forms of `vmaxImm` (R208). -/
def sigVmaxImmOf (f : FmtI) : Sig :=
  sigVecI2 f (typeRegs f.op.toNat) false (decide (f.op.toNat ≤ 3))

/-- Operand forms of `vcmp` (R210). -/
def sigVcmpOf (f : FmtT) : Sig :=
  sigCmpT f (typeRegs (f.op.toNat % 16)) 2 false (decide (f.op.toNat / 16 ≤ 5) && decide (f.op.toNat % 16 ≤ 3))

/-- Operand forms of `vcmpImm` (R210). -/
def sigVcmpImmOf (f : FmtI) : Sig :=
  sigCmpI f 2 false (immCondOk f.op.toNat)

/-- Operand forms of `vsel` (R211). -/
def sigVselOf (f : FmtT) : Sig :=
  { sigVecT2 f (typeRegs f.op.toNat) false (decide (f.op.toNat ≤ 3)) with c := srcUniOnly f.kc f.c 2 2 }

/-- Operand forms of `vmov` (R208). -/
def sigVmovOf (f : FmtT) : Sig :=
  sigVecT1 f (typeRegs f.op.toNat) (typeRegs f.op.toNat) false (decide (f.op.toNat ≤ 3))

/-- Operand forms of `vabs` (R208). -/
def sigVabsOf (f : FmtT) : Sig :=
  sigVecT1 f 1 1 true (f.op == 0)

/-- Operand forms of `vbfe` (R212). -/
def sigVbfeOf (f : FmtT) : Sig :=
  sigVecT2 f 1 false (decide (f.op.toNat ≤ 1))

/-- Operand forms of `vbfi` (R212). -/
def sigVbfiOf (f : FmtT) : Sig :=
  { sigVecT2 f 1 false (f.op == 0) with dSrc := true }

/-- Operand forms of `vpopc` (R212). -/
def sigVpopcOf (f : FmtT) : Sig :=
  sigVecT1 f 1 (typeRegs f.op.toNat) false (decide (f.op.toNat ≤ 3))

/-- Operand forms of `vclz` (R212). -/
def sigVclzOf (f : FmtT) : Sig :=
  sigVecT1 f 1 (typeRegs f.op.toNat) false (decide (f.op.toNat ≤ 3))

/-- Operand forms of `vaddc` (R213). -/
def sigVaddcOf (f : FmtT) : Sig :=
  { sigVecT2 f 1 false (decide (f.op.toNat ≤ 1)) with c := srcUniOnly f.kc f.c 2 2, cDst := true }

/-- Operand forms of `vsad` (R214). -/
def sigVsadOf (f : FmtT) : Sig :=
  sigVecT3 f true (f.op == 6 || f.op == 7)

/-- Operand forms of `vdot4` (R214). -/
def sigVdot4Of (f : FmtT) : Sig :=
  sigVecT3 f true (f.op == 0x66 || f.op == 0x67 || f.op == 0x76 || f.op == 0x77)

/-- Operand forms of `vli` (R208). -/
def sigVliOf (f : FmtI) : Sig :=
  ⟨dstVec f.d (typeRegs f.op.toNat), unusedT f.a f.ka, .unused true, .unused true, false, true, false, false, noModsI f && (f.op == 0 || f.op == 2 || f.op == 3), 2⟩

/-- Operand forms of `fadd` (R215). -/
def sigFaddOf (f : FmtT) : Sig :=
  sigFltT2 f 1 3 true (f.op == 0)

/-- Operand forms of `faddImm` (R215). -/
def sigFaddImmOf (f : FmtI) : Sig :=
  sigFltI2 f false

/-- Operand forms of `fsub` (R215). -/
def sigFsubOf (f : FmtT) : Sig :=
  sigFltT2 f 1 3 true (f.op == 0)

/-- Operand forms of `fsubImm` (R215). -/
def sigFsubImmOf (f : FmtI) : Sig :=
  sigFltI2 f false

/-- Operand forms of `fmul` (R215). -/
def sigFmulOf (f : FmtT) : Sig :=
  sigFltT2 f 1 3 true (f.op == 0)

/-- Operand forms of `fmulImm` (R215). -/
def sigFmulImmOf (f : FmtI) : Sig :=
  sigFltI2 f false

/-- Operand forms of `ffma` (R215). -/
def sigFfmaOf (f : FmtT) : Sig :=
  sigFltT3 f 1 3 (f.op == 0)

/-- Operand forms of `ffmaImm` (R215). -/
def sigFfmaImmOf (f : FmtI) : Sig :=
  sigFltI2 f true

/-- Operand forms of `fmin` (R216). -/
def sigFminOf (f : FmtT) : Sig :=
  sigFltT2 f 1 3 false (f.op == 0)

/-- Operand forms of `fminImm` (R216). -/
def sigFminImmOf (f : FmtI) : Sig :=
  sigFltI2 f false

/-- Operand forms of `fmax` (R216). -/
def sigFmaxOf (f : FmtT) : Sig :=
  sigFltT2 f 1 3 false (f.op == 0)

/-- Operand forms of `fmaxImm` (R216). -/
def sigFmaxImmOf (f : FmtI) : Sig :=
  sigFltI2 f false

/-- Operand forms of `fcmp` (R210). -/
def sigFcmpOf (f : FmtT) : Sig :=
  sigCmpT f 1 3 true (decide (f.op.toNat / 16 ≤ 7) && decide (f.op.toNat % 16 = 8))

/-- Operand forms of `fcmpImm` (R210). -/
def sigFcmpImmOf (f : FmtI) : Sig :=
  sigCmpI f 3 true (decide (f.op.toNat ≤ 7))

/-- Operand forms of `ffrac` (R217). -/
def sigFfracOf (f : FmtT) : Sig :=
  sigFltT1 f 3 false

/-- Operand forms of `frnd` (R217). -/
def sigFrndOf (f : FmtT) : Sig :=
  sigFltT1 f 3 true

/-- Operand forms of `fclass` (R217). -/
def sigFclassOf (f : FmtT) : Sig :=
  sigFltT1 f 3 false

/-- Operand forms of `hfma2` (R220). -/
def sigHfma2Of (f : FmtT) : Sig :=
  sigFltT3 f 1 3 (f.op == 0xA || f.op == 0xB)

/-- Operand forms of `hadd2` (R220). -/
def sigHadd2Of (f : FmtT) : Sig :=
  sigFltT2 f 1 3 true (f.op == 0xA || f.op == 0xB)

/-- Operand forms of `hmul2` (R220). -/
def sigHmul2Of (f : FmtT) : Sig :=
  sigFltT2 f 1 3 true (f.op == 0xA || f.op == 0xB)

/-- Operand forms of `hdot2` (R220). -/
def sigHdot2Of (f : FmtT) : Sig :=
  sigFltT3 f 1 3 (f.op == 0xA || f.op == 0xB)

/-- Operand forms of `dadd` (R219). -/
def sigDaddOf (f : FmtT) : Sig :=
  sigFltT2 f 2 4 true (f.op == 0)

/-- Operand forms of `dmul` (R219). -/
def sigDmulOf (f : FmtT) : Sig :=
  sigFltT2 f 2 4 true (f.op == 0)

/-- Operand forms of `dfma` (R219). -/
def sigDfmaOf (f : FmtT) : Sig :=
  sigFltT3 f 2 4 (f.op == 0)

/-- Operand forms of `dcmp` (R219). -/
def sigDcmpOf (f : FmtT) : Sig :=
  sigCmpT f 2 4 true (decide (f.op.toNat / 16 ≤ 7) && decide (f.op.toNat % 16 = 9))

/-- Operand forms of `frcp` (R218). -/
def sigFrcpOf (f : FmtT) : Sig :=
  sigFltT1 f 5 true

/-- Operand forms of `frsq` (R218). -/
def sigFrsqOf (f : FmtT) : Sig :=
  sigFltT1 f 5 false

/-- Operand forms of `fsqrt` (R218). -/
def sigFsqrtOf (f : FmtT) : Sig :=
  sigFltT1 f 5 true

/-- Operand forms of `fdiv` (R218). -/
def sigFdivOf (f : FmtT) : Sig :=
  sigFltT2 f 1 5 true (f.op == 0)

/-- Operand forms of `fexp2` (R218). -/
def sigFexp2Of (f : FmtT) : Sig :=
  sigFltT1 f 5 false

/-- Operand forms of `flog2` (R218). -/
def sigFlog2Of (f : FmtT) : Sig :=
  sigFltT1 f 5 false

/-- Operand forms of `fsin` (R218). -/
def sigFsinOf (f : FmtT) : Sig :=
  sigFltT1 f 5 false

/-- Operand forms of `fcos` (R218). -/
def sigFcosOf (f : FmtT) : Sig :=
  sigFltT1 f 5 false

/-- Operand forms of `cvt` (R224). -/
def sigCvtOf (w : Nat) (f : FmtT) : Sig :=
  sigCvt w f

/-- Operand forms of `vperm` (R227). -/
def sigVpermOf (w : Nat) (f : FmtT) : Sig :=
  sigPerm w f false

/-- Operand forms of `vshfl` (R227). -/
def sigVshflOf (w : Nat) (f : FmtT) : Sig :=
  sigPerm w f true

/-- Operand forms of `vrdl` (R229). -/
def sigVrdlOf (f : FmtT) : Sig :=
  ⟨dstUni f.d (if f.op.getLsbD 3 then 2 else 1), srcVecOnly f.ka f.a (if f.op.getLsbD 3 then 2 else 1) (if f.op.getLsbD 3 then 2 else 1), srcCount f.kb f.b 1, unusedT f.c f.kc, false, true, false, false, noModsT f && (f.op == 0 || f.op == 8), 6⟩

/-- Operand forms of `vwrl` (R229). -/
def sigVwrlOf (f : FmtT) : Sig :=
  ⟨dstVec f.d (if f.op.getLsbD 3 then 2 else 1), if f.ka = 0 then .bad else srcAny f.ka f.a (if f.op.getLsbD 3 then 2 else 1), srcCount f.kb f.b 1, unusedT f.c f.kc, false, true, false, false, noModsT f && (f.op == 0 || f.op == 8), 6⟩

/-- Operand forms of `vred` (R231). -/
def sigVredOf (w : Nat) (f : FmtT) : Sig :=
  sigRed w f false

/-- Operand forms of `vscan` (R232). -/
def sigVscanOf (w : Nat) (f : FmtT) : Sig :=
  sigRed w f true

/-- Operand forms of `tld` (R235). -/
def sigTldOf (f : FmtM) : Sig :=
  sigMem f true true 2

/-- Operand forms of `tst` (R235). -/
def sigTstOf (f : FmtM) : Sig :=
  sigMem f false true 1

/-- Operand forms of `dld` (R235). -/
def sigDldOf (f : FmtM) : Sig :=
  sigMem f true false 2

/-- Operand forms of `dst` (R235). -/
def sigDstOf (f : FmtM) : Sig :=
  sigMem f false false 1

/-- Operand forms of `pld` (R237). -/
def sigPldOf (f : FmtM) : Sig :=
  sigMem f true false 0

/-- Operand forms of `pst` (R237). -/
def sigPstOf (f : FmtM) : Sig :=
  sigMem f false false 0

/-- Operand forms of `atop` (R240). -/
def sigAtopOf (f : FmtA) : Sig :=
  sigAtop f

/-- Operand forms of `atcas` (R241). -/
def sigAtcasOf (f : FmtA) : Sig :=
  sigAtcas f

/-- Operand forms of `atcas128` (R242). -/
def sigAtcas128Of (f : FmtA) : Sig :=
  sigAtcas128 f

/-- Operand forms of `mcas` (R245). -/
def sigMcasOf (f : FmtA) : Sig :=
  sigMcas f

/-- Operand forms of `redb` (R248). -/
def sigRedbOf (f : FmtA) : Sig :=
  sigRedb f

/-- Operand forms of `redf` (R249). -/
def sigRedfOf (f : FmtA) : Sig :=
  sigRedf f

/-- Operand forms of `waita` (R250). -/
def sigWaitaOf (f : FmtA) : Sig :=
  sigWaita f

/-- Operand forms of `fence` (R251). -/
def sigFenceOf (f : FmtA) : Sig :=
  sigFence f

/-- Operand forms of `tcopy` (R265). -/
def sigTcopyOf (f : FmtE) : Sig :=
  sigTow f 5

/-- Operand forms of `txform` (R267). -/
def sigTxformOf (f : FmtE) : Sig :=
  sigTow f 5

/-- Operand forms of `tremote` (R269). -/
def sigTremoteOf (f : FmtE) : Sig :=
  sigTow f 6

/-- Operand forms of `tflush` (R272). -/
def sigTflushOf (f : FmtE) : Sig :=
  sigTow f 5

/-- Operand forms of `tfill` (R266). -/
def sigTfillOf (f : FmtE) : Sig :=
  sigTow f 5

/-- Operand forms of `fork` (R276). -/
def sigForkOf (f : FmtE) : Sig :=
  sigFork f

/-- Operand forms of `rdv` (R277). -/
def sigRdvOf (f : FmtE) : Sig :=
  sigRdv f

/-- Operand forms of `rast` (R325). -/
def sigRastOf (f : FmtE) : Sig :=
  sigRast f

/-- Operand forms of `trace` (R300). -/
def sigTraceOf (f : FmtE) : Sig :=
  sigQuay f 8 true

/-- Operand forms of `qfilt` (R313). -/
def sigQfiltOf (f : FmtE) : Sig :=
  sigQuay f 3 false

/-- Operand forms of `qhash` (R315). -/
def sigQhashOf (f : FmtE) : Sig :=
  sigQuay f 3 true

/-- Operand forms of `callq` (R328). -/
def sigCallqOf (f : FmtE) : Sig :=
  sigCallq f

/-- Operand forms of `tokacq` (R333). -/
def sigTokacqOf (f : FmtE) : Sig :=
  sigTokacq f

/-- Operand forms of `tokskip` (R334). -/
def sigTokskipOf (f : FmtE) : Sig :=
  sigTokskip f

/-- Operand forms of `enqr` (R336). -/
def sigEnqrOf (f : FmtE) : Sig :=
  sigEnqr f

/-- Operand forms of `frel` (R373). -/
def sigFrelOf (f : FmtE) : Sig :=
  sigFrel f

/-- Operand forms of `wopen` (R238). -/
def sigWopenOf (f : FmtE) : Sig :=
  sigE12 f true true true (opE12 f == 0)

/-- Operand forms of `wclose` (R238). -/
def sigWcloseOf (f : FmtE) : Sig :=
  sigE12 f false true false (opE12 f == 0)

/-- Operand forms of `flreg` (R254). -/
def sigFlregOf (f : FmtE) : Sig :=
  sigE12 f true true true (opE12 f == 0)

/-- Operand forms of `fldrop` (R254). -/
def sigFldropOf (f : FmtE) : Sig :=
  sigE12 f false true false (opE12 f == 0)

/-- Operand forms of `flarr` (R254). -/
def sigFlarrOf (f : FmtE) : Sig :=
  sigE12 f true true false (opE12 f == 0)

/-- Operand forms of `flwait` (R254). -/
def sigFlwaitOf (f : FmtE) : Sig :=
  sigE12 f false true true (opE12 f == 0)

/-- Operand forms of `fladv` (R254). -/
def sigFladvOf (f : FmtE) : Sig :=
  sigE12 f true true false (opE12 f == 0)

/-- Operand forms of `binit` (R257). -/
def sigBinitOf (f : FmtE) : Sig :=
  sigE12 f false true true (opE12 f == 0)

/-- Operand forms of `bxp` (R257). -/
def sigBxpOf (f : FmtE) : Sig :=
  sigE12 f false true true (opE12 f == 0)

/-- Operand forms of `bwait` (R257). -/
def sigBwaitOf (f : FmtE) : Sig :=
  sigE12 f false true true (opE12 f == 0)

/-- Operand forms of `waitp` (R258). -/
def sigWaitpOf (f : FmtE) : Sig :=
  sigE12 f false true false (decide (opE12 f ≤ 5))

/-- Operand forms of `pqlaunch` (R320). -/
def sigPqlaunchOf (f : FmtE) : Sig :=
  sigPqlaunch f

/-- The operand forms of a group instruction in a group of width `w`; none for a stream word or a device event. -/
def sigOf (w : Nat) : Instr → Option Sig
  | .sadd f => some (sigSaddOf f)
  | .saddImm f => some (sigSaddImmOf f)
  | .ssub f => some (sigSsubOf f)
  | .ssubImm f => some (sigSsubImmOf f)
  | .smul f => some (sigSmulOf f)
  | .smulImm f => some (sigSmulImmOf f)
  | .smulh f => some (sigSmulhOf f)
  | .smulhImm f => some (sigSmulhImmOf f)
  | .sand f => some (sigSandOf f)
  | .sandImm f => some (sigSandImmOf f)
  | .sor f => some (sigSorOf f)
  | .sorImm f => some (sigSorImmOf f)
  | .sxor f => some (sigSxorOf f)
  | .sxorImm f => some (sigSxorImmOf f)
  | .sandn f => some (sigSandnOf f)
  | .sandnImm f => some (sigSandnImmOf f)
  | .sshl f => some (sigSshlOf f)
  | .sshlImm f => some (sigSshlImmOf f)
  | .sshr f => some (sigSshrOf f)
  | .sshrImm f => some (sigSshrImmOf f)
  | .ssra f => some (sigSsraOf f)
  | .ssraImm f => some (sigSsraImmOf f)
  | .smin f => some (sigSminOf f)
  | .sminImm f => some (sigSminImmOf f)
  | .smax f => some (sigSmaxOf f)
  | .smaxImm f => some (sigSmaxImmOf f)
  | .scmp f => some (sigScmpOf f)
  | .scmpImm f => some (sigScmpImmOf f)
  | .ssel f => some (sigSselOf f)
  | .sselImm f => some (sigSselImmOf f)
  | .smov f => some (sigSmovOf f)
  | .sadd64 f => some (sigSadd64Of f)
  | .sadd64Imm f => some (sigSadd64ImmOf f)
  | .ssub64 f => some (sigSsub64Of f)
  | .ssub64Imm f => some (sigSsub64ImmOf f)
  | .sbfe f => some (sigSbfeOf f)
  | .sbfeImm f => some (sigSbfeImmOf f)
  | .sbfi f => some (sigSbfiOf f)
  | .sbfiImm f => some (sigSbfiImmOf f)
  | .spopc f => some (sigSpopcOf f)
  | .sclz f => some (sigSclzOf f)
  | .sffs f => some (sigSffsOf f)
  | .sli f => some (sigSliOf f)
  | .sldk f => some (sigSldkOf f)
  | .srd f => some (sigSrdOf f)
  | .swr f => some (sigSwrOf f)
  | .mget f => some (sigMgetOf f)
  | .mset f => some (sigMsetOf f)
  | .mand f => some (sigMandOf f)
  | .mandn f => some (sigMandnOf f)
  | .mor f => some (sigMorOf f)
  | .mxor f => some (sigMxorOf f)
  | .mcnt f => some (sigMcntOf f)
  | .ret f => some (sigRetOf f)
  | .exit f => some (sigExitOf f)
  | .nop f => some (sigNopOf f)
  | .yield f => some (sigYieldOf f)
  | .bkpt f => some (sigBkptOf f)
  | .trapret f => some (sigTrapretOf f)
  | .br f => some (sigBrOf f)
  | .bz f => some (sigBzOf f)
  | .bnz f => some (sigBnzOf f)
  | .bs f => some (sigBsOf f)
  | .call f => some (sigCallOf f)
  | .loop f => some (sigLoopOf f)
  | .lbrk f => some (sigLbrkOf f)
  | .sleep f => some (sigSleepOf f)
  | .trap f => some (sigTrapOf f)
  | .vadd f => some (sigVaddOf f)
  | .vaddImm f => some (sigVaddImmOf f)
  | .vsub f => some (sigVsubOf f)
  | .vsubImm f => some (sigVsubImmOf f)
  | .vmul f => some (sigVmulOf f)
  | .vmulImm f => some (sigVmulImmOf f)
  | .vmulh f => some (sigVmulhOf f)
  | .vmulhImm f => some (sigVmulhImmOf f)
  | .vmad f => some (sigVmadOf f)
  | .vmadImm f => some (sigVmadImmOf f)
  | .vand f => some (sigVandOf f)
  | .vandImm f => some (sigVandImmOf f)
  | .vor f => some (sigVorOf f)
  | .vorImm f => some (sigVorImmOf f)
  | .vxor f => some (sigVxorOf f)
  | .vxorImm f => some (sigVxorImmOf f)
  | .vandn f => some (sigVandnOf f)
  | .vandnImm f => some (sigVandnImmOf f)
  | .vshl f => some (sigVshlOf f)
  | .vshlImm f => some (sigVshlImmOf f)
  | .vshr f => some (sigVshrOf f)
  | .vshrImm f => some (sigVshrImmOf f)
  | .vsra f => some (sigVsraOf f)
  | .vsraImm f => some (sigVsraImmOf f)
  | .vmin f => some (sigVminOf f)
  | .vminImm f => some (sigVminImmOf f)
  | .vmax f => some (sigVmaxOf f)
  | .vmaxImm f => some (sigVmaxImmOf f)
  | .vcmp f => some (sigVcmpOf f)
  | .vcmpImm f => some (sigVcmpImmOf f)
  | .vsel f => some (sigVselOf f)
  | .vmov f => some (sigVmovOf f)
  | .vabs f => some (sigVabsOf f)
  | .vbfe f => some (sigVbfeOf f)
  | .vbfi f => some (sigVbfiOf f)
  | .vpopc f => some (sigVpopcOf f)
  | .vclz f => some (sigVclzOf f)
  | .vaddc f => some (sigVaddcOf f)
  | .vsad f => some (sigVsadOf f)
  | .vdot4 f => some (sigVdot4Of f)
  | .vli f => some (sigVliOf f)
  | .fadd f => some (sigFaddOf f)
  | .faddImm f => some (sigFaddImmOf f)
  | .fsub f => some (sigFsubOf f)
  | .fsubImm f => some (sigFsubImmOf f)
  | .fmul f => some (sigFmulOf f)
  | .fmulImm f => some (sigFmulImmOf f)
  | .ffma f => some (sigFfmaOf f)
  | .ffmaImm f => some (sigFfmaImmOf f)
  | .fmin f => some (sigFminOf f)
  | .fminImm f => some (sigFminImmOf f)
  | .fmax f => some (sigFmaxOf f)
  | .fmaxImm f => some (sigFmaxImmOf f)
  | .fcmp f => some (sigFcmpOf f)
  | .fcmpImm f => some (sigFcmpImmOf f)
  | .ffrac f => some (sigFfracOf f)
  | .frnd f => some (sigFrndOf f)
  | .fclass f => some (sigFclassOf f)
  | .hfma2 f => some (sigHfma2Of f)
  | .hadd2 f => some (sigHadd2Of f)
  | .hmul2 f => some (sigHmul2Of f)
  | .hdot2 f => some (sigHdot2Of f)
  | .dadd f => some (sigDaddOf f)
  | .dmul f => some (sigDmulOf f)
  | .dfma f => some (sigDfmaOf f)
  | .dcmp f => some (sigDcmpOf f)
  | .frcp f => some (sigFrcpOf f)
  | .frsq f => some (sigFrsqOf f)
  | .fsqrt f => some (sigFsqrtOf f)
  | .fdiv f => some (sigFdivOf f)
  | .fexp2 f => some (sigFexp2Of f)
  | .flog2 f => some (sigFlog2Of f)
  | .fsin f => some (sigFsinOf f)
  | .fcos f => some (sigFcosOf f)
  | .cvt f => some (sigCvtOf w f)
  | .vperm f => some (sigVpermOf w f)
  | .vshfl f => some (sigVshflOf w f)
  | .vrdl f => some (sigVrdlOf f)
  | .vwrl f => some (sigVwrlOf f)
  | .vred f => some (sigVredOf w f)
  | .vscan f => some (sigVscanOf w f)
  | .tld f => some (sigTldOf f)
  | .tst f => some (sigTstOf f)
  | .dld f => some (sigDldOf f)
  | .dst f => some (sigDstOf f)
  | .pld f => some (sigPldOf f)
  | .pst f => some (sigPstOf f)
  | .atop f => some (sigAtopOf f)
  | .atcas f => some (sigAtcasOf f)
  | .atcas128 f => some (sigAtcas128Of f)
  | .mcas f => some (sigMcasOf f)
  | .redb f => some (sigRedbOf f)
  | .redf f => some (sigRedfOf f)
  | .waita f => some (sigWaitaOf f)
  | .fence f => some (sigFenceOf f)
  | .tcopy f => some (sigTcopyOf f)
  | .txform f => some (sigTxformOf f)
  | .tremote f => some (sigTremoteOf f)
  | .tflush f => some (sigTflushOf f)
  | .tfill f => some (sigTfillOf f)
  | .fork f => some (sigForkOf f)
  | .rdv f => some (sigRdvOf f)
  | .rast f => some (sigRastOf f)
  | .trace f => some (sigTraceOf f)
  | .qfilt f => some (sigQfiltOf f)
  | .qhash f => some (sigQhashOf f)
  | .callq f => some (sigCallqOf f)
  | .tokacq f => some (sigTokacqOf f)
  | .tokskip f => some (sigTokskipOf f)
  | .enqr f => some (sigEnqrOf f)
  | .frel f => some (sigFrelOf f)
  | .wopen f => some (sigWopenOf f)
  | .wclose f => some (sigWcloseOf f)
  | .flreg f => some (sigFlregOf f)
  | .fldrop f => some (sigFldropOf f)
  | .flarr f => some (sigFlarrOf f)
  | .flwait f => some (sigFlwaitOf f)
  | .fladv f => some (sigFladvOf f)
  | .binit f => some (sigBinitOf f)
  | .bxp f => some (sigBxpOf f)
  | .bwait f => some (sigBwaitOf f)
  | .waitp f => some (sigWaitpOf f)
  | .pqlaunch f => some (sigPqlaunchOf f)
  | .mma _ => none
  | .mcb _ => none
  | .mzero _ => none
  | .mzld _ => none
  | .mzst _ => none
  | .mscal _ => none
  | .mflsig _ => none
  | .mflwait _ => none
  | .mloop _ => none
  | .mend _ => none
  | .mnop _ => none
  | .unallocatedOpcode _ => none
  | .unallocatedStreamWord _ => none
  | .clauseEntry _ => none
  | .deferredTrap _ => none
  | .doubleFault _ => none
  | .haltedGroupTimeout _ => none
  | .breakpointMatch _ => none
  | .stepTrap _ => none
  | .returnTrap _ => none
  | .returnSlotResume _ => none
  | .returnTrapTimeout _ => none
  | .slotWriteFailure _ _ => none
  | .registerFillDone _ _ => none
  | .loadResultLanding _ _ => none
  | .storePerformed _ _ => none
  | .atomicAtHome _ _ => none
  | .scFloorPublish _ => none
  | .scApplyAtHome _ _ => none
  | .crossbarGrant _ => none
  | .peerAccessAtOwner _ _ => none
  | .poundAccess _ _ _ => none
  | .mcasAdmission _ => none
  | .mcasLockGrant _ => none
  | .mcasResult _ => none
  | .mcasLockTimeout _ => none
  | .reductionDrain _ => none
  | .redfRelease _ => none
  | .fenceComplete _ => none
  | .flightWaitersReleased _ => none
  | .earlyArrivalRelease _ => none
  | .bwaitRelease _ => none
  | .pathWaitRelease _ => none
  | .sleepExpiry _ => none
  | .activeSetEntry _ _ => none
  | .pendingStarvation _ _ => none
  | .towQueueSlot _ => none
  | .towCommandStart _ => none
  | .txformExecution _ => none
  | .towCommandComplete _ => none
  | .forkServed _ => none
  | .rdvRelease _ => none
  | .mmaPinRelease _ => none
  | .mmaTileWrite _ => none
  | .groupEnd _ => none
  | .teamRetirement _ => none
  | .teamPlacement _ => none
  | .preemptionStart _ => none
  | .preemptionSave _ => none
  | .teamResume _ => none
  | .traceAdmission _ => none
  | .returnSlotsGranted _ => none
  | .bargeArrival _ => none
  | .traversalTurn _ _ => none
  | .topStep _ => none
  | .anyHitGroupStart _ => none
  | .anyHitDecision _ => none
  | .anyHitBudgetExceeded _ => none
  | .hitRecordLanding _ => none
  | .qfiltRecord _ _ => none
  | .qhashRecord _ _ => none
  | .pqlaunchComplete _ => none
  | .calledQueueRoom _ => none
  | .calledRecordApply _ => none
  | .batchHeld _ => none
  | .tessellatorRecord _ => none
  | .returnRecordLanding _ => none
  | .tokacqPerformed _ => none
  | .tokenMatchEntry _ => none
  | .matchTableRoom _ => none
  | .commandLaunch _ _ => none
  | .commandGraph _ _ => none
  | .commandWait _ _ => none
  | .commandSignal _ _ => none
  | .commandReach _ _ => none
  | .commandRung _ _ => none
  | .commandRelease _ _ => none
  | .commandReserved _ _ => none
  | .grantWaitEnd _ => none
  | .reachBalancerStep _ => none
  | .reachCoreMove _ => none
  | .reachPreemptTimeout _ => none
  | .deadlineProjection _ => none
  | .doorbell _ _ => none
  | .queueEnable _ => none
  | .queueDisable _ => none
  | .hostBar2Access _ _ _ _ => none
  | .registerWrite _ _ _ => none
  | .dutyModeWrite _ => none
  | .reachLimitWrite _ _ => none
  | .displayBlockWrite _ _ _ => none
  | .timeFreqWrite _ => none
  | .timeOffsetWrite _ => none
  | .logctlWrite _ => none
  | .loglostRead => none
  | .faultreplyRetry _ => none
  | .faultreplyFail _ => none
  | .heldFaultTimeout _ => none
  | .configChangeReload => none
  | .attestationStart => none
  | .restoreAppend => none
  | .restoreCommit => none
  | .restoreDiscard => none
  | .retrainWordWrite _ => none
  | .debugHoldWrite _ => none
  | .debugMailboxReload => none
  | .camtosWriteCommand _ _ => none
  | .camtosAddCommand _ _ => none
  | .camtosReservedOp _ _ => none
  | .camtosBodyFlit _ _ => none
  | .camtosResponse _ _ => none
  | .linkAck _ _ => none
  | .linkNak _ _ => none
  | .linkCreditUpdate _ _ _ => none
  | .flitCrcFail _ => none
  | .linkControlPeriodic _ => none
  | .replayTimeout _ => none
  | .portRetrain _ _ => none
  | .hostRetrainTimeout _ => none
  | .ptpEventMessage _ _ _ _ => none
  | .ptpLockChange _ => none
  | .frameStart _ => none
  | .frameBufferRetire _ => none
  | .displayPendingRoom _ => none
  | .powerOnBringup => none
  | .powerLimitThrottle _ => none
  | .inletClockStep _ => none
  | .patrolScrub _ => none
  | .scratchpadScrub _ _ => none
  | .dramCalibration _ _ => none
  | .serdesCalibration _ _ => none
  | .rowActivityMitigation _ _ => none
  | .agingMonitor _ => none
  | .moduleReset => none
  | .codeObjectLoad _ _ _ _ _ _ _ => none
  | .codeObjectUnload _ => none
  | .camtosPortConnect _ => none

end Sys2Proof.Machine
end

