-- ==== Sys2Proof/Config.lean ====
section
/-!
DEFINITION. What the manual leaves open: values and functions that nothing in the model constrains. `freeBits` is applied to a counter
of the state, so that every use has a value of its own; the others depend on what they are applied to.
-/
namespace Sys2Proof.Config

/-- A 64-bit value the manual leaves open. -/
opaque freeBits : Nat → BitVec 64

/-- The syndrome that the log record of a sequence number holds, of a check that failed (R398).
DESIGN CHOICE: notes/assumptions/122.md. -/
opaque eccSyndrome : Nat → BitVec 64

/-- The physical address by which a record or `%faultaddr` names a word of scratchpad, by the word's location (Tables 23-4, 24-1).
DESIGN CHOICE: notes/assumptions/144.md. -/
opaque wordAddress : Nat → BitVec 52

/-- The rate adjustment, in parts per 2^32, that the PTP servo draws from the four times of an exchange and the rate in force (R370).
DESIGN CHOICE: notes/assumptions/76.md. -/
opaque servoRate (t1 t2 t3 t4 : Nat) (rate : Int) : Int
/-- The offset in nanoseconds that it draws from them (R370). -/
opaque servoOffset (t1 t2 t3 t4 : Nat) (rate : Int) : Int
/-- Bits per pixel that DSC leaves of a pixel's (R372). -/
opaque dscBits (bits : Nat) : Nat

/-- The signature of a firmware image passes its check against the key of the package (R375). -/
opaque imageSigned (image : List (BitVec 8)) : Bool
/-- The certificate chain of the device identity key, by offset (R376). -/
opaque certificate : Nat → BitVec 8
/-- SHA-256, and the signature of the device identity key (R376). -/
opaque sha256 (bytes : List (BitVec 8)) : List (BitVec 8)
opaque identitySignature (bytes : List (BitVec 8)) : List (BitVec 8)
/-- The identity key is available (R407). -/
opaque identityKey : Bool
/-- Part number and serial number, as a report holds them (R376). -/
opaque partAndSerial : List (BitVec 8)

end Sys2Proof.Config
end

