-- ==== Sys2Proof/Machine/Map.lean ====
section
/-!
DEFINITION. Sparse data by key in one canonical form: a list of (key, value) pairs with strictly rising keys, no entry of
which holds the value an unlisted key reads as. Memory (spec/05_memory_spaces.md), the full/empty bits, register files and
accumulator tiles are all held this way, so that equal contents are equal data.
-/
namespace Sys2Proof.Machine

/-- The value at key `i`; `d` is what an unlisted key reads as. -/
def mapGet {α : Type} (d : α) : List (Nat × α) → Nat → α
  | [], _ => d
  | (k, v) :: t, i => if k = i then v else mapGet d t i

/-- Remove every entry of key `i`. -/
def mapErase {α : Type} (i : Nat) (m : List (Nat × α)) : List (Nat × α) := m.filter (fun p => p.1 != i)

/-- Write `v` at key `i`. Writing the value an unlisted key reads as removes the entry. -/
def mapSet {α : Type} [DecidableEq α] (d : α) (i : Nat) (v : α) : List (Nat × α) → List (Nat × α)
  | [] => if v = d then [] else [(i, v)]
  | (k, w) :: t =>
    if k < i then (k, w) :: mapSet d i v t
    else if v = d then mapErase i ((k, w) :: t)
    else if k = i then (i, v) :: t
    else (i, v) :: (k, w) :: t

/-- Every key of the list lies above `b`, keys rise strictly and no entry holds the default `d`. -/
def mapWfFrom {α : Type} [DecidableEq α] (d : α) : Option Nat → List (Nat × α) → Bool
  | _, [] => true
  | b, (k, v) :: t => (match b with | none => true | some x => decide (x < k)) && decide (v ≠ d) && mapWfFrom d (some k) t

/-- The canonical form of a map with default `d`. -/
def mapWf {α : Type} [DecidableEq α] (d : α) (m : List (Nat × α)) : Bool := mapWfFrom d none m

/-- Remove every key in `[lo, lo + n)`: those keys then read as the default. -/
def mapClear {α : Type} (lo n : Nat) (m : List (Nat × α)) : List (Nat × α) :=
  m.filter (fun p => decide (p.1 < lo) || decide (lo + n ≤ p.1))

/-- The byte at address `a` of a memory whose unlisted bytes read as zero.
DESIGN CHOICE: notes/assumptions/2.md. -/
def byteAt (m : List (Nat × Byte)) (a : Nat) : Byte := mapGet 0 m a

/-- Write one byte. -/
def setByte (m : List (Nat × Byte)) (a : Nat) (v : Byte) : List (Nat × Byte) := mapSet 0 a v m

/-- The `n` bytes from `a`, the lowest-addressed in the low bits (R6). -/
def readLE (m : List (Nat × Byte)) (a : Nat) : Nat → Nat
  | 0 => 0
  | n + 1 => (byteAt m a).toNat + 256 * readLE m (a + 1) n

/-- Write the low `n` bytes of `v` from `a`, the low bits at the lowest address (R6). -/
def writeLE (m : List (Nat × Byte)) (a : Nat) : Nat → Nat → List (Nat × Byte)
  | 0, _ => m
  | n + 1, v => writeLE (setByte m a (BitVec.ofNat 8 v)) (a + 1) n (v / 256)

/-- The `n` bytes from `a`, lowest address first. -/
def readBytes (m : List (Nat × Byte)) (a : Nat) : Nat → List Byte
  | 0 => []
  | n + 1 => byteAt m a :: readBytes m (a + 1) n

/-- Write a list of bytes from `a`, in order. -/
def writeBytes (m : List (Nat × Byte)) (a : Nat) : List Byte → List (Nat × Byte)
  | [] => m
  | b :: t => writeBytes (setByte m a b) (a + 1) t

end Sys2Proof.Machine
end

