-- ==== Sys2Proof/Machine/State.lean ====
section
/-!
DEFINITION. The state of the module, as plain data.

Groups, teams, grids, operations in flight and the like are lists; a number that names one is its place in the list, and a
finished one keeps its place, so that a number names one thing for ever. Memories, register files and tables by number are sparse
maps in canonical form (Machine/Map.lean). What comes from outside the module, and the order in which its units act, is held in
the agenda.
-/
namespace Sys2Proof.Machine

/-- Why the machine stops with a fault. The manual gives every error a response (R2, R393), so there is one reason only. -/
inductive Fault where
  /-- Raised by `step` when a turn of the agenda names nothing a step could act on (a stream word or an event of another kind in
  the place of a word). Safe: no run of the module meets it. -/
  | noSuchTurn
deriving DecidableEq, Repr

/-- Why an instruction is refused. -/
inductive Refusal where
  /-- Raised by `exec` for an instruction the model gives no meaning. Safe: the machine stops. -/
  | notModelled (mnemonic : String)
deriving DecidableEq, Repr

/-! ## Groups (spec/02_execution_model.md, spec/03_programmer_state.md) -/

/-- A loop register lc0 to lc3 (R53). -/
structure LoopReg where
  /-- start address of the body -/
  start : DWord := 0
  /-- address of the end clause's header -/
  stop : DWord := 0
  /-- iterations remaining; 0: not live -/
  count : Word := 0
deriving DecidableEq, Repr

/-- The six path counters (Table 3-1). -/
structure Counters where
  /-- 0: `tld`, `vperm`, `vshfl` -/
  ts : Nat := 0
  /-- 1: `dld` -/
  ds : Nat := 0
  /-- 2: `pld` -/
  pw : Nat := 0
  /-- 3: `trace`, `qfilt`, `qhash` -/
  qy : Nat := 0
  /-- 4: `callq` -/
  cq : Nat := 0
  /-- 5: value-returning atomics -/
  atm : Nat := 0
deriving DecidableEq, Repr

/-- A block and what it waits for: block code, wait object and wait operand (Tables 3-8 and 3-9). Code 0: not blocked. -/
structure Wait where
  code : Nat := 0
  obj : Nat := 0
  opnd : Nat := 0
deriving DecidableEq, Repr

/-- A clause header in use (Table 7-1). -/
structure Clause where
  /-- class -/
  cls : Nat
  /-- n, the count of instructions: 1 to 16 -/
  count : Nat
  /-- wait path; 7: none -/
  wpath : Nat
  /-- wait threshold -/
  wthresh : Nat
  /-- pair bits: bit i joins instructions i and i + 1 -/
  pair : Nat
  /-- yield hint -/
  yield : Bool
deriving DecidableEq, Repr

/-- A deferred error pending for a group (R409), or the response to one. -/
structure Deferred where
  /-- cause code of Table 24-1 -/
  cause : Nat
  /-- detail field -/
  detail : Nat
  /-- address, where the cause has one -/
  addr : Option Nat
  /-- kind and number of the unit that detected it, if not the group's core (R448) -/
  unit : Option (Nat × Nat) := none
  /-- flags [1] retried and [2] succeeded of its record (Table 23-4) -/
  flags : Nat := 0
  /-- `%time` of its detection, once it has been detected (R398) -/
  since : Option Nat := none
deriving DecidableEq, Repr

/-- An entry of a home's wait table (R250). -/
structure Armed where
  /-- the home it stands at -/
  home : Nat
  addr : Nat
  size : Nat
  g : Nat
  /-- uniform register sd -/
  dreg : Nat
  cond : Nat
  isSigned : Bool
  expected : Nat
  mask : Nat
  /-- the address as named -/
  named : Nat := 0
deriving DecidableEq, Repr

/-- How the members of a pair under issue treat an arithmetic trap (R152). -/
inductive Pairing where
  /-- not a pair -/
  | alone
  /-- first member: flags met are carried to the second -/
  | first
  /-- second member: the trap follows both -/
  | second
deriving DecidableEq, Repr

/-- A group (R21), with every register of its context (Table 3-7). -/
structure Group where
  /-- its team -/
  team : Nat := 0
  /-- `%groupid` (R33) -/
  gid : Nat := 0
  /-- `%role` (R32) -/
  role : Nat := 0
  /-- `%launched`: lanes launched -/
  launched : Nat := 0
  /-- vector-register budget b of its role (R34) -/
  budget : Nat := 0
  /-- PC: [56:0] clause header, [63:60] index (R142) -/
  pc : DWord := 0
  /-- exec (R52) -/
  exec : DWord := 0
  /-- live mask (R39) -/
  live : DWord := 0
  /-- s0 to s255; an unlisted register holds zero (R39) -/
  sregs : List (Nat × Word) := []
  /-- vn of lane l at key 64·n + l; an unlisted word is zero (R49) -/
  vregs : List (Nat × Word) := []
  /-- bit n: vn has been written since launch (Table 3-7) -/
  written : BitVec 256 := 0
  /-- bit n: vn is held in physical registers (R49); a written register that is not is backed -/
  mapped : BitVec 256 := 0
  /-- stamp of the last access to vn, for the search of R50 -/
  access : List (Nat × Nat) := []
  /-- register whose fill is under way (R49) -/
  filling : Option Nat := none
  /-- bit n: the last fill of vn failed (R415) -/
  fillFailed : BitVec 256 := 0
  lc0 : LoopReg := {}
  lc1 : LoopReg := {}
  lc2 : LoopReg := {}
  lc3 : LoopReg := {}
  /-- path counters (R54) -/
  counters : Counters := {}
  /-- `%fpctl` (Table 3-4) -/
  fpctl : Word := 0
  /-- `%fpflags` (Table 3-5) -/
  fpflags : Word := 0
  /-- `%trapen` (Table 3-5) -/
  trapen : Word := 0
  /-- `%trapbase` -/
  trapbase : DWord := 0
  /-- `%trapcause` (Table 3-6) -/
  trapcause : Word := 0
  /-- `%trappc` -/
  trappc : DWord := 0
  /-- `%trapexec` -/
  trapexec : DWord := 0
  /-- `%faultaddr` -/
  faultaddr : DWord := 0
  /-- state word bit 1: in a trap handler -/
  intrap : Bool := false
  /-- state word bit 3: halted -/
  halted : Bool := false
  /-- `%time` at which it halted (R414) -/
  haltedAt : Nat := 0
  /-- the block and its wait (Table 3-9) -/
  wait : Wait := {}
  /-- base of its register backing region (R62) -/
  backing : Nat := 0
  /-- size of its backing region (R344) -/
  backSize : Nat := 0
  /-- spill pointer (R91) -/
  spill : DWord := 0
  /-- the clause header in use; none: the header named by pc is still to be entered -/
  clause : Option Clause := none
  /-- the words of that clause as they were read when it was entered; none: one that could not be fetched (R153) -/
  words : List (Option DWord) := []
  /-- of each clause, by the address of its header, after which a `yield`, or a `sleep` with its duration, is to take effect (R198, R199) -/
  yielding : List (Nat × Nat) := []
  /-- the clock before which the group is asleep (R199) -/
  sleepUntil : Nat := 0
  /-- it holds a place in its partition's active set (R354) -/
  active : Bool := true
  /-- entry stamp (R354) -/
  entryStamp : Nat := 0
  /-- ready stamp while pending (R354) -/
  readyStamp : Option Nat := none
  /-- operation whose result its next instruction waits for, outside the active set (R354) -/
  stalledOn : Option Nat := none
  /-- the clock since which it has been ready and has not issued (R355) -/
  idleFrom : Option Nat := none
  /-- its wait-table entry, which a write satisfied while it was parked (R41, R250) -/
  woke : Option Armed := none
  /-- the module's issue count at its last issue (R50) -/
  lastIssue : Nat := 0
  /-- a failed slot access it is to answer before its next instruction: detail and slot address (R408, R416, R475) -/
  slotFault : Option (Nat × Nat) := none
  /-- deferred errors pending, earliest first (R409) -/
  pending : List Deferred := []
  /-- traps entered since launch; the one in whose handler it is has this number (R413) -/
  traps : Nat := 0
  /-- cause that halts it as a double fault at the next boundary (R413) -/
  doomed : Option Nat := none
  /-- the step trap: `some false` armed by `trapret`, `some true` to be taken at the next boundary (R499) -/
  stepping : Option Bool := none
  /-- its next instruction is the first after `trapret`, which no breakpoint matches (R498) -/
  resumed : Bool := false
  /-- PC of the flight instruction that waits: of an `flarr` held on its early bit, the group's own pc (R254, R420) -/
  waitPc : DWord := 0
  /-- its flight instruction waits on its early bit, before it has effect (R254) -/
  waitEarly : Bool := false
  /-- a trap was entered over its wait, as part of a save (R417) -/
  waitUnder : Bool := false
  /-- lc0 to lc3 as they were before an `flwait` that waits (R420) -/
  waitLoops : List LoopReg := []
  /-- of an `rdv` that waits: its result register, and the runs placed before it (R277) -/
  waitReg : Nat := 0
  waitRuns : Nat := 0
  /-- the drain it waits for has been performed (R249) -/
  drained : Bool := false
  /-- pairing of the instruction under issue (R152) -/
  pairing : Pairing := .alone
  /-- arithmetic flags the first member of a pair met and `%trapen` enables -/
  pairFlags : Nat := 0
  /-- vector instructions issued, for exec density (R23) -/
  vecIssued : Nat := 0
  /-- active lanes summed over them (R23) -/
  vecLanes : Nat := 0
  /-- instructions issued, for the any-hit budget (R479) -/
  issued : Nat := 0
  /-- the return trap of a quay core (R318): 0 none, 1 raised, 2 moved to its origin core and waiting for a return slot -/
  returning : Nat := 0
  /-- `%time` when it was raised (R480) -/
  returnAt : Nat := 0
  /-- its origin core (R318) -/
  origin : Nat := 0
  /-- it holds a return slot of its origin core: the partition -/
  returnSlot : Option Nat := none
  /-- lanes that ended by `exit` (R310, R479) -/
  exited : DWord := 0
  /-- v0 of each of those lanes as it ended (R310) -/
  exitV0 : List (Nat × Word) := []
  /-- it runs an any-hit program (R310) -/
  anyHit : Bool := false
  /-- its return trap could not be completed (R480) -/
  stranded : Bool := false
  /-- ending: live mask zero, R42 under way -/
  ending : Bool := false
  /-- ended: R42 complete -/
  ended : Bool := false
deriving DecidableEq, Repr

/-! ## Teams and grids -/

/-- One role of a kernel header (R32). -/
structure Role where
  /-- lane count N -/
  lanes : Nat
  /-- vector-register budget b -/
  budget : Nat
deriving DecidableEq, Repr

/-- A kernel header (Table 7-14). -/
structure Header where
  /-- bit 0: full/empty trap mode (R96) -/
  feTrap : Bool := false
  /-- width policy byte (Table 7-15) -/
  policy : Nat := 0
  vregs : Nat := 1
  sregs : Nat := 1
  teamScratch : Nat := 0
  dieScratch : Nat := 0
  ztiles : Nat := 0
  roles : List Role := []
  trapen : Nat := 0
  /-- signed offset of the handler from the entry point; 0: none -/
  handler : Int := 0
  /-- signed offset of the default stream; 0: none -/
  mstream : Int := 0
  /-- signed offsets of the rung-1 to rung-3 variants -/
  quality : List Int := []
  argwords : Nat := 0
deriving DecidableEq, Repr

/-- Where a team stands in its life. -/
inductive TeamPhase where
  /-- resident on its core -/
  | resident
  /-- stopping for pre-emption (R358 steps 1 and 2) -/
  | stopping
  /-- pre-empted and saved (R358) -/
  | parked
  /-- retired (R43) -/
  | retired
deriving DecidableEq, Repr

/-- A team (R32, R39). -/
structure Team where
  grid : Nat := 0
  /-- `%teamid` -/
  teamid : Nat := 0
  /-- core number; quay cores take 1,152 + 8·s + i (R131) -/
  core : Nat := 0
  /-- `%ngroups` -/
  ngroups : Nat := 0
  /-- entry point it runs, a rung variant's or the base one (R352) -/
  entry : Nat := 0
  /-- the core number its groups report, if not `core`: a quay core's, after a return trap (R319) -/
  idCore : Option Nat := none
  /-- the kernel header of that entry point -/
  hdr : Header := {}
  /-- `%rung` for the team's life (R352) -/
  rung : Nat := 0
  /-- base of its allocation in the core's scratchpad (R94) -/
  allocBase : Nat := 0
  /-- rounded size of its allocation (R94) -/
  allocSize : Nat := 0
  /-- the core's physical tiles that z0 to z(t − 1) name (R56) -/
  tileMap : List Nat := []
  /-- pool slot (R344) -/
  slot : Nat := 0
  phase : TeamPhase := .resident
  /-- `%time` of its placement (R353), and its place in the order of placements (R357) -/
  placedNo : Nat := 0
  placedAt : Nat := 0
  /-- the grid for which a pre-emption of it was cancelled (R417) -/
  spared : Option Nat := none
  /-- groups that have asked for a drain of its `redb` entries and whose drain is not done, in order, each with the number of the entries
  issued by then (R136, R249) -/
  drains : List (Nat × Nat) := []
  /-- an entry of the drain under way has failed (R421) -/
  drainFailed : Bool := false
  /-- status of its most recent run that has ended or was rejected (R277) -/
  lastRun : Nat := 0
deriving DecidableEq, Repr

/-- Where a grid stands. -/
inductive GridPhase where
  /-- waiting for the flights and domains it names (R343), or for room -/
  | waiting
  /-- placed: its grant is in force -/
  | running
  /-- its last team has retired -/
  | complete
deriving DecidableEq, Repr

/-- A grid (R37): its launch record (Table 17-3) and what the launcher keeps for it. -/
structure Grid where
  /-- address context -/
  ctx : Nat := 0
  /-- queue of its command; none for a firing or a quay launch -/
  queue : Option Nat := none
  /-- ring index of its command -/
  command : Option Nat := none
  /-- address of its launch record, as its command named it -/
  record : Nat := 0
  privileged : Bool := false
  gfx : Bool := false
  prio : Nat := 0
  entry : Nat := 0
  /-- the code object that holds the entry point -/
  code : Nat := 0
  hdr : Header := {}
  /-- entry points and headers of the variants for rungs 1, 2 and 3 that are present and that its teams may run (R352) -/
  variants : List (Nat × Nat × Header) := []
  /-- W (R24) -/
  width : Nat := 32
  rung : Nat := 0
  rungmax : Nat := 0
  /-- `%nteams` = nx·ny·nz -/
  nteams : Nat := 1
  fpctl : Word := 0
  deadline : DWord := 0
  guard : Nat := 0
  args : List Byte := []
  backing : Nat := 0
  pool : Nat := 0
  slots : Nat := 0
  flightFirst : Nat := 0
  flightCount : Nat := 0
  domains : DWord := 0
  cost : List Nat := []
  place : Nat := 0
  /-- physical address of the done word; none: no done word -/
  done : Option Nat := none
  /-- the done word as its record names it -/
  doneNamed : Nat := 0
  keep : Bool := false
  cores : Bool := false
  /-- segment bases on the four dies and the segments' size (R102) -/
  segs : List Nat := []
  segSize : Nat := 0
  segid : Nat := 0
  /-- teams placed so far, in `%teamid` order (R345) -/
  placed : Nat := 0
  /-- teams retired -/
  retired : Nat := 0
  /-- (rung, nanoseconds) of retired teams, latest first (R353) -/
  durations : List (Nat × Nat) := []
  /-- a class 2 record names it (R401) -/
  failed : Bool := false
  phase : GridPhase := .waiting
  /-- `%time` since which its next team has waited unplaced (R357) -/
  waitingSince : Nat := 0
  /-- command start order, for ties of R346 -/
  order : Nat := 0
  /-- it waits for the grants it names (R343) -/
  grantWait : Bool := false
  /-- its launch was late at rungmax, and this has been logged (R489) -/
  late : Bool := false
  /-- the grid whose instruction launched it, of a grid of quay cores -/
  parent : Option Nat := none
  /-- of a `pqlaunch`: its command, stacks, and groups for each -/
  pq : Option Nat := none
  onStacks : Nat := 0
  perStack : Nat := 0
deriving DecidableEq, Repr

/-! ## Operations in flight -/

/-- What an operation in flight does when it is performed. -/
inductive OpKind where
  /-- `tld`, `dld`: full/empty mode 0 plain, 1 `.fe`, 2 `.take` (Table 5-3) -/
  | load (fe : Nat)
  /-- `tst`, `dst`; `fill`: `.fill` -/
  | store (fill : Bool)
  /-- `pld` -/
  | peerLoad
  /-- `pst` -/
  | peerStore
  /-- `vperm`, `vshfl`: its values were read at issue and wait for the crossbar (R228); the mask and its pair, if one is written -/
  | perm (mask : DWord) (maskReg : Option Nat)
  /-- `atop`: operation of Table 8-5 and type of Table 8-3 -/
  | atop (oper ty : Nat)
  /-- `atcas`, `atcas128` -/
  | cas
  /-- `mcas` -/
  | mcas
  /-- a `.sc` fence in transit (R130) -/
  | scFence
  /-- `trace`, `qfilt`, `qhash`, `callq`: its records are counted here -/
  | records
  /-- `tokacq` (R333): domain and tile -/
  | token (domain tile : Nat)
  /-- an `flarr` held on the arrival path (R504): the flight's key -/
  | arrival (flight : Nat)
  /-- the arrival of an `fladv` held there -/
  | advance (flight : Nat)
  /-- an `fldrop` held there (R285) -/
  | drop (flight : Nat)
  /-- a `waita` whose test is held (R504): condition and type -/
  | watch (cond ty : Nat)
  /-- a `wclose` held behind earlier stores (R238): the window's key -/
  | close (key : Nat)
  /-- `enqr`: node, port, tag and payload, held until its release is performed -/
  | enq (node port : Nat) (tag : Word) (payload : List Byte)
  /-- `binit` (`init`) and `bxp` (R257) -/
  | landing (init : Bool)
  /-- the read of an engine command's descriptor or record (R129, R504): the command -/
  | descriptor (command : Nat)
deriving DecidableEq, Repr

/-- One lane's access of an operation. -/
structure LaneReq where
  lane : Nat
  /-- location, in the numbering of Machine/Ops.lean -/
  addr : Nat
  /-- the address as formed or named, for `%faultaddr` -/
  named : Nat
  /-- data to store, or operand b -/
  data : Nat
  /-- compare value; for a spill-stack load, the location of the backing byte -/
  cmp : Nat
  /-- the pound may hold the sector (R108) -/
  pound : Bool := false
deriving DecidableEq, Repr

/-- An operation a group has issued and that is not whole yet. Operations of one group stand in program order. -/
structure Op where
  /-- the group -/
  g : Nat
  kind : OpKind
  /-- the clock of its issue -/
  issuedAt : Nat := 0
  /-- its path counter, if it counts on one -/
  path : Option Nat := none
  /-- it still counts on its path (R55) -/
  counted : Bool := false
  /-- bytes per lane -/
  size : Nat := 4
  /-- a load below a word is sign-extended -/
  sx : Bool := false
  /-- `.stk`: the access goes to the spill stack (R92) -/
  stk : Bool := false
  /-- its lanes' accesses, in ascending lane order -/
  lanes : List LaneReq := []
  /-- lanes whose access has been performed or has failed -/
  performed : DWord := 0
  /-- values obtained, by lane -/
  got : List (Nat × Nat) := []
  /-- destination vector registers, for the interlock of R51 -/
  dv : List Nat := []
  /-- destination uniform registers -/
  du : List Nat := []
  /-- the handler that issued it, by the number of its trap; 0: none (R413) -/
  handler : Nat := 0
  /-- ordering: 0 relaxed, 1 acq, 2 rel, 3 ar, 4 sc (Table 7-7), and its scope -/
  order : Nat := 0
  scope : Nat := 0
  /-- SC stamp: clock and core number (R131) -/
  stamp : Option (Nat × Nat) := none
  /-- records still to land -/
  records : Nat := 0
  /-- place in the crossbar or at a home that has been taken; for `mcas`, the steps done -/
  stage : Nat := 0
  /-- result held until the release, for `mcas` -/
  result : Nat := 0
  /-- the parameter block of an `mcas`, once read (R245) -/
  block : List Byte := []
  /-- lanes that failed, with the error each raises once the operation is whole (R409, R423) -/
  failed : List (Nat × Deferred) := []
  /-- the clock at which its next lock was asked for, for `mcas` (R247) -/
  askedAt : Nat := 0
  /-- it has completed -/
  finished : Bool := false
deriving DecidableEq, Repr

/-! ## Synchronisation objects (chapters 05, 06 and 12) -/

/-- Who is registered on a flight. -/
inductive Party where
  | group (g : Nat)
  | run (r : Nat)
deriving DecidableEq, Repr

/-- A member of a flight (R252). -/
structure Member where
  who : Party
  /-- 0 signal-only, 1 wait-only, 2 signal-and-wait -/
  mode : Nat
  /-- it has arrived in the current phase -/
  arrived : Bool := false
  /-- its early-arrival bit -/
  early : Bool := false
deriving DecidableEq, Repr

/-- A flight (R252). Team flight f of team t has key 16·t + f; die flight n of die d has key 2^40 + 4,096·d + n. -/
structure Flight where
  phase : Word := 0
  members : List Member := []
  /-- broken by a stream halt, with the halted run's status code (R420) -/
  broken : Option Nat := none
deriving DecidableEq, Repr

/-- An open peer window (R98). Window e of core c has key 64·c + e. -/
structure Window where
  team : Nat
  /-- line offset within the team's allocation -/
  line : Nat
  single : Bool
  writer : Nat
deriving DecidableEq, Repr

/-- An entry of an atomic buffer (R135, R248). -/
structure RedEntry where
  team : Nat
  partition : Nat
  gid : Nat
  g : Nat
  lane : Nat
  oper : Nat
  ty : Nat
  /-- location -/
  addr : Nat
  /-- address as named -/
  named : Nat
  data : Nat
  pound : Bool := false
  /-- its number among the entries of the module -/
  no : Nat := 0
deriving DecidableEq, Repr

/-- A vector register an executing `mma` pins (R51, R285). -/
structure Pin where
  /-- the run -/
  run : Nat
  g : Nat
  reg : Nat
deriving DecidableEq, Repr

/-- The synchronisation and ordering state of the module. -/
structure Sync where
  flights : List (Nat × Flight) := []
  armed : List Armed := []
  windows : List (Nat × Option Window) := []
  redb : List RedEntry := []
  /-- entries issued so far -/
  redbNo : Nat := 0
  /-- `.fe` and `.take` lanes waiting for their words, in arrival order: operation and lane (R97) -/
  waiters : List (Nat × Nat) := []
  /-- lanes of peer accesses held at the core of a parked owner, in arrival order: operation and lane (R358) -/
  peerHold : List (Nat × Nat) := []
  /-- each core's Lamport clock (R131) -/
  clocks : List (Nat × Nat) := []
  /-- the floor each core last published (R131) -/
  floors : List (Nat × Nat) := []
  /-- the largest clock each home has received (R131) -/
  homeClocks : List (Nat × Nat) := []
  /-- lines locked by an `mcas`: key and operation (R245) -/
  locks : List (Nat × Nat) := []
deriving DecidableEq, Repr

/-! ## Held page faults (R404) -/

/-- Who waits for a held translation fault. -/
inductive HeldWho where
  /-- a lane of an operation, or an entry of an `mcas` -/
  | access (op lane : Nat)
  /-- a lane of the instruction a group is about to issue -/
  | group (g lane : Nat)
  /-- a tow command -/
  | tow (cmd : Nat)
deriving DecidableEq, Repr

/-- A held translation fault. -/
structure Held where
  /-- sequence number of its record -/
  seq : Nat
  /-- `%time` when it was held -/
  since : Nat
  who : HeldWho
  /-- it has been answered: the access fails -/
  failed : Bool := false
deriving DecidableEq, Repr

/-! ## Debugging (spec/29_program_debugger_stub.md) -/

/-- A watchpoint (Table 29-5). -/
structure Watch where
  off : Nat
  /-- bytes watched, minus 1 -/
  len : Nat
  rd : Bool
  wr : Bool
deriving DecidableEq, Repr

/-- The debug registers (Table 29-1) and what the cores hold since the last reload (R497). -/
structure Debug where
  /-- physical base of the mailbox, once bring-up has reserved it -/
  base : Option Nat := none
  hold : Bool := false
  /-- debugged address context; 0xFFFF: none -/
  dctx : Nat := 0xFFFF
  /-- armed step entry: core and group -/
  step : Option (Nat × Nat) := none
  /-- armed breakpoints: number, PC value and group (0xFF: any) -/
  breaks : List (Nat × DWord × Nat) := []
  /-- armed watchpoints, by number -/
  watches : List (Nat × Watch) := []
deriving DecidableEq, Repr

/-! ## The error log (spec/23_faults_reporting.md) -/

/-- A log record (Table 23-4).
DEDUCED: notes/assumptions/111.md. -/
structure LogRec where
  seq : Nat
  time : Nat
  addr : Nat := 0
  code : Nat
  cls : Nat
  flags : Nat := 0
  unitKind : Nat := 0
  unit : Nat := 0
  context : Nat := 0xFFFF
  queue : Nat := 0xFFFF
  command : Nat := 0xFFFFFFFF
  core : Nat := 0xFFFFFFFF
  team : Nat := 0xFFFFFFFF
  group : Nat := 0xFF
  count : Nat := 1
  detail : Nat := 0
  syndrome : Nat := 0
  /-- the time of detection, where the record is written later (R398) -/
  since : Option Nat := none
deriving DecidableEq, Repr

/-- The log and its registers (Table 23-2). -/
structure Log where
  base : DWord := 0
  size : Nat := 0
  en : Bool := false
  ovf : Bool := false
  head : Nat := 0
  tail : Nat := 0
  lost : Nat := 0
  /-- the last sequence number given -/
  seq : Nat := 0
  /-- records kept until the ring is enabled (R397) -/
  buffer : List LogRec := []
  /-- class 0 records still open to merging, with their ring slots (R399) -/
  recent : List (LogRec × Nat) := []
  /-- the time MSI-X vector 0 was last raised for the log (R398) -/
  lastMsi : Option Nat := none
deriving DecidableEq, Repr

/-! ## Code objects -/

/-- A loaded code object: its code map (R111), one translation for each 32 KiB. -/
structure CodeObj where
  ctx : Nat := 0
  /-- virtual base, aligned to 32 KiB -/
  base : Nat := 0
  /-- physical address of each 32 KiB; none where its translation failed -/
  pages : List (Option Nat) := []
  /-- of each, whether the pound may hold its sectors (R108) -/
  pounds : List Bool := []
  /-- `.text`: virtual start and end -/
  text : Nat × Nat := (0, 0)
  /-- `.mstream`: virtual start and end -/
  mstream : Nat × Nat := (0, 0)
  /-- addresses are physical, checked against the arenas of the quay core's stack: code of quay cores, which never translate (R111,
  R115) -/
  flat : Bool := false
  loaded : Bool := true
deriving DecidableEq, Repr

/-! ## Storage, translation and configuration (chapters 05, 18 and 26) -/

/-- What is wrong with a unit of storage (R394, R395, R457, R461). -/
inductive Bad where
  /-- nothing -/
  | sound
  /-- the code corrects it -/
  | correctable
  /-- a retry reads it right -/
  | transient
  /-- uncorrectable after retry -/
  | lasting
deriving DecidableEq, Repr

/-- An arena entry of a quay die (R115, Table 18-5); length 0: absent. -/
structure Arena where
  base : Nat := 0
  length : Nat := 0
  read : Bool := false
  write : Bool := false
  ctx : Nat := 0
deriving DecidableEq, Repr

/-- A surface binding (R326, Table 18-5); width 0: absent. -/
structure Binding where
  base : Nat := 0
  pitch : Nat := 0
  width : Nat := 0
  height : Nat := 0
  format : Nat := 0
deriving DecidableEq, Repr

/-- What the units hold of the configuration region since the last acknowledgement (R364). -/
structure Latched where
  /-- context roots by context, as the region's dword (bit 0 valid) -/
  roots : List (Nat × Nat) := []
  /-- arenas: entry e of stack s at 32·s + e -/
  arenas : List (Nat × Arena) := []
  /-- bindings: binding b of die d at 64·d + b -/
  bindings : List (Nat × Binding) := []
deriving DecidableEq, Repr

/-! ## The matrix engine (spec/14_matrix_engine.md) -/

/-- A tile update on its way (R292). -/
structure TileWrite where
  /-- tile, as the team names it -/
  tile : Nat
  /-- the clock from which it can be written -/
  due : Nat
  /-- element 64·i + j and its new word -/
  values : List (Nat × Nat)
deriving DecidableEq, Repr

/-- A run of a matrix stream (Table 14-1). -/
structure Run where
  team : Nat
  /-- the forking group, its acquire's scope and the operations issued before the `fork` -/
  g : Nat
  acq : Option Nat := none
  before : Nat := 0
  /-- address of the first word -/
  first : Nat
  /-- address of the next word -/
  pc : Nat
  /-- k0 to k15 -/
  scalars : List (Nat × Word) := []
  /-- codebook entry c of slot n at 16·n + c -/
  slots : List (Nat × Nat) := []
  /-- stream loops 0 and 1 -/
  loop0 : LoopReg := {}
  loop1 : LoopReg := {}
  /-- sticky flags -/
  flags : Nat := 0
  /-- signal set and wait set -/
  signals : Nat := 0
  waits : Nat := 0
  /-- holder map -/
  holders : Nat := 0
  /-- next tile of a partly done `mzero` or `mscal` -/
  tile : Option Nat := none
  /-- the clock at which the executing `mma` started -/
  reading : Option Nat := none
  /-- tile updates to come, oldest first -/
  writes : List TileWrite := []
  /-- status (Table 14-3) -/
  status : Nat := 0
  ended : Bool := false
deriving DecidableEq, Repr

/-! ## Tow commands (spec/13_isa_tow.md) -/

/-- How far an engine command has come. -/
inductive CommandPhase where
  /-- its descriptor or record is still to be read -/
  | reading
  /-- read and accepted; its group waits for a place in the queue (R260) -/
  | waiting
  /-- in the queue, not started -/
  | queued
  /-- taken: its accesses are under way -/
  | running
  /-- it makes no further access; its status and count are to come -/
  | finishing
  /-- complete -/
  | done
deriving DecidableEq, Repr

/-- A tow command, or a `pqlaunch`, in issue order. -/
structure Tow where
  /-- opcode: 0x90 `tcopy`, 0x91 `txform`, 0x92 `tremote`, 0x93 `tflush`, 0x94 `tfill`, 0xFE `pqlaunch` -/
  oper : Nat
  /-- the group that issued it -/
  g : Nat
  /-- location of its descriptor or record, and the address as named -/
  desc : Nat
  named : Nat
  /-- location of its landing -/
  landing : Nat
  /-- scope of its acquire and of its release, if it has one -/
  acq : Option Nat := none
  rel : Option Nat := none
  /-- operations of the module issued before it -/
  before : Nat
  /-- the descriptor, once read -/
  bytes : List Byte := []
  phase : CommandPhase := .reading
  /-- next row of a `tflush`, next row to send of a `tremote` -/
  row : Nat := 0
  /-- indexes read, of a gather or scatter: row and index -/
  indexes : List (Nat × Nat) := []
  /-- ranges read: job, place in it, and bytes -/
  brought : List ((Nat × Nat) × List Byte) := []
  /-- ranges written: job and place in it -/
  wrote : List (Nat × Nat) := []
  /-- jobs done -/
  finished : List Nat := []
  /-- status code (Table 13-2) -/
  status : Nat := 0
  /-- arithmetic flags (Table 13-2) -/
  flags : Nat := 0
  /-- the completion-word add has been sent -/
  added : Bool := false
deriving DecidableEq, Repr

/-! ## Camtos ports (spec/18_host_links_time.md, R365 to R368, R483 to R485) -/

/-- A Camtos port. A flit is a number of 512 bits, byte 0 lowest.
DEDUCED: notes/assumptions/114.md. -/
structure Port where
  /-- 0 up, 1 retraining, 2 down, 3 not connected (Table 27-2) -/
  state : Nat := 3
  /-- lanes in use -/
  lanes : Nat := 0
  retrains : Nat := 0
  /-- sequence number of the next flit sent -/
  txSeq : Nat := 0
  /-- replay buffer: flits sent and not acknowledged, oldest first -/
  replay : List Nat := []
  /-- flits that wait for a credit, for replay-buffer room or for the port -/
  waiting : List Nat := []
  /-- tow commands with flits of theirs that have still to take their turns, the next one first (R369) -/
  turns : List (Nat × List Nat) := []
  /-- credits used of the 256 of virtual channels 0, 1 and 2 -/
  used : List Nat := [0, 0, 0]
  /-- `%time` at which the oldest unacknowledged flit was last sent -/
  sentAt : Nat := 0
  /-- replays of the oldest unacknowledged flit -/
  replays : Nat := 0
  /-- sequence number of the next flit to be accepted -/
  rxSeq : Nat := 0
  /-- a flit failed its CRC and its replay has not arrived -/
  discarding : Bool := false
  /-- accepted flits not yet taken, oldest first -/
  rx : List Nat := []
  /-- credits to return, for virtual channels 0, 1 and 2 -/
  owed : List Nat := [0, 0, 0]
  /-- `%time` since which it waits for a retrain command (R484) -/
  downAt : Option Nat := none
  /-- every flit put on the wire, oldest first -/
  wire : List Nat := []
deriving DecidableEq, Repr

/-- A remote command this module has sent and that awaits its response (R366). -/
structure Remote where
  tow : Nat
  port : Nat
  /-- origin tag -/
  tag : Nat
  /-- target address and length -/
  addr : Nat
  len : Nat
  /-- silt to write once the row is performed at the target: location and bytes -/
  silt : List (Nat × List Byte) := []
  /-- the command that carries the row's elements, of one that carries its scales -/
  mate : Option Nat := none
  /-- its response has come, with this status -/
  answered : Option Nat := none
deriving DecidableEq, Repr

/-- A command whose head this module has taken in and whose body is still to come (R366, R368). -/
structure Inbound where
  port : Nat
  /-- link tag on the incoming link -/
  link : Nat
  /-- outgoing port and link tag, of a command that is forwarded -/
  forward : Option (Nat × Nat) := none
  source : Nat := 0
  origin : Nat := 0
  /-- address of the next byte -/
  addr : Nat := 0
  /-- bytes still to come -/
  left : Nat
  performed : Nat := 0
  status : Nat := 0
deriving DecidableEq, Repr

/-- The fabric registers (Table 18-2). -/
structure Fabric where
  /-- inbound context -/
  inbound : Nat := 0
  /-- source enable mask -/
  sources : DWord := 0
  /-- route table: the port for each device; 0xFF: unreachable -/
  routes : List (Nat × Nat) := []
  ports : List (Nat × Port) := []
  remotes : List Remote := []
  inbounds : List Inbound := []
deriving DecidableEq, Repr

/-! ## Rays, filtering and quay cores (spec/15_rays_and_quay.md) -/

/-- A limit of an interval of ray distances: −∞, n/d, or +∞. -/
inductive Limit where
  | low
  | at (n : Int) (d : Nat)
  | high
deriving DecidableEq, Repr

/-- What a search of a treelet has still to do, nearest first. -/
inductive RayWork where
  /-- visit a node that was entered at a distance -/
  | node (index : Nat) (entry : Limit)
  /-- the triangles of a leaf that was entered at a distance -/
  | leaf (first count : Nat) (entry : Limit)
  /-- one triangle -/
  | tri (index : Nat)
  /-- a link of treelet 0 to an instance -/
  | link (inst : Nat) (entry : Limit)
deriving DecidableEq, Repr

/-- Where a barge is. -/
inductive BargePlace where
  /-- formed; its `trace` waits for admission -/
  | formed
  /-- delivered to a top step -/
  | top
  /-- on its way to a basin -/
  | moving
  /-- in the basin of its treelet -/
  | basin
  /-- in a traversal unit, with a candidate for the any-hit program -/
  | candidate
  /-- in a traversal unit, its candidate being tested by a group, in a lane of it -/
  | testing (g lane : Nat)
  /-- ended; its record is on its way -/
  | ended
  /-- its record has landed -/
  | landed
  /-- lost with its return index (R478): no record lands -/
  | lost
deriving DecidableEq, Repr

/-- A candidate hit (R303): t', u and v, prim id and instance id. -/
structure Hit where
  t : Nat
  uv : Nat
  prim : Nat
  inst : Nat
deriving DecidableEq, Repr

/-- A barge (Table 15-5), or a record of a `trace` lane that forms none.
DEDUCED: notes/assumptions/102.md. -/
structure Barge where
  /-- its `trace` -/
  trace : Nat
  lane : Nat
  /-- origin, direction, tmin and tmax as the lane gave them, f32 -/
  ray : List Nat
  /-- current limit, f32 -/
  tmax : Nat
  /-- node visits -/
  visits : Nat := 0
  /-- links passed -/
  links : Nat := 0
  /-- the number of the return slot it holds on its origin core -/
  slot : Option Nat := none
  /-- index of the instance being searched; 0xFFFFFFFF in a top step -/
  root : Nat := 0xFFFFFFFF
  /-- best hit -/
  best : Option Hit := none
  /-- the stack where it lies -/
  stack : Nat
  place : BargePlace
  /-- treelet to search, its base, nodes and triangles, and the id of the instance -/
  treelet : Nat := 0
  base : Nat := 0
  nodes : Nat := 0
  tris : Nat := 0
  instId : Nat := 0xFFFFFFFF
  /-- object-space origin and direction, f32; empty: the ray misses the instance -/
  obj : List Nat := []
  /-- the directory's any-hit entry point and its argument -/
  ahk : Nat := 0
  ahd : Nat := 0
  work : List RayWork := []
  /-- its candidate -/
  cand : Option Hit := none
  /-- the traversal unit that holds it -/
  unit : Option Nat := none
  /-- its order of arrival on the stack, and the stack's turns then -/
  arrived : Nat := 0
  turn : Nat := 0
  /-- its spill slot -/
  spill : Option Nat := none
  /-- it was lost with its spill slot (R478) -/
  unread : Bool := false
  /-- status of its record (Table 15-6) and the address that failed -/
  status : Nat := 0
  failed : Nat := 0
deriving DecidableEq, Repr

/-- A `trace` in flight (R300). -/
structure Trace where
  /-- its operation -/
  op : Nat
  /-- location of the record area -/
  area : Nat
  /-- root record, physical -/
  root : Nat
  /-- its address context, and the stack under its core's cluster -/
  ctx : Nat
  stack : Nat
  flags : Nat
  mask : Nat
  /-- barges formed -/
  count : Nat
  acq : Option Nat := none
  /-- generation and directory, once admitted -/
  gen : Option Nat := none
  dir : Nat := 0
deriving DecidableEq, Repr

/-- A `qfilt` or `qhash` in flight. -/
structure Filter where
  op : Nat
  hash : Bool
  desc : Nat
  /-- register c of `qhash` -/
  sel : Nat := 0
  area : Nat
  ctx : Nat
  stack : Nat
  acq : Option Nat := none
  /-- lanes whose records are still to land, with their three values -/
  lanes : List (Nat × List Nat)
  /-- its descriptor was rejected; the first address outside the arenas, and the first that could not be read -/
  rejected : Bool := false
  outside : Option Nat := none
  unread : Option Nat := none
deriving DecidableEq, Repr

/-- The quay dies. -/
structure Quay where
  traces : List Trace := []
  barges : List Barge := []
  filters : List Filter := []
  /-- turns begun, and barges arrived, on each stack -/
  turns : List (Nat × Nat) := []
  arrivals : List (Nat × Nat) := []
deriving DecidableEq, Repr

/-! ## Called units, tokens and matching tables (spec/16_raster_and_coprocessors.md, spec/17_scheduler.md) -/

/-- The records of one `callq` for one unit (R328). -/
structure Batch where
  op : Nat
  die : Nat
  /-- 0 depth, 1 blend, 2 tessellator, 3 none -/
  kind : Nat
  /-- call word (Table 16-4) -/
  word : Nat
  token : Nat := 0
  /-- tile word -/
  tile : Nat := 0
  acq : Option Nat := none
  /-- location of the return area -/
  area : Nat
  /-- records still to be taken: lane and payload, lowest lane first -/
  records : List (Nat × List Nat)
  /-- it has left the queue: its unit applies or holds it -/
  taken : Bool := false
  /-- it is in the holding store -/
  held : Bool := false
  /-- status that every record of it takes -/
  bad : Option Nat := none
  /-- return records still to land: lane and words -/
  returns : List (Nat × List Nat) := []
  /-- failed records: status and sample address -/
  errors : List (Nat × Nat) := []
deriving DecidableEq, Repr

/-- A record in a token-matching table (R348). -/
structure Match where
  die : Nat
  ctx : Nat
  node : Nat
  port : Nat
  tag : Nat
  payload : List Byte
deriving DecidableEq, Repr

/-- The called units of the dies and their matching tables. Tile (tx, ty) of domain n has key 2^24·n + 4,096·ty + tx. -/
structure Units where
  batches : List Batch := []
  /-- tokens taken of each tile (R333) -/
  counts : List (Nat × Nat) := []
  /-- current token of a tile at unit u: key 2^30·u + its key (R335) -/
  current : List (Nat × Nat) := []
  /-- closed tokens, by the key of `current` -/
  closed : List (Nat × Nat) := []
  table : List Match := []
deriving DecidableEq, Repr

/-! ## Queues, graphs, segments and reaches (spec/17_scheduler.md, spec/18_host_links_time.md) -/

/-- A queue entry (Table 18-3).
DESIGN CHOICE: notes/assumptions/6.md. -/
structure Queue where
  ring : DWord := 0
  size : Nat := 0
  prio : Nat := 0
  gfx : Bool := false
  privileged : Bool := false
  ctx : Nat := 0
  vector : Nat := 0
  enabled : Bool := false
  head : Nat := 0
  tail : Nat := 0
deriving DecidableEq, Repr

/-- A command that has started (R338). -/
structure Command where
  queue : Nat
  index : Nat
  kind : Nat
  operand : Nat
  value : Nat
  /-- its grid, of a launch -/
  grid : Option Nat := none
  done : Bool := false
deriving DecidableEq, Repr

/-- A graph bound to a context (R347). -/
structure Graph where
  ctx : Nat
  table : Nat
  nodes : Nat
deriving DecidableEq, Repr

/-- Die segments that a grid kept (R340, R341). -/
structure Kept where
  ctx : Nat
  segid : Nat
  bases : List Nat
  size : Nat
deriving DecidableEq, Repr

/-- The reaches of a die (R350, R351). -/
structure DieReach where
  /-- boundary G -/
  bound : Nat := 0
  /-- target G* -/
  target : Nat := 0
  gmin : Nat := 0
  gmax : Nat := 288
  /-- marked core, by local index, and `%time` of the marking -/
  mark : Option (Nat × Nat) := none
  /-- the pre-empt bit of the last reach command -/
  preempt : Bool := false
  /-- `%time` of the balancer's last comparison -/
  stepped : Option Nat := none
deriving DecidableEq, Repr

/-- The command processor and the launcher. -/
structure Launcher where
  queues : List (Nat × Queue) := []
  commands : List Command := []
  /-- the queue of each priority that started a command last (R338) -/
  served : List (Nat × Nat) := []
  graphs : List Graph := []
  kept : List Kept := []
  reaches : List (Nat × DieReach) := []
  /-- grids formed so far -/
  order : Nat := 0
deriving DecidableEq, Repr

/-! ## Display outputs (R372 to R374, R490, R491) -/

/-- An entry of an output's pending list, or a scanned buffer (R373). -/
structure Release where
  binding : Nat
  /-- T -/
  time : Nat
  /-- location of the retire word, and whether the pound may hold it -/
  retire : Option (Nat × Bool) := none
  /-- the retire word as its `frel` named it, and its address context -/
  named : Nat := 0
  ctx : Nat := 0
  /-- group, scope and number of the operations before its `frel`, if it acquires (R129) -/
  acq : Option (Nat × Nat × Nat) := none
  /-- `%time` of its append -/
  appended : Nat := 0
deriving DecidableEq, Repr

/-- A display output (Table 18-6). Words are kept by number; word i holds bytes 4·i to 4·i + 3 of the block. -/
structure Output where
  /-- as written -/
  words : List (Nat × Nat) := []
  /-- as in effect since the last frame start -/
  live : List (Nat × Nat) := []
  enabled : Bool := false
  frames : Nat := 0
  pending : List Release := []
  /-- the scanned buffer; none: the block's initial binding -/
  scanned : Option Release := none
  /-- entries that retire once the frame before the last start has been read -/
  retiring : List Release := []
  /-- consecutive repeats because of a late entry -/
  repeats : Nat := 0
  /-- `%time` of the last frame start -/
  lastStart : Option Nat := none
  /-- `%time` since which it has been enabled -/
  enabledAt : Nat := 0
deriving DecidableEq, Repr

/-! ## BAR0, Porman and the host (spec/18_host_links_time.md, spec/23_faults_reporting.md) -/

/-- The device's answer to the host's last access (R361, R363). -/
inductive HostReply where
  /-- a write, which has no answer -/
  | quiet
  /-- the data of a read -/
  | data (v : Nat)
  /-- a completer abort -/
  | abort
deriving DecidableEq, Repr

/-- The registers of the host's side that no other structure holds. -/
structure Bar where
  /-- the answer to the last access -/
  reply : HostReply := .quiet
  /-- base of the configuration region -/
  cfgbase : Nat := 0
  /-- where in each stack's DRAM its reserved areas begin, in units of 32 KiB (R375, R478, R482) -/
  reserved : List (Nat × Nat) := []
  /-- brought up since the last reset, so that P is fixed (R107) -/
  brought : Bool := false
  /-- status bit 1: firmware damaged -/
  damaged : Bool := false
  /-- apertures (Table 18-4) -/
  apertures : List (Nat × DWord) := []
  outputs : List (Nat × Output) := []
  /-- frequency adjustment, parts per 2^32 -/
  freq : Int := 0
  /-- nanoseconds of a backward offset still to absorb, in units of 2^-32 ns -/
  debt : Nat := 0
  /-- the servo reports lock -/
  locked : Bool := false
  /-- times of the PTP exchange under way, as far as they are known, and then the number of the message that left (R370) -/
  exchange : List Nat := []
  /-- entries of `frel`s that have passed their tests and wait for room, by group (R373) -/
  frels : List (Nat × Release) := []
  nonce : List Byte := List.replicate 32 0
  /-- attestation state: 0 idle, 1 busy, 2 report ready, 0x80 key unavailable -/
  attest : Nat := 0
  report : List Byte := []
  /-- restore registers (Table 23-8) -/
  roff : Nat := 0
  rlen : Nat := 0
  rstat : Nat := 0
  /-- chunk buffer -/
  rbuf : List (Nat × Byte) := []
  /-- bytes of the image appended so far -/
  image : List Byte := []
  /-- a commit is under way (R406) -/
  committing : Bool := false
  /-- a commit was interrupted, which leaves the image damaged (R406) -/
  torn : Bool := false
  /-- the firmware image, with its signature -/
  firmware : List Byte := []
  /-- arithmetic clock in kHz, and the clock of the coolant inlet (Table 18-10) -/
  khz : Nat := 2250000
  inletKhz : Nat := 2250000
  /-- no new team is placed (Table 18-10) -/
  hot : Bool := false
  /-- failed calibrations: channels at their number, port p at 2^16 + p -/
  calFailed : List (Nat × Nat) := []
  /-- the change word's value at the last reload (R364) -/
  change : Nat := 0
deriving DecidableEq, Repr

/-! ## The whole module -/

/-- What one turn of the agenda is for. -/
inductive Turn where
  /-- a group takes its next step -/
  | group (g : Nat)
  /-- a core's matrix sequencer takes its next word -/
  | stream (core : Nat)
  /-- a device event -/
  | event (i : Instr)
  /-- time passes: arithmetic clocks, and nanoseconds of the hardware clock's oscillator -/
  | clocks (n ns : Nat)
  /-- a unit of storage comes to hold an error (R394) -/
  | upset (loc : Nat) (what : Bad)
  /-- a flit arrives at a Camtos port (R365) -/
  | flit (port flit : Nat)
  /-- the host reads a BAR0 register (R361) -/
  | barRead (offset size : Nat)
  /-- the host writes its own memory, at a physical address of the device (R117) -/
  | hostStore (addr size data : Nat)
  /-- a read of a busy bank of die scratchpad is rebuilt: the location of a word of its line (R103, R460) -/
  | rebuild (loc : Nat)
deriving DecidableEq, Repr

/-- The state of the module.
DEDUCED: notes/assumptions/106.md. -/
structure State where
  /-- which unit acts next, and what comes from outside, first turn first; when it is empty the group `cur` acts -/
  agenda : List Turn := []
  /-- the group that acts -/
  cur : Nat := 0
  /-- the core whose sequencer acts -/
  curCore : Nat := 0
  /-- the model's own counter for values the manual leaves open -/
  free : Nat := 0
  /-- `%deviceid`: the module's number on the Camtos fabric (Table 3-3) -/
  deviceId : Nat := 0
  /-- `%clock`: arithmetic clocks since module reset -/
  clock : Nat := 0
  groups : List Group := []
  teams : List Team := []
  grids : List Grid := []
  codes : List CodeObj := []
  /-- every byte of storage by location (Machine/Ops.lean); an unlisted byte reads as zero -/
  mem : List Host.Cell := []
  /-- full/empty bits of the words of team and die scratchpad, by location / 4 (R96); unlisted: empty -/
  full : List (Nat × Bool) := []
  /-- units of storage that hold an error, by the unit's location (R394) -/
  bad : List (Nat × Bad) := []
  /-- P, the pound size of every stack in bytes (R107) -/
  poundSize : Nat := 0
  /-- pound tag records (Table 5-6): index i of stack k at 2^24·k + i -/
  tags : List (Nat × Nat) := []
  /-- bytes of spill stacks the register backing cache holds, by the location of Machine/Perform.lean (R92, R93) -/
  spilled : List (Nat × Option Byte) := []
  latched : Latched := {}
  /-- instructions issued by the module: the order in which registers were accessed and groups issued (R50) -/
  seq : Nat := 0
  pins : List Pin := []
  held : List Held := []
  /-- exec densities of retired groups, latest first, at most 64, by entry point: key 2^57·code object + address; each is active
  lanes and lanes issued (R23) -/
  density : List (Nat × List (Nat × Nat)) := []
  ops : List Op := []
  /-- tow commands and `pqlaunch` commands -/
  tows : List Tow := []
  /-- runs of matrix streams -/
  runs : List Run := []
  /-- accumulator tiles: element 64·i + j of physical tile p of core c at 4,096·(64·c + p) + 64·i + j (R56) -/
  tiles : List (Nat × Nat) := []
  fabric : Fabric := {}
  quay : Quay := {}
  units : Units := {}
  launch : Launcher := {}
  bar : Bar := {}
  /-- status bit 0 (Table 18-2): the module is ready -/
  ready : Bool := false
  sync : Sync := {}
  log : Log := {}
  dbg : Debug := {}
  /-- MSI-X vectors raised to the host, oldest first (R398, R364) -/
  msix : List Nat := []
  /-- IEEE 1588 time: nanoseconds, and units of 2^-32 ns beyond them (R57, R370, R371) -/
  ptpNs : DWord := 0
  ptpFrac : Nat := 0
  /-- duty modes (Table 18-8): bit set for host-assisted -/
  duty : Word := 0
deriving DecidableEq, Repr

/-- The module right after reset. -/
def State.reset : State := {}

end Sys2Proof.Machine
end

