-- ==== Sys2Proof/Machine/Access.lean ====
section
/-!
DEFINITION. Reading and writing the registers of a group, its team, its grid and the storage of the module: the one home of every
register and byte (spec/03_programmer_state.md, spec/05_memory_spaces.md).
-/
namespace Sys2Proof.Machine

/-! ## Finding things by number -/

/-- Group number `g`; one that does not exist has no live lane. -/
def grp (s : State) (g : Nat) : Group := s.groups.getD g {}
/-- Team number `t`. -/
def team (s : State) (t : Nat) : Team := s.teams.getD t {}
/-- Grid number `i`. -/
def grid (s : State) (i : Nat) : Grid := s.grids.getD i {}
/-- The acting group. -/
def me (s : State) : Group := grp s s.cur
/-- The team of group `g`. -/
def teamOf (s : State) (g : Nat) : Team := team s (grp s g).team
/-- The grid of group `g`. -/
def gridOf (s : State) (g : Nat) : Grid := grid s (teamOf s g).grid

/-- The next value the manual leaves open. -/
def freeNat (s : State) : Nat := (Config.freeBits s.free).toNat
/-- The counter of open values moves on by `n`. -/
def passFree (s : State) (n : Nat) : State := { s with free := s.free + n }

/-- Replace group `g`. -/
def setGrp (s : State) (g : Nat) (x : Group) : State := { s with groups := s.groups.set g x }
/-- Change group `g`. -/
def modGrp (s : State) (g : Nat) (f : Group → Group) : State := setGrp s g (f (grp s g))
/-- Change the acting group. -/
def modMe (s : State) (f : Group → Group) : State := modGrp s s.cur f
/-- Change team `t`. -/
def modTeam (s : State) (t : Nat) (f : Team → Team) : State := { s with teams := s.teams.set t (f (team s t)) }
/-- Change grid `i`. -/
def modGrid (s : State) (i : Nat) (f : Grid → Grid) : State := { s with grids := s.grids.set i (f (grid s i)) }
/-- Change operation `o`. -/
def modOp (s : State) (o : Nat) (f : Op → Op) : State := { s with ops := s.ops.modify o f }

/-! ## Registers of a group -/

/-- `%width` of group `g`. -/
def widthOf (s : State) (g : Nat) : Nat := (gridOf s g).width

/-- sn (R52). -/
def sreg (x : Group) (n : Nat) : Word := mapGet 0 x.sregs n
/-- The pair s[n:n+1], the low word in sn (R52). -/
def spair (x : Group) (n : Nat) : DWord := sreg x (n + 1) ++ sreg x n
/-- Write sn. -/
def setSreg (n : Nat) (v : Word) (x : Group) : Group := { x with sregs := mapSet 0 n v x.sregs }
/-- Write the pair s[n:n+1]. -/
def setSpair (n : Nat) (v : DWord) (x : Group) : Group :=
  setSreg (n + 1) (v.extractLsb' 32 32) (setSreg n (v.extractLsb' 0 32) x)
/-- Write `cnt` registers from n: a word, or a pair. -/
def setSregs (n cnt : Nat) (v : Nat) (x : Group) : Group :=
  if cnt = 2 then setSpair n (BitVec.ofNat 64 v) x else setSreg n (BitVec.ofNat 32 v) x

/-- Lane l of vn (R48). -/
def vlane (x : Group) (n l : Nat) : Word := mapGet 0 x.vregs (64 * n + l)
/-- Lane l of the pair v[n:n+1] (R48). -/
def vpair (x : Group) (n l : Nat) : DWord := vlane x (n + 1) l ++ vlane x n l
/-- Bit n of a set of vector registers. -/
def regIn (m : BitVec 256) (n : Nat) : Bool := m.getLsbD n
/-- A written register that is not mapped (R49). -/
def backed (x : Group) (n : Nat) : Bool := regIn x.written n && !regIn x.mapped n

/-- Write lane l of vn and mark vn written and mapped (R49). A backed register is written only when its fill has failed: the write maps it
without one, and its other lanes then read zero (R415). -/
def setVlane (n l : Nat) (v : Word) (x : Group) : Group :=
  { x with vregs := mapSet 0 (64 * n + l) v (if backed x n && regIn x.fillFailed n then mapClear (64 * n) 64 x.vregs else x.vregs),
           written := x.written ||| BitVec.ofNat 256 (2 ^ n), mapped := x.mapped ||| BitVec.ofNat 256 (2 ^ n),
           fillFailed := x.fillFailed &&& ~~~ BitVec.ofNat 256 (2 ^ n) }
/-- Write lane l of `cnt` registers from n: a word, or a pair. -/
def setVlanes (n cnt l : Nat) (v : Nat) (x : Group) : Group :=
  if cnt = 2 then setVlane (n + 1) l (BitVec.ofNat 32 (v / 2 ^ 32)) (setVlane n l (BitVec.ofNat 32 v) x)
  else setVlane n l (BitVec.ofNat 32 v) x

/-- The active set of the group's instructions (R11): the lanes below `%width` whose bit of exec is 1. -/
def activeMask (s : State) (g : Nat) : DWord := (grp s g).exec &&& widthMask (widthOf s g)
/-- The lanes of the active set, in ascending order. -/
def activeLanes (s : State) (g : Nat) : List Nat := lanesOf (grp s g).exec (widthOf s g)

/-- Path counter number p of Table 3-1. -/
def counter (c : Counters) (p : Nat) : Nat :=
  match p with
  | 0 => c.ts
  | 1 => c.ds
  | 2 => c.pw
  | 3 => c.qy
  | 4 => c.cq
  | _ => c.atm
/-- Write path counter p. -/
def setCounter (p v : Nat) (c : Counters) : Counters :=
  match p with
  | 0 => { c with ts := v }
  | 1 => { c with ds := v }
  | 2 => { c with pw := v }
  | 3 => { c with qy := v }
  | 4 => { c with cq := v }
  | _ => { c with atm := v }
/-- All six path counters are zero (R42, R65). -/
def countersZero (c : Counters) : Bool :=
  c.ts == 0 && c.ds == 0 && c.pw == 0 && c.qy == 0 && c.cq == 0 && c.atm == 0

/-- Loop register lcN (R53). -/
def loopReg (x : Group) (n : Nat) : LoopReg :=
  match n with
  | 0 => x.lc0
  | 1 => x.lc1
  | 2 => x.lc2
  | _ => x.lc3
/-- Write loop register lcN. -/
def setLoopReg (n : Nat) (v : LoopReg) (x : Group) : Group :=
  match n with
  | 0 => { x with lc0 := v }
  | 1 => { x with lc1 := v }
  | 2 => { x with lc2 := v }
  | _ => { x with lc3 := v }
/-- k: the number of live loop registers, which form a prefix of lc0 to lc3 (R194). -/
def liveLoops (x : Group) : Nat :=
  if x.lc0.count = 0 then 0 else if x.lc1.count = 0 then 1 else if x.lc2.count = 0 then 2 else if x.lc3.count = 0 then 3 else 4

/-! ## PC values (R142) -/

/-- The clause header a PC value names, bits [56:0]. -/
def pcHeader (pc : DWord) : Nat := bitField pc.toNat 0 57
/-- The index of the next instruction, bits [63:60]. -/
def pcIndex (pc : DWord) : Nat := bitField pc.toNat 60 4
/-- The PC value of header h and index i. -/
def mkPc (h i : Nat) : DWord := BitVec.ofNat 64 (h % 2 ^ 57 + i * 2 ^ 60)
/-- The address of the instruction a PC value names: A + 8 + 8·i (R138). -/
def pcInstr (pc : DWord) : Nat := pcHeader pc + 8 + 8 * pcIndex pc

/-! ## Cores (R16, R131) -/

/-- The number of compute cores. -/
def numCores : Nat := 1152
/-- Whether a core number names a quay core (R131). -/
def isQuayCore (c : Nat) : Bool := decide (numCores ≤ c)
/-- The die of a core: 288 cores to a die; a quay core is on the die under its stack, six stacks to a die (R16, R317). -/
def dieOfCore (c : Nat) : Nat := if c < numCores then c / 288 else (c - numCores) / 8 / 6
/-- The core of group g. -/
def coreOf (s : State) (g : Nat) : Nat := (teamOf s g).core
/-- The partition of group g: its number in the team modulo 4 (R33); a quay core has one (R317), and a group in a return slot is on the
slot's (R318). -/
def partitionOf (s : State) (g : Nat) : Nat :=
  if isQuayCore (coreOf s g) then 0 else (grp s g).returnSlot.getD ((grp s g).gid % 4)

/-! ## Locations -/

/-- Location of byte `off` of die d's 128 MiB of die scratchpad: after all of physical memory, as the lock keys of R245 place it. -/
def locDie (d off : Nat) : Nat := 2 ^ 52 + d * 2 ^ 27 + off
/-- Location of byte `off` of core c's team scratchpad. -/
def locTeam (c off : Nat) : Nat := 2 ^ 53 + c * 2 ^ 19 + off
/-- Whether a location lies in a scratchpad, whose words carry full/empty bits (R96). -/
def isScratch (a : Nat) : Bool := decide (2 ^ 52 ≤ a)

/-- The number held by the `n` bytes from location `a` (R6). -/
def rd (s : State) (a n : Nat) : Nat := readLE s.mem a n
/-- Write the low `n` bytes of `v` from location `a`. -/
def wr (s : State) (a n v : Nat) : State := { s with mem := writeLE s.mem a n v }
/-- Write a list of bytes from location `a`. -/
def wrBytes (s : State) (a : Nat) (bs : List Byte) : State := { s with mem := writeBytes s.mem a bs }
/-- The full/empty bit of the word that holds location `a`: true when full.
DESIGN CHOICE: notes/assumptions/15.md. -/
def isFull (s : State) (a : Nat) : Bool := mapGet false s.full (a / 4)
/-- Set the full/empty bit of every word that a range of bytes touches; a range outside the scratchpads has none (R96, R118). -/
def setFullFrom (a : Nat) (v : Bool) : Nat → List (Nat × Bool) → List (Nat × Bool)
  | 0, m => m
  | n + 1, m => setFullFrom (a + 1) v n (mapSet false a v m)
/-- Set the full/empty bits of the words under `n` bytes from location `a`. -/
def markFull (s : State) (a n : Nat) (v : Bool) : State :=
  if n = 0 ∨ !isScratch a then s else { s with full := setFullFrom (a / 4) v ((a + n - 1) / 4 + 1 - a / 4) s.full }
/-- Whether every word under `n` bytes from `a` is full. -/
def allFull (s : State) (a n : Nat) : Bool :=
  (List.range ((a + n - 1) / 4 + 1 - a / 4)).all (fun i => mapGet false s.full (a / 4 + i))

end Sys2Proof.Machine
end

