-- ==== Sys2Proof/Machine/Storage.lean ====
section
/-!
DEFINITION. The physical map, the error log, stored-data errors, the pound, address forms and translation
(spec/05_memory_spaces.md, spec/23_faults_reporting.md, spec/26_faults_memory.md).
-/
namespace Sys2Proof.Machine

/-! ## The physical map (Table 5-5) -/

/-- Where a physical address lies. -/
inductive Region where
  | stack (k : Nat)
  | lpddr (channel : Nat)
  | host
  /-- a hole, or a pound carve-out -/
  | hole
deriving DecidableEq, Repr

/-- The region of physical address `a`, for pound size `p` (R105). -/
def regionOf (p a : Nat) : Region :=
  if a < 24 * 2 ^ 36 then (if a % 2 ^ 36 < 48 * 2 ^ 30 - p then .stack (a / 2 ^ 36) else .hole)
  else if a < 2 ^ 42 then .hole
  else if a < 2 ^ 42 + 64 * 2 ^ 35 then .lpddr ((a - 2 ^ 42) / 2 ^ 35)
  else if a < 2 ^ 51 then .hole
  else if a < 2 ^ 52 then .host
  else .hole

/-- All `n` bytes from `a` lie in one region that is no hole. -/
def physOk (p a n : Nat) : Bool :=
  regionOf p a != .hole && regionOf p (a + n - 1) != .hole

/-- The pound stack, index and tag of an LPDDR6 address (R108). -/
def poundPlace (p a : Nat) : Nat × Nat × Nat :=
  let c := (a - 2 ^ 42) / 2 ^ 35
  let d := c / 16
  let o := c % 16 * 2 ^ 35 + (a - 2 ^ 42 - c * 2 ^ 35)
  let n := o / 2048
  let big := p / 2048
  (6 * d + n % 6, n / 6 % big, n / (6 * big))

/-- Pound data location of a stack and index (R108): bytes of the carve-out. -/
def poundData (p k i : Nat) : Nat := k * 2 ^ 36 + (48 * 2 ^ 30 - p) + 2048 * i

/-- The LPDDR6 sector address that a stack, index and tag of the pound name: the inverse of R108. -/
def poundSector (p k i t : Nat) : Nat :=
  let big := p / 2048
  let n := (t * big + i) * 6 + k % 6
  let o := n * 2048
  2 ^ 42 + (k / 6 * 16) * 2 ^ 35 + o

/-- A tag record's word (Table 5-6): check, state and tag. -/
def tagRecord (state t : Nat) : Nat :=
  let lo := state * 1024 + t % 256
  lo + (((lo / 256 % 16) ^^^ (lo / 16 % 16)) ^^^ (lo % 16)) * 4096

/-- Whether a tag record's check field matches and its state is not 0b10 (R109). -/
def tagOk (r : Nat) : Bool :=
  r / 4096 % 16 == (((r / 256 % 16) ^^^ (r / 16 % 16)) ^^^ (r % 16)) && r / 1024 % 4 != 2

/-- State field of a tag record: 0 invalid, 1 clean, 3 dirty. -/
def tagState (r : Nat) : Nat := r / 1024 % 4

/-! ## Units of storage and the errors they hold (R457, R461) -/

/-- The unit of storage that holds a location: a 32-bit word of scratchpad, 64 bytes of DRAM (R457, R461). -/
def unitOf (a : Nat) : Nat := if isScratch a then a / 4 * 4 else a / 64 * 64
/-- Bytes of that unit. -/
def unitBytes (a : Nat) : Nat := if isScratch a then 4 else 64
/-- Where the error of a pound tag record is kept: the record of index i of stack k, whose key is 2^24·k + i.
DEDUCED: notes/assumptions/142.md. -/
def tagUnit (key : Nat) : Nat := 2 ^ 61 + 4 * key
/-- The error a unit holds. -/
def badAt (s : State) (a : Nat) : Bad := mapGet .sound s.bad (unitOf a)
/-- Set the error a unit holds. -/
def setBad (s : State) (a : Nat) (b : Bad) : State := { s with bad := mapSet .sound (unitOf a) b s.bad }

/-- The units under `n` bytes from `a`. -/
def unitsUnder (a n : Nat) : List Nat :=
  (List.range ((a + n - 1) / unitBytes a + 1 - a / unitBytes a)).map (fun i => (a / unitBytes a + i) * unitBytes a)

/-! ## The error log (R397 to R400) -/

/-- `%time`: TAI nanoseconds (R370). -/
def timeOf (s : State) : Nat := s.ptpNs.toNat

/-- The 64 bytes of a log record (Table 23-4). -/
def logBytes (r : LogRec) : List Byte :=
  toBytesLE 8 r.seq ++ toBytesLE 8 r.time ++ toBytesLE 8 r.addr ++ toBytesLE 2 r.code ++ toBytesLE 1 r.cls ++ toBytesLE 1 r.flags ++
    toBytesLE 2 r.unitKind ++ toBytesLE 2 r.unit ++ toBytesLE 2 r.context ++ toBytesLE 2 r.queue ++ toBytesLE 4 r.command ++
    toBytesLE 4 r.core ++ toBytesLE 4 r.team ++ toBytesLE 1 r.group ++ [0] ++ toBytesLE 2 r.count ++ toBytesLE 4 r.detail ++
    toBytesLE 8 r.syndrome

/-- The record count of the ring: 64 to 65,536 (Table 23-3). -/
def logSlots (l : Log) : Nat := 64 * 2 ^ l.size

/-- Location of slot `i` of the ring; the base is a physical device address (R397).
DEDUCED: notes/assumptions/10.md. -/
def logSlot (l : Log) (i : Nat) : Nat := bitField l.base.toNat 0 52 + 64 * i

/-- Whether two class 0 records are of the same unit, code and address, within 1 ms, and the first may still count (R399).
DEDUCED: notes/assumptions/112.md. -/
def logMerges (a b : LogRec) : Bool :=
  a.unitKind == b.unitKind && a.unit == b.unit && a.code == b.code && a.addr == b.addr && decide (b.time ≤ a.time + 1000000) &&
    decide (a.count < 65535)

/-- Raise MSI-X vector 0 for a record of class 1 or higher, at most once every 10 µs (R398).
DEDUCED: notes/assumptions/113.md. -/
def logMsi (s : State) (cls : Nat) : State :=
  let due : Bool := match s.log.lastMsi with
    | none => true
    | some t => decide (t + 10000 ≤ timeOf s)
  if 1 ≤ cls ∧ due then { s with msix := s.msix ++ [0], log := { s.log with lastMsi := some (timeOf s) } } else s

/-- Write the 64 bytes of a record at a slot of the ring: a write of a whole unit, which stores new check bits (R461). In LPDDR6 it is
served by the pound where the sector is resident, and allocates nothing (R110); a hole takes nothing.
DESIGN CHOICE: notes/assumptions/121.md. -/
def logWrite (s : State) (a : Nat) (bs : List Byte) : State :=
  if !physOk s.poundSize a 64 then s
  else
    let plain := setBad (wrBytes s a bs) a .sound
    match if 0 < s.poundSize then regionOf s.poundSize a else .host with
    | .lpddr _ =>
      let (k, i, t) := poundPlace s.poundSize a
      let r := mapGet 0 s.tags (2 ^ 24 * k + i)
      if !tagOk r ∨ badAt s (tagUnit (2 ^ 24 * k + i)) = .lasting then s
      else if tagState r ≠ 0 ∧ r % 256 = t then
        setBad { wrBytes s a bs with tags := mapSet 0 (2 ^ 24 * k + i) (tagRecord 3 t) s.tags }
          (poundData s.poundSize k i + a % 2048) .sound
      else plain
    | _ => plain

/-- Put a record with its sequence number into the ring or, until the ring is enabled, into the internal buffer (R397, R399). A record
that the new one displaces in the ring is merged with no more. -/
def logPut (s : State) (r : LogRec) : State :=
  let l := s.log
  if l.en then
    if (l.head + 1) % logSlots l = l.tail then { s with log := { l with lost := l.lost + 1, ovf := true } }
    else
      let s1 := logWrite s (logSlot l l.head) (logBytes r)
      let open_ := l.recent.filter (fun p => p.2 != l.head)
      logMsi { s1 with log := { l with head := (l.head + 1) % logSlots l,
                                       recent := if r.cls = 0 then (r, l.head) :: open_ else open_ } } r.cls
  else if l.buffer.length < 256 then { s with log := { l with buffer := l.buffer ++ [r] } }
  else { s with log := { l with lost := l.lost + 1, ovf := true } }

/-- Whether a record reports a failed check of stored data, whose syndrome it holds (Table 23-4): a data fault but for the check of a tag
record or a timeout, or a correction. -/
def hasSyndrome (r : LogRec) : Bool :=
  (bitOf r.flags 1 && r.code != 0x090A) || r.code == 0x0903 || r.code == 0x0905 || r.code == 0x0908 || r.code == 0x0601

/-- Put a record with the next sequence number (R398). The syndrome's value the manual leaves open.
DESIGN CHOICE: notes/assumptions/122.md. -/
def logNext (s : State) (r : LogRec) : State :=
  let n := s.log.seq + 1
  logPut { s with log := { s.log with seq := n } }
    { r with seq := n, syndrome := if hasSyndrome r then (Config.eccSyndrome n).toNat else 0 }

/-- One more event in a class 0 record (R399). -/
def mergedInto (o : LogRec) : LogRec := { o with count := o.count + 1, flags := o.flags ||| 32 }

/-- The record of the internal buffer, or of the ring with its slot, that a class 0 record joins, if one is open to it. -/
def logOpen (s : State) (r : LogRec) : Option (LogRec × Option Nat) :=
  if r.cls ≠ 0 ∨ s.duty.getLsbD 1 then none
  else if s.log.en then (s.log.recent.find? (fun p => logMerges p.1 r)).map (fun p => (p.1, some p.2))
  else (s.log.buffer.find? (fun o => o.cls == 0 && logMerges o r)).map (fun o => (o, none))

/-- Write a log record; its sequence number is given here, and its time, unless its error was detected earlier. A class 5 record clears
ready (Table 23-5). Class 0 records merge in hardware triage mode (R399). In host-assisted triage a data fault, whose record is flagged
retried, has two raw records: one of the first failure, one of the retry's outcome (R403). -/
def logRecord (s : State) (r : LogRec) : State :=
  let r := { r with time := r.since.getD (timeOf s), since := none }
  let s : State := if r.cls = 5 then { s with ready := false } else s
  if s.duty.getLsbD 1 ∧ bitOf r.flags 1 then
    logNext (logNext s { r with cls := 15, flags := r.flags % 2 + 16 }) { r with cls := 15, flags := r.flags ||| 16 }
  else
    match logOpen s r with
    | some (o, some slot) =>
      let s1 := logWrite s (logSlot s.log slot) (logBytes (mergedInto o))
      { s1 with log := { s.log with recent := s.log.recent.map (fun p => if p.2 = slot then (mergedInto o, slot) else p) } }
    | some (o, none) =>
      { s with log := { s.log with buffer := s.log.buffer.map (fun p => if p = o then mergedInto o else p) } }
    | none => logNext s r

/-- A record of code and class that names no group. -/
def logModule (s : State) (code cls : Nat) (kind unit detail addr : Nat) : State :=
  logRecord s { seq := 0, time := 0, addr, code, cls, flags := if addr = 0 then 0 else 1, unitKind := kind, unit, detail }

/-- A class 2 record names a grid (R401); one of quay cores marks the grid that launched it (R479). -/
def failGrid (s : State) (i : Nat) : State :=
  let s1 := modGrid s i (fun x => { x with failed := true })
  match (grid s i).parent with
  | some p => modGrid s1 p (fun x => { x with failed := true })
  | none => s1

/-- A record that names group `g` (Table 23-4), from the unit that detected the error. A class 2 record marks its grid (R401).
DEDUCED: notes/assumptions/66.md. -/
def logGroupBy (s : State) (g code cls : Nat) (d : Deferred) : State :=
  let t := teamOf s g
  let i := gridOf s g
  let unit := d.unit.getD (1, t.core)
  let detail := d.detail
  let s1 := logRecord s
    { seq := 0, time := 0, addr := d.addr.getD 0, code, cls, flags := d.flags ||| (if d.addr.isSome then 1 else 0),
      unitKind := unit.1, unit := unit.2,
      context := i.ctx, queue := i.queue.getD 0xFFFF, command := i.command.getD 0xFFFFFFFF, core := t.core,
      team := t.teamid, group := (grp s g).gid, detail, since := d.since }
  if cls = 2 then failGrid s1 t.grid else s1

/-- A record of the group's core that names group `g`. -/
def logGroup (s : State) (g code cls detail : Nat) (addr : Option Nat) : State :=
  logGroupBy s g code cls { cause := 0, detail, addr }

/-- A record that names team `t` and no group. -/
def logTeam (s : State) (t code cls detail : Nat) (addr : Option Nat) : State :=
  let x := team s t
  let i := grid s x.grid
  let s1 := logRecord s
    { seq := 0, time := 0, addr := addr.getD 0, code, cls, flags := if addr.isSome then 1 else 0, unitKind := 1, unit := x.core,
      context := i.ctx, queue := i.queue.getD 0xFFFF, command := i.command.getD 0xFFFFFFFF, core := x.core,
      team := x.teamid, detail }
  if cls = 2 then failGrid s1 x.grid else s1

/-! ## Stored-data errors (R394, R395, R457 to R463) -/

/-- Code of a corrected or transient error, and of a lasting one, with the unit's kind, number and detail (Table 26-3). -/
def badCodes (a : Nat) : Nat × Nat × Nat × Nat × Nat :=
  if 2 ^ 61 ≤ a then (0x0908, 0x090A, 4, (a - 2 ^ 61) / 4 / 2 ^ 24, (a - 2 ^ 61) / 4 % 2 ^ 24)
  else if 2 ^ 53 ≤ a ∧ a < 2 ^ 56 then (0x0903, 0x0904, 1, (a - 2 ^ 53) / 2 ^ 19, a / 4 % 32)
  else if 2 ^ 52 ≤ a then
    let o := (a - 2 ^ 52) % 2 ^ 27
    (0x0905, 0x0906, 2, 64 * (a % 2 ^ 52 / 2 ^ 27) + o / 128 % 64, o / 2 ^ 13 % 8 + o / 2 ^ 16 * 2 ^ 16)
  else match regionOf 0 a with
    | .lpddr c => (0x0908, 0x0909, 5, c, c)
    | .stack k => (0x0908, 0x0909, 3, k, a / 512 % 64)
    | _ => (0x0908, 0x0909, 9, 0, 0)

/-- The address of a location as a log record and `%faultaddr` name it for a data error: physical, selector 0x8 (Tables 23-4, 24-1). The
physical map gives a word of scratchpad none, so that it is open.
DESIGN CHOICE: notes/assumptions/144.md. -/
def badAddr (a : Nat) : Nat := 2 ^ 63 + (if isScratch a then (Config.wordAddress a).toNat else a)

/-- A location lies in die scratchpad. -/
def inDieScratch (a : Nat) : Bool := decide (2 ^ 52 ≤ a) && decide (a < 2 ^ 53)
/-- The words of a die-scratchpad word's column in the eight data banks (R101). -/
def columnOf (a : Nat) : List Nat :=
  let o := (a - 2 ^ 52) % 2 ^ 27
  (List.range 8).map (fun b => a - o / 2 ^ 13 % 8 * 2 ^ 13 + b * 2 ^ 13)
/-- The parity word of a die-scratchpad word, which is numbered beyond the dies (R101). -/
def parityOf (a : Nat) : Nat := 2 ^ 56 + (a - (a - 2 ^ 52) % 2 ^ 27 / 2 ^ 13 % 8 * 2 ^ 13)
/-- The other words a die-scratchpad word is rebuilt from: the same row of the other seven data banks and of the parity bank (R101,
R459). -/
def rebuildSources (a : Nat) : List Nat := (columnOf a).filter (· != a) ++ [parityOf a]

/-- Data that is still uncorrectable after its retry: the record its answer or its log entry carries (R394, R448). -/
structure BadData where
  code : Nat
  kind : Nat
  unit : Nat
  detail : Nat
  /-- physical address, selector 0x8 -/
  addr : Nat
deriving DecidableEq, Repr

/-- The class 0 record of an error of one unit that its check bits, a retry or a rebuild corrected (R395, Table 26-3). -/
def logCorrected (s : State) (a flags : Nat) : State :=
  let (c0, _, kind, unit, detail) := badCodes a
  logRecord s { seq := 0, time := 0, addr := badAddr a, code := c0, cls := 0, flags, unitKind := kind, unit, detail }

/-- The answer for a unit that stays uncorrectable. -/
def lostUnit (a : Nat) : BadData :=
  let (_, c1, kind, unit, detail) := badCodes a
  { code := c1, kind, unit, detail, addr := badAddr a }

/-- Read one unit's check bits alone: a correctable or transient error is corrected and logged; a lasting one is answered (R394,
R395). -/
def checkAlone (s : State) (a : Nat) : State × Option BadData :=
  match badAt s a with
  | .sound => (s, none)
  | .correctable => (logCorrected (setBad s a .sound) a 1, none)
  | .transient => (logCorrected (setBad s a .sound) a 7, none)
  | .lasting => (s, some (lostUnit a))

/-- Read the words a rebuild uses, up to the first that cannot be had. -/
def checkSources (s : State) : List Nat → State × Bool
  | [] => (s, true)
  | u :: t => match checkAlone s u with
    | (s1, none) => checkSources s1 t
    | (s1, some _) => (s1, false)

/-- Read one unit, its rebuild in die scratchpad included: the rebuild reads its eight source words, which may be corrected in their
turn, and fails where one of those is uncorrectable too (R457, R459). -/
def checkUnit (s : State) (a : Nat) : State × Option BadData :=
  match checkAlone s a with
  | (s1, some b) =>
    if inDieScratch a then
      match checkSources s1 (rebuildSources a) with
      | (s2, true) => (logCorrected (setBad s2 a .sound) a 7, none)
      | (s2, false) => (s2, some b)
    else (s1, some b)
  | r => r

/-- Check every unit under `n` bytes; the first uncorrectable one is named. -/
def checkUnits (s : State) : List Nat → State × Option BadData
  | [] => (s, none)
  | u :: t =>
    match checkUnit s u with
    | (s1, some b) => (s1, some b)
    | (s1, none) => checkUnits s1 t

/-- Read the check bits under `n` bytes from `a`. -/
def checkRead (s : State) (a n : Nat) : State × Option BadData :=
  if s.bad.isEmpty ∨ n = 0 then (s, none) else checkUnits s (unitsUnder a n)

/-- The parity update of a write to a die-scratchpad word (R104): a parity word that cannot be read has its row recomputed from the eight
data rows, unless one of those is uncorrectable too: then the row is left as found, which is logged (R460). -/
def parityUpdate (s : State) (a : Nat) : State :=
  let p := parityOf a
  match badAt s p with
  | .sound => s
  | .lasting =>
    let line := a / 128 * 128
    match checkUnits s ((List.range 32).flatMap (fun i => columnOf (line + 4 * i))) with
    | (s1, some _) =>
      let (_, _, kind, unit, detail) := badCodes a
      logRecord s1 { seq := 0, time := 0, addr := badAddr a, code := 0x0907, cls := 3, flags := 3, unitKind := kind, unit, detail }
    | (s1, none) => (List.range 32).foldl (fun s i => setBad s (parityOf (line + 4 * i)) .sound) s1
  | _ => (checkUnit s p).1

/-- The words of a range, of die scratchpad, whose parity a write updates. -/
def parityUnder (a n : Nat) : List Nat := if inDieScratch a then unitsUnder a n else []

/-- A write of `n` bytes from `a` stores new check bits in every unit it replaces whole; a partial write reads the unit first, and
is not performed where the unit is uncorrectable (R458, R461). A write in die scratchpad updates parity (R460). -/
def checkWrite (s : State) (a n : Nat) : State × Option BadData :=
  if s.bad.isEmpty ∨ n = 0 then (s, none)
  else
    let whole := (unitsUnder a n).filter (fun u => decide (a ≤ u) && decide (u + unitBytes a ≤ a + n))
    let part := (unitsUnder a n).filter (fun u => !(decide (a ≤ u) && decide (u + unitBytes a ≤ a + n)))
    match checkUnits s part with
    | (s1, some b) => (s1, some b)
    | (s1, none) => ((parityUnder a n).foldl parityUpdate (whole.foldl (fun s u => setBad s u .sound) s1), none)

/-! ## The pound (R107 to R110, R462, R463) -/

/-- The steps the pound controller takes for one access to the sector of LPDDR6 address `a` (R110). Bytes are held under their LPDDR6
address whether or not the sector is resident, so a step changes tag records and stored-data errors only. `cacheable` is the page's
pound bit (Table 5-8): an access without it is served on a hit and allocates nothing. A write-back replaces the victim's LPDDR6 units.
DEDUCED: notes/assumptions/103.md. -/
def poundStep (s : State) (a n : Nat) (write cacheable : Bool) : State × Option BadData :=
  let (k, i, t) := poundPlace s.poundSize a
  let key := 2 ^ 24 * k + i
  let (s, tagBad) := checkUnit s (tagUnit key)
  let r := mapGet 0 s.tags key
  let data := poundData s.poundSize k i
  let put (s : State) (v : Nat) : State := { s with tags := mapSet 0 key v s.tags }
  let lost (code at_ : Nat) : Option BadData := some { code, kind := 4, unit := k, detail := i, addr := badAddr at_ }
  if !tagOk r ∨ tagBad.isSome then (s, lost 0x090A a)
  else if tagState r ≠ 0 ∧ r % 256 = t then
    match (if write then checkWrite s (data + a % 2048) n else checkRead s (data + a % 2048) n) with
    | (s1, some b) => (s1, some { b with addr := badAddr a })
    | (s1, none) => (if write then put s1 (tagRecord 3 t) else s1, none)
  else if !cacheable then (if write then checkWrite s a n else checkRead s a n)
  else
    let victim := poundSector s.poundSize k i (r % 256)
    match if tagState r = 3 then checkUnits s (unitsUnder data 2048) else (s, none) with
    | (s1, some b) => (s1, lost 0x090C (victim + (b.addr - badAddr data)))
    | (s1, none) =>
      let s2 := if tagState r = 3 then
        put ((unitsUnder victim 2048).foldl (fun s u => setBad s u .sound) s1) (tagRecord 1 (r % 256)) else s1
      let sector := a / 2048 * 2048
      let kept := (unitsUnder sector 2048).filter (fun u => !(write && decide (a ≤ u) && decide (u + 64 ≤ a + n)))
      match checkUnits s2 kept with
      | (s3, some b) => (s3, lost 0x090C (b.addr - 2 ^ 63))
      | (s3, none) => (put ((unitsUnder data 2048).foldl (fun s u => setBad s u .sound) s3) (tagRecord (if write then 3 else 1) t), none)

/-- The check of an access to `n` bytes at a location, through the pound where there is one. -/
def storeCheck (s : State) (a n : Nat) (write cacheable : Bool) : State × Option BadData :=
  match if 0 < s.poundSize then regionOf s.poundSize a else .hole with
  | .lpddr _ => if a < 2 ^ 52 then poundStep s a n write cacheable else (if write then checkWrite s a n else checkRead s a n)
  | _ => if write then checkWrite s a n else checkRead s a n

/-! ## Address translation (R111 to R114) and address forms (R89) -/

/-- Why an address is not accepted. -/
inductive AccErr where
  /-- address form or selector, or a byte outside its space: status 0x02 -/
  | form
  /-- a hole or a pound carve-out: status 0x02 -/
  | hole
  /-- translation or permission, with reason and level of Table 26-2: status 0x03 -/
  | xlat (reason level : Nat)
  /-- uncorrectable data: status 0x04 -/
  | data (b : BadData)
deriving DecidableEq, Repr

/-- Status code of Table 13-2. -/
def AccErr.status : AccErr → Nat
  | .form => 2
  | .hole => 2
  | .xlat _ _ => 3
  | .data _ => 4

/-- What an access needs of a page (R113). -/
structure Need where
  read : Bool := false
  write : Bool := false
  atom : Bool := false
  exec : Bool := false
deriving DecidableEq, Repr

/-- The permission check at the leaf: the first missing bit in the order read, write, atom, priv (R113, Table 26-2). -/
def pteDenied (pte : Nat) (need : Need) (privileged : Bool) : Option Nat :=
  if need.read ∧ !bitOf pte 2 then some 5
  else if need.write ∧ !bitOf pte 3 then some 6
  else if need.atom ∧ !bitOf pte 5 then some 7
  else if bitOf pte 7 ∧ !privileged then some 8
  else if need.exec ∧ !bitOf pte 4 then some 0xA
  else none

/-- Low bit of a level's index, and the size of the node a table entry of it names (Table 5-7). -/
def levelShift (level : Nat) : Nat := if level = 0 then 15 else 21 + 9 * (level - 1)
/-- Alignment of the node below a level: level 0's nodes are 512 bytes, the others 4 KiB. -/
def nodeSize (level : Nat) : Nat := if level = 1 then 512 else 4096

/-- What a valid entry of a level says to the walk (R112, R113, Table 26-2): an error, the leaf's physical address for `va`, or the node
below.
DESIGN CHOICE: notes/assumptions/123.md. -/
def entryMeans (va : Nat) (need : Need) (privileged : Bool) (level pte : Nat) : Except (Nat × Nat) (Nat × Bool) :=
  let addr := bitField pte 9 43 * 512
  if !bitOf pte 0 then .error (1, level)
  else if bitOf pte 8 ∨ bitField pte 52 12 ≠ 0 then .error (4, level)
  else if level = 0 ∨ bitOf pte 1 then
    if 3 ≤ level then .error (2, level)
    else if addr % 2 ^ levelShift level ≠ 0 then .error (3, level)
    else match pteDenied pte need privileged with
      | some r => .error (r, level)
      | none => .ok (addr + va % 2 ^ levelShift level, true)
  else if addr % nodeSize level ≠ 0 then .error (3, level)
  else .ok (addr, false)

/-- Read a page-table entry, through the pound where there is one (R110); one that cannot be read is logged with its level (Table 26-3), a
node in a hole as R105 gives.
DESIGN CHOICE: notes/assumptions/123.md. -/
def readPte (s : State) (level at_ : Nat) : State × Except AccErr Nat :=
  if !physOk s.poundSize at_ 8 then (s, .error .hole)
  else match storeCheck s at_ 8 false true with
    | (s1, some b) => (s1, .error (.data (if b.kind = 4 then b else { b with code := 0x0911, detail := level, addr := badAddr at_ })))
    | (s1, none) => (s1, .ok (rd s1 at_ 8))

/-- Walk the page tables from the node of `level` (R112, R113); the physical address of the byte, with the leaf entry. -/
def walk (va : Nat) (need : Need) (privileged : Bool) : Nat → Nat → State → State × Except AccErr (Nat × Nat)
  | level, node, s =>
    let idx := if level = 0 then bitField va 15 6 else bitField va (levelShift level) 9
    match readPte s level (node + 8 * idx) with
    | (s1, .error e) => (s1, .error e)
    | (s1, .ok pte) => match entryMeans va need privileged level pte with
      | .error (r, l) => (s1, .error (.xlat r l))
      | .ok (a, true) => (s1, .ok (a, pte))
      | .ok (a, false) => match level with
        | 0 => (s1, .error (.xlat 1 0))
        | l + 1 => walk va need privileged l a s1

/-- Translate a 57-bit virtual address in an address context (R112): physical address and leaf entry. -/
def translating (s : State) (ctx va : Nat) (need : Need) (privileged : Bool) : State × Except AccErr (Nat × Nat) :=
  let root := mapGet 0 s.latched.roots ctx
  if !bitOf root 0 then (s, .error (.xlat 9 7))
  else walk va need privileged 4 (bitField root 12 40 * 4096) s
/-- What a translation gives. -/
def translate (s : State) (ctx va : Nat) (need : Need) (privileged : Bool) : Except AccErr (Nat × Nat) :=
  (translating s ctx va need privileged).2

/-- Whose address a device address is: context, privilege, the team of selector 0x5 and the selectors accepted. -/
structure Space where
  ctx : Nat
  privileged : Bool
  team : Nat
  /-- it may use pages whose priv bit is set, as every privileged one may (Table 5-8) -/
  privPages : Bool := false
  sel0 : Bool := true
  sel4 : Bool := true
  sel5 : Bool := true
  sel8 : Bool := true
deriving DecidableEq, Repr

/-- The location of `n` bytes at a device address whose selector needs no translation (R89), and whether the pound may hold them.
DESIGN CHOICE: notes/assumptions/124.md. -/
def locateFlat (s : State) (sp : Space) (addr n : Nat) : Except AccErr (Nat × Bool) :=
  let t := team s sp.team
  let i := grid s t.grid
  let sel := bitField addr 60 4
  if sel = 4 ∧ sp.sel4 then
    let off := bitField addr 0 27
    if bitField addr 29 31 ≠ 0 then .error .form
    else if i.segSize < off + n then .error .form
    else .ok (locDie (bitField addr 27 2) (i.segs.getD (bitField addr 27 2) 0 + off), false)
  else if sel = 5 ∧ sp.sel5 then
    let off := bitField addr 0 19
    if bitField addr 19 41 ≠ 0 then .error .form
    else if t.allocSize < off + n then .error .form
    else .ok (locTeam t.core (t.allocBase + off), false)
  else if sel = 8 ∧ sp.sel8 ∧ sp.privileged then
    if bitField addr 52 8 ≠ 0 then .error .form
    else if physOk s.poundSize (bitField addr 0 52) n then .ok (bitField addr 0 52, true) else .error .hole
  else .error .form

/-- Find `n` bytes at a device address (R89): the state after the page tables have been read, and the location, with whether the pound may
hold them. Every byte must lie in the space. -/
def locating (s : State) (sp : Space) (addr n : Nat) (need : Need) : State × Except AccErr (Nat × Bool) :=
  if bitField addr 60 4 = 0 ∧ sp.sel0 then
    if bitField addr 57 3 ≠ 0 then (s, .error .form)
    else match translating s sp.ctx (bitField addr 0 57) need (sp.privileged || sp.privPages) with
      | (s1, .error e) => (s1, .error e)
      | (s1, .ok (p, pte)) => (s1, if physOk s.poundSize p n then .ok (p, bitOf pte 6) else .error .hole)
  else (s, locateFlat s sp addr n)
/-- The location that a device address names. -/
def locate (s : State) (sp : Space) (addr n : Nat) (need : Need) : Except AccErr (Nat × Bool) := (locating s sp addr n need).2

/-- Read `n` bytes at a location: the number, or the uncorrectable location. -/
def load (s : State) (a n : Nat) (cacheable : Bool) : State × Except AccErr Nat :=
  match storeCheck s a n false cacheable with
  | (s1, some b) => (s1, .error (.data b))
  | (s1, none) => (s1, .ok (rd s1 a n))

/-- Write the low `n` bytes of `v` at a location. -/
def store (s : State) (a n v : Nat) (cacheable : Bool) : State × Except AccErr Unit :=
  match storeCheck s a n true cacheable with
  | (s1, some b) => (s1, .error (.data b))
  | (s1, none) => (wr s1 a n v, .ok ())

/-- Log a refused address (Table 26-1, R451, R452). -/
def logAccErr (s : State) (g : Option Nat) (named : Nat) (e : AccErr) : State :=
  let put (code detail addr : Nat) : State := match g with
    | some g => logGroup s g code 1 detail (some addr)
    | none => logModule s code 1 0 0 detail addr
  match e with
  | .form => put 0x0901 0 named
  | .hole => put 0x0902 0 named
  | .xlat r l => put 0x0910 (r * 256 + l) named
  | .data b => match g with
    | some g => logGroupBy s g b.code 1 { cause := 0, detail := b.detail, addr := some b.addr, unit := some (b.kind, b.unit), flags := 2 }
    | none => logRecord s
      { seq := 0, time := 0, addr := b.addr, code := b.code, cls := 1, flags := 3, unitKind := b.kind, unit := b.unit, detail := b.detail }

/-- The quay die that holds an arena check for group g: the stack of a quay core (R115, R317). -/
def quayStackOf (core : Nat) : Nat := (core - numCores) / 8
/-- The stack under which a core's cluster lies (R17). -/
def stackOverCore (c : Nat) : Nat := 6 * (c / 288) + c / 4 % 72 / 12

/-- Whether `n` physical bytes lie in an arena of the context on stack `k` with the permissions the access needs (R115). -/
def arenaOk (s : State) (k ctx a n : Nat) (read write : Bool) : Bool :=
  (List.range 32).any (fun e =>
    let x := mapGet {} s.latched.arenas (32 * k + e)
    x.length != 0 && x.ctx == ctx && decide (x.base ≤ a) && decide (a + n ≤ x.base + x.length) && (!read || x.read) &&
      (!write || x.write))

end Sys2Proof.Machine
end

