-- ==== Sys2Proof/Machine/InFlight.lean ====
section
/-!
DEFINITION. Operations in flight and the order among them (chapter 06), the groups of a partition, and the outcome of a meaning.
-/
namespace Sys2Proof.Machine

/-- The outcome of every meaning. -/
abbrev Res := Host.Outcome State Fault Refusal

/-- Two groups stand on one partition of one core. -/
def samePartition (s : State) (g h : Nat) : Bool := coreOf s g == coreOf s h && partitionOf s g == partitionOf s h

/-- The groups of a core and partition, in number order. -/
def partitionGroups (s : State) (core part : Nat) : List Nat :=
  (List.range s.groups.length).filter (fun g => coreOf s g == core && partitionOf s g == part && !(grp s g).ended)

/-! ## Operations in flight (R51, R55, R119 to R126) -/

/-- An operation that does not exist has finished. -/
def opDefault : Op := { g := 0, kind := .cas, finished := true }
/-- Operation number `o`. -/
def op (s : State) (o : Nat) : Op := s.ops.getD o opDefault

/-- Add an operation; its number. If it counts on a path, the counter rises by one (R55). -/
def addOp (s : State) (o : Op) : State :=
  let s1 := { s with ops := s.ops ++ [o] }
  match o.path with
  | none => s1
  | some p => modGrp s1 o.g (fun x => { x with counters := setCounter p (counter x.counters p + 1) x.counters })

/-- The path counter falls while the oldest operation that still counts on it has completed (R55). The list holds the numbers of the
operations to examine, oldest first. -/
def fallPath (g p : Nat) : List Nat → State → State
  | [], s => s
  | o :: t, s =>
    let x := op s o
    if x.g = g ∧ x.path = some p ∧ x.counted then
      if x.finished then
        fallPath g p t (modGrp (modOp s o (fun x => { x with counted := false })) g
          (fun x => { x with counters := setCounter p (counter x.counters p - 1) x.counters }))
      else s
    else fallPath g p t s

/-- An operation is whole: its interlock is released and its counter falls in order. -/
def finishOp (s : State) (o : Nat) : State :=
  let x := op s o
  let s1 := modOp s o (fun x => { x with finished := true })
  match x.path with
  | none => s1
  | some p => fallPath x.g p (List.range s1.ops.length) s1

/-- The operation that interlocks an instruction: one whose destination it reads or writes (R51). -/
def blockingOp (s : State) (g : Nat) (sg : Sig) : Option Nat :=
  (List.range s.ops.length).find? (fun o =>
    let x := op s o
    x.g == g && !x.finished &&
      ((sigVecs sg).any (fun n => x.dv.contains n) || (sigUniReads sg ++ sigUniWrites sg).any (fun n => x.du.contains n)))

/-- Whether a location lies in the reach of a scope for group `g` (Table 6-2). A spill stack is ordered as team scratchpad (R93); an
address of a window that is not open counts as a peer window. -/
def inReach (s : State) (g scope a : Nat) : Bool :=
  let t := teamOf s g
  let die := dieOfCore t.core
  let inTeam := (decide (locTeam t.core t.allocBase ≤ a) && decide (a < locTeam t.core (t.allocBase + t.allocSize))) ||
    decide (2 ^ 62 ≤ a)
  let inCluster := (decide (2 ^ 53 ≤ a) && (a - 2 ^ 53) / 2 ^ 19 / 4 == t.core / 4) ||
    (decide (2 ^ 58 ≤ a) && decide (a < 2 ^ 58 + 2 ^ 15))
  let inDie := decide (locDie die 0 ≤ a) && decide (a < locDie (die + 1) 0)
  match scope with
  | 0 => false
  | 1 => inTeam
  | 2 => inTeam || inCluster
  | 3 => inTeam || inCluster || inDie
  | 4 => decide (a < 2 ^ 51) || decide (2 ^ 52 ≤ a)
  | _ => true

/-- Order code of an acquiring atomic: `.acq`, `.ar`, `.sc`. -/
def acquires (o : Op) : Bool := o.order == 1 || o.order == 3 || o.order == 4
/-- Order code of a releasing atomic: `.rel`, `.ar`, `.sc`. -/
def releases (o : Op) : Bool := o.order == 2 || o.order == 3 || o.order == 4

/-- Where a lane stands whose translation is held: no location any access reaches (R404). -/
def heldLoc (named : Nat) : Nat := 2 ^ 60 + named % 2 ^ 59
/-- A lane whose translation is held. -/
def heldLane (r : LaneReq) : Bool := decide (2 ^ 60 ≤ r.addr) && decide (r.addr < 2 ^ 61)

/-- Both accesses lie in the reach of a scope (R125). -/
def bothInReach (s : State) (g scope a b : Nat) : Bool := inReach s g scope a && inReach s g scope b

/-- R126 items 1, 4 and 6: whether the later access `y` of operation `oy` is performed after the earlier `x` of `ox`. A lane whose
translation is held may name any byte of memory. -/
def ordered (s : State) (ox oy : Op) (x y : LaneReq) : Bool :=
  (decide (x.addr < y.addr + oy.size) && decide (y.addr < x.addr + ox.size)) || (heldLane x && decide (y.addr < 2 ^ 53)) ||
    (acquires ox && bothInReach s ox.g ox.scope x.addr y.addr) || (releases oy && bothInReach s oy.g oy.scope x.addr y.addr) ||
    (ox.stamp.isSome && oy.stamp.isSome)

/-- The accesses of an operation that are still to be performed. -/
def waitingLanes (o : Op) : List LaneReq := if o.finished then [] else o.lanes.filter (fun r => !laneIn o.performed r.lane)

/-- Whether every access of the group, among the operations before number `n`, that must precede the access `y` of an operation has been
performed (R126, R504). -/
def clearBefore (s : State) (n : Nat) (oy : Op) (y : LaneReq) : Bool :=
  (List.range n).all (fun i =>
    let x := op s i
    x.g != oy.g || x.finished || (waitingLanes x).all (fun r => !ordered s x oy r y))
/-- Whether no earlier access of the group that must precede a lane of operation `o` is still to be performed. -/
def mayPerform (s : State) (o : Nat) (y : LaneReq) : Bool := clearBefore s o (op s o) y

/-- An operation reads memory; an atomic reads and writes (R127). -/
def isReading (x : Op) : Bool := match x.kind with
  | .store _ => false
  | .peerStore => false
  | .landing _ => false
  | .descriptor _ => false
  | .close _ => false
  | _ => true
/-- An operation writes memory; a `binit`, a `bxp` and the issue of an engine command count as writes (R127, R257). -/
def isWriting (x : Op) : Bool := match x.kind with
  | .load _ => false
  | .peerLoad => false
  | .watch _ _ => false
  | .close _ => false
  | _ => true
/-- An operation is a store. -/
def isStoring (x : Op) : Bool := match x.kind with
  | .store _ => true
  | .peerStore => true
  | _ => false

/-- Every earlier access of group `g` in the reach of a scope, among the operations before number `n`, has been performed; `reads` and
`writes` say which accesses count (Table 6-3). -/
def earlierDone (s : State) (g n scope : Nat) (reads writes : Bool) : Bool :=
  (List.range n).all (fun i =>
    let x := op s i
    x.g != g || x.finished || !((reads && isReading x) || (writes && isWriting x)) ||
      (waitingLanes x).all (fun r => !inReach s g scope r.addr))

/-- Every operation of group `g` before number `n` has written its register results (R285). -/
def resultsIn (s : State) (g n : Nat) : Bool :=
  (List.range n).all (fun i => (op s i).g != g || (op s i).finished || ((op s i).dv.isEmpty && (op s i).du.isEmpty))

/-- Every store of group `g` before number `n` to `len` bytes from a location has been performed. -/
def storesQuiet (s : State) (g n a len : Nat) : Bool :=
  (List.range n).all (fun i =>
    let x := op s i
    x.g != g || x.finished || !isStoring x || (waitingLanes x).all (fun r => decide (a + len ≤ r.addr) || decide (r.addr + x.size ≤ a)))

/-- Mark a lane performed, with the value it obtained, if any. -/
def lanePerformed (s : State) (o lane : Nat) (v : Option Nat) : State :=
  modOp s o (fun x => { x with performed := x.performed ||| laneBit lane,
                               got := match v with
                                 | some v => x.got ++ [(lane, v)]
                                 | none => x.got })

end Sys2Proof.Machine
end

