-- ==== Sys2Proof/Machine/Backing.lean ====
section
/-!
DEFINITION. Register virtualisation: physical registers, the search for a victim, slots of the register backing region, fills
(R34, R49, R50, R62, R415, R416).

The value of a backed register is held by the register backing cache until the group is saved: a word that software writes into the
region while the group is resident has no effect on it (R418).
-/
namespace Sys2Proof.Machine

/-- Physical registers one architectural register takes (R34, R49). -/
def physPer (w : Nat) : Nat := if w = 64 then 2 else 1
/-- A resident group's reservation of physical registers (R34). -/
def reservation (w : Nat) : Nat := if w = 64 then 28 else 16
/-- Physical registers of a partition (R34). -/
def partitionRegs : Nat := 1024

/-- The set holding the registers of a list. -/
def regSet (l : List Nat) : BitVec 256 := l.foldl (fun m n => m ||| BitVec.ofNat 256 (2 ^ n)) 0
/-- Whether an executing `mma` pins vn of group `g` (R51). -/
def pinned (s : State) (g n : Nat) : Bool := s.pins.any (fun p => p.g == g && p.reg == n)

/-- The registers whose value is on its way, from an outstanding operation or a fill: they hold a place (R50, R51). -/
def awaited (s : State) (g : Nat) : BitVec 256 :=
  s.ops.foldl (fun m o => if o.g = g ∧ !o.finished then m ||| regSet o.dv else m) (regSet (grp s g).filling.toList)

/-- Physical registers group `g` occupies with the registers of `extra` beside those it holds, its reservation at least (R34). -/
def physHeld (s : State) (g : Nat) (extra : BitVec 256) : Nat :=
  let w := widthOf s g
  max (reservation w) (physPer w * popCount ((grp s g).mapped ||| awaited s g ||| extra).toNat 256)

/-- A group that is resident on its core and has not ended. -/
def residentGroup (s : State) (g : Nat) : Bool :=
  !(grp s g).ended && (teamOf s g).phase != .parked && (teamOf s g).phase != .retired

/-- The partition of group `g` has room for the registers of `extra` as well. -/
def physRoom (s : State) (g : Nat) (extra : BitVec 256) : Bool :=
  let others := (partitionGroups s (coreOf s g) (partitionOf s g)).filter (fun h => h != g && residentGroup s h)
  decide (others.foldl (fun n h => n + physHeld s h 0) (physHeld s g extra) ≤ partitionRegs)

/-! ## Slots (R62) -/

/-- Address of the slot of vn (R62). -/
def slotAddr (s : State) (g n : Nat) : Nat := (grp s g).backing + 0x800 + n * (4 * widthOf s g)

/-- Whose addresses the device uses when it reaches a group's backing region: virtual ones of the grid's context (R62), and physical ones
for a group that quay cores started, whose region is in the spill area (R318). -/
def backSpace (s : State) (g : Nat) : Space :=
  let i := gridOf s g
  if i.parent.isSome then { ctx := i.ctx, privileged := true, team := (grp s g).team, sel0 := false, sel4 := false, sel5 := false } else
  { ctx := i.ctx, privileged := i.privileged, team := (grp s g).team, sel4 := false, sel5 := false, sel8 := false }

/-- The bytes of vn: lane l's word at byte 4·l (R62). -/
def slotBytes (s : State) (g n : Nat) : List Byte :=
  (List.range (widthOf s g)).flatMap (fun l => toBytesLE 4 (vlane (grp s g) n l).toNat)

/-- Write vn to its slot; nothing when the slot cannot be written: why. -/
def writeSlot (s : State) (g n : Nat) : State × Option AccErr :=
  match locating s (backSpace s g) (slotAddr s g n) (4 * widthOf s g) { write := true } with
  | (s1, .error e) => (s1, some e)
  | (s1, .ok (a, pound)) => match storeCheck s1 a (4 * widthOf s g) true pound with
    | (s2, some b) => (s2, some (.data b))
    | (s2, none) => (wrBytes s2 a (slotBytes s g n), none)

/-- Read vn's slot; why it cannot be read. -/
def readSlot (s : State) (g n : Nat) : State × Option AccErr :=
  match locating s (backSpace s g) (slotAddr s g n) (4 * widthOf s g) { read := true } with
  | (s1, .error e) => (s1, some e)
  | (s1, .ok (a, pound)) => match storeCheck s1 a (4 * widthOf s g) false pound with
    | (s2, some b) => (s2, some (.data b))
    | (s2, none) => (s2, none)

/-- Flags of a record of a refused access: retried, of a data fault (R394, Table 23-4). -/
def errFlags : AccErr → Nat
  | .data _ => 2
  | _ => 0

/-- The detail of cause 0x06 for a failed slot write (Table 24-1). -/
def slotDetail (n : Nat) : Nat := 0x0100 + n

/-- A failed slot write (R416): the value stays mapped, the group answers before its next instruction, and a record is written. Of several
that fail before that instruction the first is the one answered.
DESIGN CHOICE: notes/assumptions/126.md. -/
def slotWriteFailed (s : State) (g n : Nat) (e : AccErr) : State :=
  let a := slotAddr s g n
  modGrp (logGroupBy s g 0x01F1 1 { cause := 0, detail := n, addr := some a, flags := errFlags e }) g
    (fun x => { x with slotFault := some (x.slotFault.getD (slotDetail n, a)) })

/-! ## The search of R50 -/

/-- Whether taking vn from group `h` leaves the group its reservation and takes nothing pinned, nor a register whose failed slot write is
still to be answered (R50, R416). -/
def takeable (s : State) (h n : Nat) : Bool :=
  let w := widthOf s h
  regIn (grp s h).mapped n && !pinned s h n && !((grp s h).slotFault.any (fun f => f.1 == slotDetail n)) &&
    decide (reservation w + physPer w ≤ physHeld s h 0)

/-- Of a list, the element with the least key; the first of equals. -/
def leastBy (key : Nat → Nat) : List Nat → Option Nat
  | [] => none
  | a :: t => some (t.foldl (fun b c => if key c < key b then c else b) a)

/-- The register of group `h` to take next: the least recently accessed one that may be taken, is not named and is not one of those whose
slot write has failed in this search. -/
def victimIn (s : State) (h : Nat) (named : BitVec 256) (skip : List (Nat × Nat)) : Option Nat :=
  leastBy (fun n => mapGet 0 (grp s h).access n)
    ((List.range 256).filter (fun n => takeable s h n && !regIn named n && !skip.contains (h, n)))

/-- The next victim of a search for group `g`: a group of the pending set first, the longest without issue, then `g` itself.
DESIGN CHOICE: notes/assumptions/105.md. -/
def victim (s : State) (g : Nat) (named : BitVec 256) (skip : List (Nat × Nat)) : Option (Nat × Nat) :=
  let pendings := (partitionGroups s (coreOf s g) (partitionOf s g)).filter
    (fun h => h != g && residentGroup s h && !(grp s h).active && (victimIn s h 0 skip).isSome)
  match leastBy (fun h => (grp s h).lastIssue) pendings with
  | some h => (victimIn s h 0 skip).map (fun n => (h, n))
  | none => (victimIn s g named skip).map (fun n => (g, n))

/-- Take physical registers until group `g` has room for `extra` (R50): victims are written to their slots; a failed write is answered
by R416 and the search goes on with the next candidate. The result says whether there is room.
DESIGN CHOICE: notes/assumptions/119.md. -/
def searchRoom (g : Nat) (named extra : BitVec 256) : Nat → List (Nat × Nat) → State → State × Bool
  | 0, _, s => (s, physRoom s g extra)
  | k + 1, skip, s =>
    if physRoom s g extra then (s, true)
    else match victim s g named skip with
      | none => (s, false)
      | some (h, n) => match writeSlot s h n with
        | (s1, some e) => searchRoom g named extra k ((h, n) :: skip) (slotWriteFailed s1 h n e)
        | (s1, none) =>
          searchRoom g named extra k skip (modGrp s1 h (fun x => { x with mapped := x.mapped &&& ~~~ BitVec.ofNat 256 (2 ^ n) }))
/-- The search of R50 from its first candidate. -/
def makeRoom (g : Nat) (named extra : BitVec 256) (k : Nat) (s : State) : State × Bool := searchRoom g named extra k [] s

end Sys2Proof.Machine
end

