-- ==== Sys2Proof/Decode.lean ====
section
/-!
DEFINITION. Decoding and encoding of group instructions and matrix-stream words
(spec/07_instruction_formats.md Tables 7-2 to 7-7, spec/08_opcode_map.md Tables 8-1 and 8-6).

Decoding is total: an unallocated opcode (R171, R174) and a truncated word are rejected by name. Every field is kept whole, so
decoding drops no bit of a word; whether the fields are legal is asked at issue (R149, R169).
-/
namespace Sys2Proof

/-- Why a run of bytes is not an instruction. -/
inductive DecodeError where
  /-- fewer than the eight bytes of a word -/
  | truncated
  /-- an opcode byte Table 8-1 (or, in a stream, Table 8-6) does not assign (R171, R174) -/
  | unallocated (opcode : Nat)
deriving DecidableEq, Repr

/-- The opcode byte, bits [63:56] of a word (7.2). -/
def opcodeOf (w : DWord) : Nat := (w.extractLsb' 56 8).toNat

/-- The fields of format T (Table 7-4). -/
def decodeT (w : DWord) : FmtT where
  d := w.extractLsb' 48 8
  a := w.extractLsb' 40 8
  b := w.extractLsb' 32 8
  c := w.extractLsb' 24 8
  ka := w.extractLsb' 22 2
  kb := w.extractLsb' 20 2
  kc := w.extractLsb' 18 2
  na := w.getLsbD 17
  nb := w.getLsbD 16
  nc := w.getLsbD 15
  aa := w.getLsbD 14
  ab := w.getLsbD 13
  ac := w.getLsbD 12
  rnd := w.extractLsb' 9 3
  sat := w.getLsbD 8
  op := w.extractLsb' 0 8

/-- The fields of format I (Table 7-5). -/
def decodeI (w : DWord) : FmtI where
  d := w.extractLsb' 48 8
  a := w.extractLsb' 40 8
  ka := w.extractLsb' 38 2
  na := w.getLsbD 37
  aa := w.getLsbD 36
  op := w.extractLsb' 32 4
  imm := w.extractLsb' 0 32

/-- The fields of format M (Table 7-6). -/
def decodeM (w : DWord) : FmtM where
  d := w.extractLsb' 48 8
  a := w.extractLsb' 40 8
  b := w.extractLsb' 32 8
  ka := w.getLsbD 31
  bu := w.getLsbD 30
  size := w.extractLsb' 27 3
  fe := w.extractLsb' 25 2
  stk := w.getLsbD 24
  sx := w.getLsbD 23
  rsvd := w.extractLsb' 20 3
  off := w.extractLsb' 0 20

/-- The fields of format A (Table 7-7). -/
def decodeA (w : DWord) : FmtA where
  d := w.extractLsb' 48 8
  a := w.extractLsb' 40 8
  b := w.extractLsb' 32 8
  c := w.extractLsb' 24 8
  ka := w.getLsbD 23
  scope := w.extractLsb' 20 3
  order := w.extractLsb' 17 3
  ret := w.getLsbD 16
  kb := w.getLsbD 15
  kc := w.getLsbD 14
  op := w.extractLsb' 0 14

/-- The fields of format E (Table 7-7). -/
def decodeE (w : DWord) : FmtE where
  d := w.extractLsb' 48 8
  a := w.extractLsb' 40 8
  b := w.extractLsb' 32 8
  c := w.extractLsb' 24 8
  acq := w.getLsbD 23
  acqScope := w.extractLsb' 20 3
  rel := w.getLsbD 19
  relScope := w.extractLsb' 16 3
  op := w.extractLsb' 0 16

/-- The fields of format Z (R154). -/
def decodeZ (w : DWord) : FmtZ where
  d := w.extractLsb' 48 8
  a := w.extractLsb' 40 8
  b := w.extractLsb' 32 8
  c := w.extractLsb' 24 8
  mods := w.extractLsb' 0 24

/-- Row 0x0_ of Table 8-1; `lo` is the low digit of the opcode. -/
def decodeRow0 (w : DWord) (lo : Nat) : Option Instr :=
  match lo with
  | 1 => some (.sadd (decodeT w))
  | 2 => some (.ssub (decodeT w))
  | 3 => some (.smul (decodeT w))
  | 4 => some (.smulh (decodeT w))
  | 5 => some (.sand (decodeT w))
  | 6 => some (.sor (decodeT w))
  | 7 => some (.sxor (decodeT w))
  | 8 => some (.sandn (decodeT w))
  | 9 => some (.sshl (decodeT w))
  | 10 => some (.sshr (decodeT w))
  | 11 => some (.ssra (decodeT w))
  | 12 => some (.smin (decodeT w))
  | 13 => some (.smax (decodeT w))
  | 14 => some (.scmp (decodeT w))
  | 15 => some (.ssel (decodeT w))
  | _ => none

/-- Row 0x1_ of Table 8-1; `lo` is the low digit of the opcode. -/
def decodeRow1 (w : DWord) (lo : Nat) : Option Instr :=
  match lo with
  | 0 => some (.smov (decodeT w))
  | 1 => some (.sadd64 (decodeT w))
  | 2 => some (.ssub64 (decodeT w))
  | 3 => some (.sbfe (decodeT w))
  | 4 => some (.sbfi (decodeT w))
  | 5 => some (.spopc (decodeT w))
  | 6 => some (.sclz (decodeT w))
  | 7 => some (.sffs (decodeT w))
  | _ => none

/-- Row 0x2_ of Table 8-1; `lo` is the low digit of the opcode. -/
def decodeRow2 (w : DWord) (lo : Nat) : Option Instr :=
  match lo with
  | 0 => some (.sli (decodeI w))
  | 1 => some (.saddImm (decodeI w))
  | 2 => some (.ssubImm (decodeI w))
  | 3 => some (.smulImm (decodeI w))
  | 4 => some (.smulhImm (decodeI w))
  | 5 => some (.sandImm (decodeI w))
  | 6 => some (.sorImm (decodeI w))
  | 7 => some (.sxorImm (decodeI w))
  | 8 => some (.sandnImm (decodeI w))
  | 9 => some (.sshlImm (decodeI w))
  | 10 => some (.sshrImm (decodeI w))
  | 11 => some (.ssraImm (decodeI w))
  | 12 => some (.sminImm (decodeI w))
  | 13 => some (.smaxImm (decodeI w))
  | 14 => some (.scmpImm (decodeI w))
  | 15 => some (.sselImm (decodeI w))
  | _ => none

/-- Row 0x3_ of Table 8-1; `lo` is the low digit of the opcode. -/
def decodeRow3 (w : DWord) (lo : Nat) : Option Instr :=
  match lo with
  | 0 => some (.sldk (decodeI w))
  | 1 => some (.sadd64Imm (decodeI w))
  | 2 => some (.ssub64Imm (decodeI w))
  | 3 => some (.sbfeImm (decodeI w))
  | 4 => some (.sbfiImm (decodeI w))
  | 8 => some (.srd (decodeI w))
  | 9 => some (.swr (decodeI w))
  | _ => none

/-- Row 0x4_ of Table 8-1; `lo` is the low digit of the opcode. -/
def decodeRow4 (w : DWord) (lo : Nat) : Option Instr :=
  match lo with
  | 0 => some (.mget (decodeT w))
  | 1 => some (.mset (decodeT w))
  | 2 => some (.mand (decodeT w))
  | 3 => some (.mandn (decodeT w))
  | 4 => some (.mor (decodeT w))
  | 5 => some (.mxor (decodeT w))
  | 6 => some (.mcnt (decodeT w))
  | 8 => some (.ret (decodeT w))
  | 9 => some (.exit (decodeT w))
  | 10 => some (.nop (decodeT w))
  | 11 => some (.yield (decodeT w))
  | 12 => some (.bkpt (decodeT w))
  | 13 => some (.trapret (decodeT w))
  | _ => none

/-- Row 0x5_ of Table 8-1; `lo` is the low digit of the opcode. -/
def decodeRow5 (w : DWord) (lo : Nat) : Option Instr :=
  match lo with
  | 0 => some (.br (decodeI w))
  | 1 => some (.bz (decodeI w))
  | 2 => some (.bnz (decodeI w))
  | 3 => some (.bs (decodeI w))
  | 4 => some (.call (decodeI w))
  | 5 => some (.loop (decodeI w))
  | 6 => some (.lbrk (decodeI w))
  | 7 => some (.sleep (decodeI w))
  | 8 => some (.trap (decodeI w))
  | _ => none

/-- Row 0x6_ of Table 8-1; `lo` is the low digit of the opcode. -/
def decodeRow6 (w : DWord) (lo : Nat) : Option Instr :=
  match lo with
  | 1 => some (.vadd (decodeT w))
  | 2 => some (.vsub (decodeT w))
  | 3 => some (.vmul (decodeT w))
  | 4 => some (.vmulh (decodeT w))
  | 5 => some (.vmad (decodeT w))
  | 6 => some (.vand (decodeT w))
  | 7 => some (.vor (decodeT w))
  | 8 => some (.vxor (decodeT w))
  | 9 => some (.vandn (decodeT w))
  | 10 => some (.vshl (decodeT w))
  | 11 => some (.vshr (decodeT w))
  | 12 => some (.vsra (decodeT w))
  | 13 => some (.vmin (decodeT w))
  | 14 => some (.vmax (decodeT w))
  | 15 => some (.vcmp (decodeT w))
  | _ => none

/-- Row 0x7_ of Table 8-1; `lo` is the low digit of the opcode. -/
def decodeRow7 (w : DWord) (lo : Nat) : Option Instr :=
  match lo with
  | 0 => some (.vsel (decodeT w))
  | 1 => some (.vmov (decodeT w))
  | 2 => some (.vabs (decodeT w))
  | 3 => some (.vbfe (decodeT w))
  | 4 => some (.vbfi (decodeT w))
  | 5 => some (.vpopc (decodeT w))
  | 6 => some (.vclz (decodeT w))
  | 7 => some (.vaddc (decodeT w))
  | 8 => some (.vsad (decodeT w))
  | 9 => some (.vdot4 (decodeT w))
  | _ => none

/-- Row 0x8_ of Table 8-1; `lo` is the low digit of the opcode. -/
def decodeRow8 (w : DWord) (lo : Nat) : Option Instr :=
  match lo with
  | 0 => some (.vli (decodeI w))
  | 1 => some (.vaddImm (decodeI w))
  | 2 => some (.vsubImm (decodeI w))
  | 3 => some (.vmulImm (decodeI w))
  | 4 => some (.vmulhImm (decodeI w))
  | 5 => some (.vmadImm (decodeI w))
  | 6 => some (.vandImm (decodeI w))
  | 7 => some (.vorImm (decodeI w))
  | 8 => some (.vxorImm (decodeI w))
  | 9 => some (.vandnImm (decodeI w))
  | 10 => some (.vshlImm (decodeI w))
  | 11 => some (.vshrImm (decodeI w))
  | 12 => some (.vsraImm (decodeI w))
  | 13 => some (.vminImm (decodeI w))
  | 14 => some (.vmaxImm (decodeI w))
  | 15 => some (.vcmpImm (decodeI w))
  | _ => none

/-- Row 0x9_ of Table 8-1; `lo` is the low digit of the opcode. -/
def decodeRow9 (w : DWord) (lo : Nat) : Option Instr :=
  match lo with
  | 0 => some (.tcopy (decodeE w))
  | 1 => some (.txform (decodeE w))
  | 2 => some (.tremote (decodeE w))
  | 3 => some (.tflush (decodeE w))
  | 4 => some (.tfill (decodeE w))
  | 5 => some (.fork (decodeE w))
  | 6 => some (.rdv (decodeE w))
  | 7 => some (.rast (decodeE w))
  | 8 => some (.trace (decodeE w))
  | 9 => some (.qfilt (decodeE w))
  | 10 => some (.qhash (decodeE w))
  | 11 => some (.callq (decodeE w))
  | 12 => some (.tokacq (decodeE w))
  | 13 => some (.tokskip (decodeE w))
  | 14 => some (.enqr (decodeE w))
  | 15 => some (.frel (decodeE w))
  | _ => none

/-- Row 0xA_ of Table 8-1; `lo` is the low digit of the opcode. -/
def decodeRowA (w : DWord) (lo : Nat) : Option Instr :=
  match lo with
  | 0 => some (.fadd (decodeT w))
  | 1 => some (.fsub (decodeT w))
  | 2 => some (.fmul (decodeT w))
  | 3 => some (.ffma (decodeT w))
  | 4 => some (.fmin (decodeT w))
  | 5 => some (.fmax (decodeT w))
  | 6 => some (.fcmp (decodeT w))
  | 7 => some (.ffrac (decodeT w))
  | 8 => some (.frnd (decodeT w))
  | 9 => some (.fclass (decodeT w))
  | 10 => some (.hfma2 (decodeT w))
  | 11 => some (.hadd2 (decodeT w))
  | 12 => some (.hmul2 (decodeT w))
  | 13 => some (.hdot2 (decodeT w))
  | _ => none

/-- Row 0xB_ of Table 8-1; `lo` is the low digit of the opcode. -/
def decodeRowB (w : DWord) (lo : Nat) : Option Instr :=
  match lo with
  | 0 => some (.dadd (decodeT w))
  | 1 => some (.dmul (decodeT w))
  | 2 => some (.dfma (decodeT w))
  | 3 => some (.dcmp (decodeT w))
  | 8 => some (.frcp (decodeT w))
  | 9 => some (.frsq (decodeT w))
  | 10 => some (.fsqrt (decodeT w))
  | 11 => some (.fdiv (decodeT w))
  | 12 => some (.fexp2 (decodeT w))
  | 13 => some (.flog2 (decodeT w))
  | 14 => some (.fsin (decodeT w))
  | 15 => some (.fcos (decodeT w))
  | _ => none

/-- Row 0xC_ of Table 8-1; `lo` is the low digit of the opcode. -/
def decodeRowC (w : DWord) (lo : Nat) : Option Instr :=
  match lo with
  | 0 => some (.faddImm (decodeI w))
  | 1 => some (.fsubImm (decodeI w))
  | 2 => some (.fmulImm (decodeI w))
  | 3 => some (.ffmaImm (decodeI w))
  | 4 => some (.fminImm (decodeI w))
  | 5 => some (.fmaxImm (decodeI w))
  | 6 => some (.fcmpImm (decodeI w))
  | _ => none

/-- Row 0xD_ of Table 8-1; `lo` is the low digit of the opcode. -/
def decodeRowD (w : DWord) (lo : Nat) : Option Instr :=
  match lo with
  | 0 => some (.cvt (decodeT w))
  | 1 => some (.vperm (decodeT w))
  | 2 => some (.vshfl (decodeT w))
  | 3 => some (.vrdl (decodeT w))
  | 4 => some (.vwrl (decodeT w))
  | 5 => some (.vred (decodeT w))
  | 6 => some (.vscan (decodeT w))
  | _ => none

/-- Row 0xE_ of Table 8-1; `lo` is the low digit of the opcode. -/
def decodeRowE (w : DWord) (lo : Nat) : Option Instr :=
  match lo with
  | 0 => some (.tld (decodeM w))
  | 1 => some (.tst (decodeM w))
  | 2 => some (.dld (decodeM w))
  | 3 => some (.dst (decodeM w))
  | 4 => some (.pld (decodeM w))
  | 5 => some (.pst (decodeM w))
  | 8 => some (.atop (decodeA w))
  | 9 => some (.atcas (decodeA w))
  | 10 => some (.atcas128 (decodeA w))
  | 11 => some (.mcas (decodeA w))
  | 12 => some (.redb (decodeA w))
  | 13 => some (.redf (decodeA w))
  | 14 => some (.waita (decodeA w))
  | 15 => some (.fence (decodeA w))
  | _ => none

/-- Row 0xF_ of Table 8-1; `lo` is the low digit of the opcode. -/
def decodeRowF (w : DWord) (lo : Nat) : Option Instr :=
  match lo with
  | 0 => some (.wopen (decodeE w))
  | 1 => some (.wclose (decodeE w))
  | 2 => some (.flreg (decodeE w))
  | 3 => some (.fldrop (decodeE w))
  | 4 => some (.flarr (decodeE w))
  | 5 => some (.flwait (decodeE w))
  | 6 => some (.fladv (decodeE w))
  | 7 => some (.binit (decodeE w))
  | 8 => some (.bxp (decodeE w))
  | 9 => some (.bwait (decodeE w))
  | 10 => some (.waitp (decodeE w))
  | 14 => some (.pqlaunch (decodeE w))
  | _ => none

/-- The group instruction a word holds, or none where Table 8-1 assigns its opcode to nothing (R163, R171). -/
def decodeWord (w : DWord) : Option Instr :=
  match opcodeOf w / 16 with
  | 0 => decodeRow0 w (opcodeOf w % 16)
  | 1 => decodeRow1 w (opcodeOf w % 16)
  | 2 => decodeRow2 w (opcodeOf w % 16)
  | 3 => decodeRow3 w (opcodeOf w % 16)
  | 4 => decodeRow4 w (opcodeOf w % 16)
  | 5 => decodeRow5 w (opcodeOf w % 16)
  | 6 => decodeRow6 w (opcodeOf w % 16)
  | 7 => decodeRow7 w (opcodeOf w % 16)
  | 8 => decodeRow8 w (opcodeOf w % 16)
  | 9 => decodeRow9 w (opcodeOf w % 16)
  | 10 => decodeRowA w (opcodeOf w % 16)
  | 11 => decodeRowB w (opcodeOf w % 16)
  | 12 => decodeRowC w (opcodeOf w % 16)
  | 13 => decodeRowD w (opcodeOf w % 16)
  | 14 => decodeRowE w (opcodeOf w % 16)
  | 15 => decodeRowF w (opcodeOf w % 16)
  | _ => none

/-- The stream word a word holds: its opcode is looked up in Table 8-6 only (R170, R174). -/
def decodeStream (w : DWord) : Option Instr :=
  match opcodeOf w with
  | 1 => some (.mma (decodeZ w))
  | 2 => some (.mcb (decodeZ w))
  | 3 => some (.mzero (decodeZ w))
  | 4 => some (.mzld (decodeZ w))
  | 5 => some (.mzst (decodeZ w))
  | 6 => some (.mscal (decodeZ w))
  | 7 => some (.mflsig (decodeZ w))
  | 8 => some (.mflwait (decodeZ w))
  | 9 => some (.mloop (decodeZ w))
  | 10 => some (.mend (decodeZ w))
  | 11 => some (.mnop (decodeZ w))
  | _ => none

/-- Decode the first eight bytes, lowest address first (R6, R138), as a group instruction; the rest of the bytes is returned. -/
def decode : List Byte → Except DecodeError (Instr × List Byte)
  | b0 :: b1 :: b2 :: b3 :: b4 :: b5 :: b6 :: b7 :: rest =>
    let w : DWord := b7 ++ b6 ++ b5 ++ b4 ++ b3 ++ b2 ++ b1 ++ b0
    match decodeWord w with
    | some i => .ok (i, rest)
    | none => .error (.unallocated (opcodeOf w))
  | _ => .error .truncated

/-- Decode the first eight bytes as a word of a matrix stream (R154, R170). -/
def decodeStreamBytes : List Byte → Except DecodeError (Instr × List Byte)
  | b0 :: b1 :: b2 :: b3 :: b4 :: b5 :: b6 :: b7 :: rest =>
    let w : DWord := b7 ++ b6 ++ b5 ++ b4 ++ b3 ++ b2 ++ b1 ++ b0
    match decodeStream w with
    | some i => .ok (i, rest)
    | none => .error (.unallocated (opcodeOf w))
  | _ => .error .truncated

/-- A word in format T. -/
def encodeT (opcode : Byte) (f : FmtT) : DWord :=
  opcode ++ f.d ++ f.a ++ f.b ++ f.c ++ f.ka ++ f.kb ++ f.kc ++ BitVec.ofBool f.na ++ BitVec.ofBool f.nb ++ BitVec.ofBool f.nc ++
    BitVec.ofBool f.aa ++ BitVec.ofBool f.ab ++ BitVec.ofBool f.ac ++ f.rnd ++ BitVec.ofBool f.sat ++ f.op

/-- A word in format I. -/
def encodeI (opcode : Byte) (f : FmtI) : DWord :=
  opcode ++ f.d ++ f.a ++ f.ka ++ BitVec.ofBool f.na ++ BitVec.ofBool f.aa ++ f.op ++ f.imm

/-- A word in format M. -/
def encodeM (opcode : Byte) (f : FmtM) : DWord :=
  opcode ++ f.d ++ f.a ++ f.b ++ BitVec.ofBool f.ka ++ BitVec.ofBool f.bu ++ f.size ++ f.fe ++ BitVec.ofBool f.stk ++
    BitVec.ofBool f.sx ++ f.rsvd ++ f.off

/-- A word in format A. -/
def encodeA (opcode : Byte) (f : FmtA) : DWord :=
  opcode ++ f.d ++ f.a ++ f.b ++ f.c ++ BitVec.ofBool f.ka ++ f.scope ++ f.order ++ BitVec.ofBool f.ret ++ BitVec.ofBool f.kb ++
    BitVec.ofBool f.kc ++ f.op

/-- A word in format E. -/
def encodeE (opcode : Byte) (f : FmtE) : DWord :=
  opcode ++ f.d ++ f.a ++ f.b ++ f.c ++ BitVec.ofBool f.acq ++ f.acqScope ++ BitVec.ofBool f.rel ++ f.relScope ++ f.op

/-- A word in format Z. -/
def encodeZ (opcode : Byte) (f : FmtZ) : DWord := opcode ++ f.d ++ f.a ++ f.b ++ f.c ++ f.mods

/-- The word of a group instruction (Table 8-1) or of a stream word (Table 8-6); a device event has no word. -/
def encode : Instr → Option DWord
  | .sadd f => some (encodeT 0x01 f)
  | .saddImm f => some (encodeI 0x21 f)
  | .ssub f => some (encodeT 0x02 f)
  | .ssubImm f => some (encodeI 0x22 f)
  | .smul f => some (encodeT 0x03 f)
  | .smulImm f => some (encodeI 0x23 f)
  | .smulh f => some (encodeT 0x04 f)
  | .smulhImm f => some (encodeI 0x24 f)
  | .sand f => some (encodeT 0x05 f)
  | .sandImm f => some (encodeI 0x25 f)
  | .sor f => some (encodeT 0x06 f)
  | .sorImm f => some (encodeI 0x26 f)
  | .sxor f => some (encodeT 0x07 f)
  | .sxorImm f => some (encodeI 0x27 f)
  | .sandn f => some (encodeT 0x08 f)
  | .sandnImm f => some (encodeI 0x28 f)
  | .sshl f => some (encodeT 0x09 f)
  | .sshlImm f => some (encodeI 0x29 f)
  | .sshr f => some (encodeT 0x0A f)
  | .sshrImm f => some (encodeI 0x2A f)
  | .ssra f => some (encodeT 0x0B f)
  | .ssraImm f => some (encodeI 0x2B f)
  | .smin f => some (encodeT 0x0C f)
  | .sminImm f => some (encodeI 0x2C f)
  | .smax f => some (encodeT 0x0D f)
  | .smaxImm f => some (encodeI 0x2D f)
  | .scmp f => some (encodeT 0x0E f)
  | .scmpImm f => some (encodeI 0x2E f)
  | .ssel f => some (encodeT 0x0F f)
  | .sselImm f => some (encodeI 0x2F f)
  | .smov f => some (encodeT 0x10 f)
  | .sadd64 f => some (encodeT 0x11 f)
  | .sadd64Imm f => some (encodeI 0x31 f)
  | .ssub64 f => some (encodeT 0x12 f)
  | .ssub64Imm f => some (encodeI 0x32 f)
  | .sbfe f => some (encodeT 0x13 f)
  | .sbfeImm f => some (encodeI 0x33 f)
  | .sbfi f => some (encodeT 0x14 f)
  | .sbfiImm f => some (encodeI 0x34 f)
  | .spopc f => some (encodeT 0x15 f)
  | .sclz f => some (encodeT 0x16 f)
  | .sffs f => some (encodeT 0x17 f)
  | .sli f => some (encodeI 0x20 f)
  | .sldk f => some (encodeI 0x30 f)
  | .srd f => some (encodeI 0x38 f)
  | .swr f => some (encodeI 0x39 f)
  | .mget f => some (encodeT 0x40 f)
  | .mset f => some (encodeT 0x41 f)
  | .mand f => some (encodeT 0x42 f)
  | .mandn f => some (encodeT 0x43 f)
  | .mor f => some (encodeT 0x44 f)
  | .mxor f => some (encodeT 0x45 f)
  | .mcnt f => some (encodeT 0x46 f)
  | .ret f => some (encodeT 0x48 f)
  | .exit f => some (encodeT 0x49 f)
  | .nop f => some (encodeT 0x4A f)
  | .yield f => some (encodeT 0x4B f)
  | .bkpt f => some (encodeT 0x4C f)
  | .trapret f => some (encodeT 0x4D f)
  | .br f => some (encodeI 0x50 f)
  | .bz f => some (encodeI 0x51 f)
  | .bnz f => some (encodeI 0x52 f)
  | .bs f => some (encodeI 0x53 f)
  | .call f => some (encodeI 0x54 f)
  | .loop f => some (encodeI 0x55 f)
  | .lbrk f => some (encodeI 0x56 f)
  | .sleep f => some (encodeI 0x57 f)
  | .trap f => some (encodeI 0x58 f)
  | .vadd f => some (encodeT 0x61 f)
  | .vaddImm f => some (encodeI 0x81 f)
  | .vsub f => some (encodeT 0x62 f)
  | .vsubImm f => some (encodeI 0x82 f)
  | .vmul f => some (encodeT 0x63 f)
  | .vmulImm f => some (encodeI 0x83 f)
  | .vmulh f => some (encodeT 0x64 f)
  | .vmulhImm f => some (encodeI 0x84 f)
  | .vmad f => some (encodeT 0x65 f)
  | .vmadImm f => some (encodeI 0x85 f)
  | .vand f => some (encodeT 0x66 f)
  | .vandImm f => some (encodeI 0x86 f)
  | .vor f => some (encodeT 0x67 f)
  | .vorImm f => some (encodeI 0x87 f)
  | .vxor f => some (encodeT 0x68 f)
  | .vxorImm f => some (encodeI 0x88 f)
  | .vandn f => some (encodeT 0x69 f)
  | .vandnImm f => some (encodeI 0x89 f)
  | .vshl f => some (encodeT 0x6A f)
  | .vshlImm f => some (encodeI 0x8A f)
  | .vshr f => some (encodeT 0x6B f)
  | .vshrImm f => some (encodeI 0x8B f)
  | .vsra f => some (encodeT 0x6C f)
  | .vsraImm f => some (encodeI 0x8C f)
  | .vmin f => some (encodeT 0x6D f)
  | .vminImm f => some (encodeI 0x8D f)
  | .vmax f => some (encodeT 0x6E f)
  | .vmaxImm f => some (encodeI 0x8E f)
  | .vcmp f => some (encodeT 0x6F f)
  | .vcmpImm f => some (encodeI 0x8F f)
  | .vsel f => some (encodeT 0x70 f)
  | .vmov f => some (encodeT 0x71 f)
  | .vabs f => some (encodeT 0x72 f)
  | .vbfe f => some (encodeT 0x73 f)
  | .vbfi f => some (encodeT 0x74 f)
  | .vpopc f => some (encodeT 0x75 f)
  | .vclz f => some (encodeT 0x76 f)
  | .vaddc f => some (encodeT 0x77 f)
  | .vsad f => some (encodeT 0x78 f)
  | .vdot4 f => some (encodeT 0x79 f)
  | .vli f => some (encodeI 0x80 f)
  | .fadd f => some (encodeT 0xA0 f)
  | .faddImm f => some (encodeI 0xC0 f)
  | .fsub f => some (encodeT 0xA1 f)
  | .fsubImm f => some (encodeI 0xC1 f)
  | .fmul f => some (encodeT 0xA2 f)
  | .fmulImm f => some (encodeI 0xC2 f)
  | .ffma f => some (encodeT 0xA3 f)
  | .ffmaImm f => some (encodeI 0xC3 f)
  | .fmin f => some (encodeT 0xA4 f)
  | .fminImm f => some (encodeI 0xC4 f)
  | .fmax f => some (encodeT 0xA5 f)
  | .fmaxImm f => some (encodeI 0xC5 f)
  | .fcmp f => some (encodeT 0xA6 f)
  | .fcmpImm f => some (encodeI 0xC6 f)
  | .ffrac f => some (encodeT 0xA7 f)
  | .frnd f => some (encodeT 0xA8 f)
  | .fclass f => some (encodeT 0xA9 f)
  | .hfma2 f => some (encodeT 0xAA f)
  | .hadd2 f => some (encodeT 0xAB f)
  | .hmul2 f => some (encodeT 0xAC f)
  | .hdot2 f => some (encodeT 0xAD f)
  | .dadd f => some (encodeT 0xB0 f)
  | .dmul f => some (encodeT 0xB1 f)
  | .dfma f => some (encodeT 0xB2 f)
  | .dcmp f => some (encodeT 0xB3 f)
  | .frcp f => some (encodeT 0xB8 f)
  | .frsq f => some (encodeT 0xB9 f)
  | .fsqrt f => some (encodeT 0xBA f)
  | .fdiv f => some (encodeT 0xBB f)
  | .fexp2 f => some (encodeT 0xBC f)
  | .flog2 f => some (encodeT 0xBD f)
  | .fsin f => some (encodeT 0xBE f)
  | .fcos f => some (encodeT 0xBF f)
  | .cvt f => some (encodeT 0xD0 f)
  | .vperm f => some (encodeT 0xD1 f)
  | .vshfl f => some (encodeT 0xD2 f)
  | .vrdl f => some (encodeT 0xD3 f)
  | .vwrl f => some (encodeT 0xD4 f)
  | .vred f => some (encodeT 0xD5 f)
  | .vscan f => some (encodeT 0xD6 f)
  | .tld f => some (encodeM 0xE0 f)
  | .tst f => some (encodeM 0xE1 f)
  | .dld f => some (encodeM 0xE2 f)
  | .dst f => some (encodeM 0xE3 f)
  | .pld f => some (encodeM 0xE4 f)
  | .pst f => some (encodeM 0xE5 f)
  | .atop f => some (encodeA 0xE8 f)
  | .atcas f => some (encodeA 0xE9 f)
  | .atcas128 f => some (encodeA 0xEA f)
  | .mcas f => some (encodeA 0xEB f)
  | .redb f => some (encodeA 0xEC f)
  | .redf f => some (encodeA 0xED f)
  | .waita f => some (encodeA 0xEE f)
  | .fence f => some (encodeA 0xEF f)
  | .tcopy f => some (encodeE 0x90 f)
  | .txform f => some (encodeE 0x91 f)
  | .tremote f => some (encodeE 0x92 f)
  | .tflush f => some (encodeE 0x93 f)
  | .tfill f => some (encodeE 0x94 f)
  | .fork f => some (encodeE 0x95 f)
  | .rdv f => some (encodeE 0x96 f)
  | .rast f => some (encodeE 0x97 f)
  | .trace f => some (encodeE 0x98 f)
  | .qfilt f => some (encodeE 0x99 f)
  | .qhash f => some (encodeE 0x9A f)
  | .callq f => some (encodeE 0x9B f)
  | .tokacq f => some (encodeE 0x9C f)
  | .tokskip f => some (encodeE 0x9D f)
  | .enqr f => some (encodeE 0x9E f)
  | .frel f => some (encodeE 0x9F f)
  | .wopen f => some (encodeE 0xF0 f)
  | .wclose f => some (encodeE 0xF1 f)
  | .flreg f => some (encodeE 0xF2 f)
  | .fldrop f => some (encodeE 0xF3 f)
  | .flarr f => some (encodeE 0xF4 f)
  | .flwait f => some (encodeE 0xF5 f)
  | .fladv f => some (encodeE 0xF6 f)
  | .binit f => some (encodeE 0xF7 f)
  | .bxp f => some (encodeE 0xF8 f)
  | .bwait f => some (encodeE 0xF9 f)
  | .waitp f => some (encodeE 0xFA f)
  | .pqlaunch f => some (encodeE 0xFE f)
  | .mma f => some (encodeZ 0x01 f)
  | .mcb f => some (encodeZ 0x02 f)
  | .mzero f => some (encodeZ 0x03 f)
  | .mzld f => some (encodeZ 0x04 f)
  | .mzst f => some (encodeZ 0x05 f)
  | .mscal f => some (encodeZ 0x06 f)
  | .mflsig f => some (encodeZ 0x07 f)
  | .mflwait f => some (encodeZ 0x08 f)
  | .mloop f => some (encodeZ 0x09 f)
  | .mend f => some (encodeZ 0x0A f)
  | .mnop f => some (encodeZ 0x0B f)
  | .unallocatedOpcode _ => none
  | .unallocatedStreamWord _ => none
  | .clauseEntry _ => none
  | .deferredTrap _ => none
  | .doubleFault _ => none
  | .haltedGroupTimeout _ => none
  | .breakpointMatch _ => none
  | .stepTrap _ => none
  | .returnTrap _ => none
  | .returnSlotResume _ => none
  | .returnTrapTimeout _ => none
  | .slotWriteFailure _ _ => none
  | .registerFillDone _ _ => none
  | .loadResultLanding _ _ => none
  | .storePerformed _ _ => none
  | .atomicAtHome _ _ => none
  | .scFloorPublish _ => none
  | .scApplyAtHome _ _ => none
  | .crossbarGrant _ => none
  | .peerAccessAtOwner _ _ => none
  | .poundAccess _ _ _ => none
  | .mcasAdmission _ => none
  | .mcasLockGrant _ => none
  | .mcasResult _ => none
  | .mcasLockTimeout _ => none
  | .reductionDrain _ => none
  | .redfRelease _ => none
  | .fenceComplete _ => none
  | .flightWaitersReleased _ => none
  | .earlyArrivalRelease _ => none
  | .bwaitRelease _ => none
  | .pathWaitRelease _ => none
  | .sleepExpiry _ => none
  | .activeSetEntry _ _ => none
  | .pendingStarvation _ _ => none
  | .towQueueSlot _ => none
  | .towCommandStart _ => none
  | .txformExecution _ => none
  | .towCommandComplete _ => none
  | .forkServed _ => none
  | .rdvRelease _ => none
  | .mmaPinRelease _ => none
  | .mmaTileWrite _ => none
  | .groupEnd _ => none
  | .teamRetirement _ => none
  | .teamPlacement _ => none
  | .preemptionStart _ => none
  | .preemptionSave _ => none
  | .teamResume _ => none
  | .traceAdmission _ => none
  | .returnSlotsGranted _ => none
  | .bargeArrival _ => none
  | .traversalTurn _ _ => none
  | .topStep _ => none
  | .anyHitGroupStart _ => none
  | .anyHitDecision _ => none
  | .anyHitBudgetExceeded _ => none
  | .hitRecordLanding _ => none
  | .qfiltRecord _ _ => none
  | .qhashRecord _ _ => none
  | .pqlaunchComplete _ => none
  | .calledQueueRoom _ => none
  | .calledRecordApply _ => none
  | .batchHeld _ => none
  | .tessellatorRecord _ => none
  | .returnRecordLanding _ => none
  | .tokacqPerformed _ => none
  | .tokenMatchEntry _ => none
  | .matchTableRoom _ => none
  | .commandLaunch _ _ => none
  | .commandGraph _ _ => none
  | .commandWait _ _ => none
  | .commandSignal _ _ => none
  | .commandReach _ _ => none
  | .commandRung _ _ => none
  | .commandRelease _ _ => none
  | .commandReserved _ _ => none
  | .grantWaitEnd _ => none
  | .reachBalancerStep _ => none
  | .reachCoreMove _ => none
  | .reachPreemptTimeout _ => none
  | .deadlineProjection _ => none
  | .doorbell _ _ => none
  | .queueEnable _ => none
  | .queueDisable _ => none
  | .hostBar2Access _ _ _ _ => none
  | .registerWrite _ _ _ => none
  | .dutyModeWrite _ => none
  | .reachLimitWrite _ _ => none
  | .displayBlockWrite _ _ _ => none
  | .timeFreqWrite _ => none
  | .timeOffsetWrite _ => none
  | .logctlWrite _ => none
  | .loglostRead => none
  | .faultreplyRetry _ => none
  | .faultreplyFail _ => none
  | .heldFaultTimeout _ => none
  | .configChangeReload => none
  | .attestationStart => none
  | .restoreAppend => none
  | .restoreCommit => none
  | .restoreDiscard => none
  | .retrainWordWrite _ => none
  | .debugHoldWrite _ => none
  | .debugMailboxReload => none
  | .camtosWriteCommand _ _ => none
  | .camtosAddCommand _ _ => none
  | .camtosReservedOp _ _ => none
  | .camtosBodyFlit _ _ => none
  | .camtosResponse _ _ => none
  | .linkAck _ _ => none
  | .linkNak _ _ => none
  | .linkCreditUpdate _ _ _ => none
  | .flitCrcFail _ => none
  | .linkControlPeriodic _ => none
  | .replayTimeout _ => none
  | .portRetrain _ _ => none
  | .hostRetrainTimeout _ => none
  | .ptpEventMessage _ _ _ _ => none
  | .ptpLockChange _ => none
  | .frameStart _ => none
  | .frameBufferRetire _ => none
  | .displayPendingRoom _ => none
  | .powerOnBringup => none
  | .powerLimitThrottle _ => none
  | .inletClockStep _ => none
  | .patrolScrub _ => none
  | .scratchpadScrub _ _ => none
  | .dramCalibration _ _ => none
  | .serdesCalibration _ _ => none
  | .rowActivityMitigation _ _ => none
  | .agingMonitor _ => none
  | .moduleReset => none
  | .codeObjectLoad _ _ _ _ _ _ _ => none
  | .codeObjectUnload _ => none
  | .camtosPortConnect _ => none

/-- Whether an instruction is a group instruction of Table 8-1. -/
def Instr.isGroup : Instr → Bool
  | .sadd _ => true
  | .saddImm _ => true
  | .ssub _ => true
  | .ssubImm _ => true
  | .smul _ => true
  | .smulImm _ => true
  | .smulh _ => true
  | .smulhImm _ => true
  | .sand _ => true
  | .sandImm _ => true
  | .sor _ => true
  | .sorImm _ => true
  | .sxor _ => true
  | .sxorImm _ => true
  | .sandn _ => true
  | .sandnImm _ => true
  | .sshl _ => true
  | .sshlImm _ => true
  | .sshr _ => true
  | .sshrImm _ => true
  | .ssra _ => true
  | .ssraImm _ => true
  | .smin _ => true
  | .sminImm _ => true
  | .smax _ => true
  | .smaxImm _ => true
  | .scmp _ => true
  | .scmpImm _ => true
  | .ssel _ => true
  | .sselImm _ => true
  | .smov _ => true
  | .sadd64 _ => true
  | .sadd64Imm _ => true
  | .ssub64 _ => true
  | .ssub64Imm _ => true
  | .sbfe _ => true
  | .sbfeImm _ => true
  | .sbfi _ => true
  | .sbfiImm _ => true
  | .spopc _ => true
  | .sclz _ => true
  | .sffs _ => true
  | .sli _ => true
  | .sldk _ => true
  | .srd _ => true
  | .swr _ => true
  | .mget _ => true
  | .mset _ => true
  | .mand _ => true
  | .mandn _ => true
  | .mor _ => true
  | .mxor _ => true
  | .mcnt _ => true
  | .ret _ => true
  | .exit _ => true
  | .nop _ => true
  | .yield _ => true
  | .bkpt _ => true
  | .trapret _ => true
  | .br _ => true
  | .bz _ => true
  | .bnz _ => true
  | .bs _ => true
  | .call _ => true
  | .loop _ => true
  | .lbrk _ => true
  | .sleep _ => true
  | .trap _ => true
  | .vadd _ => true
  | .vaddImm _ => true
  | .vsub _ => true
  | .vsubImm _ => true
  | .vmul _ => true
  | .vmulImm _ => true
  | .vmulh _ => true
  | .vmulhImm _ => true
  | .vmad _ => true
  | .vmadImm _ => true
  | .vand _ => true
  | .vandImm _ => true
  | .vor _ => true
  | .vorImm _ => true
  | .vxor _ => true
  | .vxorImm _ => true
  | .vandn _ => true
  | .vandnImm _ => true
  | .vshl _ => true
  | .vshlImm _ => true
  | .vshr _ => true
  | .vshrImm _ => true
  | .vsra _ => true
  | .vsraImm _ => true
  | .vmin _ => true
  | .vminImm _ => true
  | .vmax _ => true
  | .vmaxImm _ => true
  | .vcmp _ => true
  | .vcmpImm _ => true
  | .vsel _ => true
  | .vmov _ => true
  | .vabs _ => true
  | .vbfe _ => true
  | .vbfi _ => true
  | .vpopc _ => true
  | .vclz _ => true
  | .vaddc _ => true
  | .vsad _ => true
  | .vdot4 _ => true
  | .vli _ => true
  | .fadd _ => true
  | .faddImm _ => true
  | .fsub _ => true
  | .fsubImm _ => true
  | .fmul _ => true
  | .fmulImm _ => true
  | .ffma _ => true
  | .ffmaImm _ => true
  | .fmin _ => true
  | .fminImm _ => true
  | .fmax _ => true
  | .fmaxImm _ => true
  | .fcmp _ => true
  | .fcmpImm _ => true
  | .ffrac _ => true
  | .frnd _ => true
  | .fclass _ => true
  | .hfma2 _ => true
  | .hadd2 _ => true
  | .hmul2 _ => true
  | .hdot2 _ => true
  | .dadd _ => true
  | .dmul _ => true
  | .dfma _ => true
  | .dcmp _ => true
  | .frcp _ => true
  | .frsq _ => true
  | .fsqrt _ => true
  | .fdiv _ => true
  | .fexp2 _ => true
  | .flog2 _ => true
  | .fsin _ => true
  | .fcos _ => true
  | .cvt _ => true
  | .vperm _ => true
  | .vshfl _ => true
  | .vrdl _ => true
  | .vwrl _ => true
  | .vred _ => true
  | .vscan _ => true
  | .tld _ => true
  | .tst _ => true
  | .dld _ => true
  | .dst _ => true
  | .pld _ => true
  | .pst _ => true
  | .atop _ => true
  | .atcas _ => true
  | .atcas128 _ => true
  | .mcas _ => true
  | .redb _ => true
  | .redf _ => true
  | .waita _ => true
  | .fence _ => true
  | .tcopy _ => true
  | .txform _ => true
  | .tremote _ => true
  | .tflush _ => true
  | .tfill _ => true
  | .fork _ => true
  | .rdv _ => true
  | .rast _ => true
  | .trace _ => true
  | .qfilt _ => true
  | .qhash _ => true
  | .callq _ => true
  | .tokacq _ => true
  | .tokskip _ => true
  | .enqr _ => true
  | .frel _ => true
  | .wopen _ => true
  | .wclose _ => true
  | .flreg _ => true
  | .fldrop _ => true
  | .flarr _ => true
  | .flwait _ => true
  | .fladv _ => true
  | .binit _ => true
  | .bxp _ => true
  | .bwait _ => true
  | .waitp _ => true
  | .pqlaunch _ => true
  | .mma _ => false
  | .mcb _ => false
  | .mzero _ => false
  | .mzld _ => false
  | .mzst _ => false
  | .mscal _ => false
  | .mflsig _ => false
  | .mflwait _ => false
  | .mloop _ => false
  | .mend _ => false
  | .mnop _ => false
  | .unallocatedOpcode _ => false
  | .unallocatedStreamWord _ => false
  | .clauseEntry _ => false
  | .deferredTrap _ => false
  | .doubleFault _ => false
  | .haltedGroupTimeout _ => false
  | .breakpointMatch _ => false
  | .stepTrap _ => false
  | .returnTrap _ => false
  | .returnSlotResume _ => false
  | .returnTrapTimeout _ => false
  | .slotWriteFailure _ _ => false
  | .registerFillDone _ _ => false
  | .loadResultLanding _ _ => false
  | .storePerformed _ _ => false
  | .atomicAtHome _ _ => false
  | .scFloorPublish _ => false
  | .scApplyAtHome _ _ => false
  | .crossbarGrant _ => false
  | .peerAccessAtOwner _ _ => false
  | .poundAccess _ _ _ => false
  | .mcasAdmission _ => false
  | .mcasLockGrant _ => false
  | .mcasResult _ => false
  | .mcasLockTimeout _ => false
  | .reductionDrain _ => false
  | .redfRelease _ => false
  | .fenceComplete _ => false
  | .flightWaitersReleased _ => false
  | .earlyArrivalRelease _ => false
  | .bwaitRelease _ => false
  | .pathWaitRelease _ => false
  | .sleepExpiry _ => false
  | .activeSetEntry _ _ => false
  | .pendingStarvation _ _ => false
  | .towQueueSlot _ => false
  | .towCommandStart _ => false
  | .txformExecution _ => false
  | .towCommandComplete _ => false
  | .forkServed _ => false
  | .rdvRelease _ => false
  | .mmaPinRelease _ => false
  | .mmaTileWrite _ => false
  | .groupEnd _ => false
  | .teamRetirement _ => false
  | .teamPlacement _ => false
  | .preemptionStart _ => false
  | .preemptionSave _ => false
  | .teamResume _ => false
  | .traceAdmission _ => false
  | .returnSlotsGranted _ => false
  | .bargeArrival _ => false
  | .traversalTurn _ _ => false
  | .topStep _ => false
  | .anyHitGroupStart _ => false
  | .anyHitDecision _ => false
  | .anyHitBudgetExceeded _ => false
  | .hitRecordLanding _ => false
  | .qfiltRecord _ _ => false
  | .qhashRecord _ _ => false
  | .pqlaunchComplete _ => false
  | .calledQueueRoom _ => false
  | .calledRecordApply _ => false
  | .batchHeld _ => false
  | .tessellatorRecord _ => false
  | .returnRecordLanding _ => false
  | .tokacqPerformed _ => false
  | .tokenMatchEntry _ => false
  | .matchTableRoom _ => false
  | .commandLaunch _ _ => false
  | .commandGraph _ _ => false
  | .commandWait _ _ => false
  | .commandSignal _ _ => false
  | .commandReach _ _ => false
  | .commandRung _ _ => false
  | .commandRelease _ _ => false
  | .commandReserved _ _ => false
  | .grantWaitEnd _ => false
  | .reachBalancerStep _ => false
  | .reachCoreMove _ => false
  | .reachPreemptTimeout _ => false
  | .deadlineProjection _ => false
  | .doorbell _ _ => false
  | .queueEnable _ => false
  | .queueDisable _ => false
  | .hostBar2Access _ _ _ _ => false
  | .registerWrite _ _ _ => false
  | .dutyModeWrite _ => false
  | .reachLimitWrite _ _ => false
  | .displayBlockWrite _ _ _ => false
  | .timeFreqWrite _ => false
  | .timeOffsetWrite _ => false
  | .logctlWrite _ => false
  | .loglostRead => false
  | .faultreplyRetry _ => false
  | .faultreplyFail _ => false
  | .heldFaultTimeout _ => false
  | .configChangeReload => false
  | .attestationStart => false
  | .restoreAppend => false
  | .restoreCommit => false
  | .restoreDiscard => false
  | .retrainWordWrite _ => false
  | .debugHoldWrite _ => false
  | .debugMailboxReload => false
  | .camtosWriteCommand _ _ => false
  | .camtosAddCommand _ _ => false
  | .camtosReservedOp _ _ => false
  | .camtosBodyFlit _ _ => false
  | .camtosResponse _ _ => false
  | .linkAck _ _ => false
  | .linkNak _ _ => false
  | .linkCreditUpdate _ _ _ => false
  | .flitCrcFail _ => false
  | .linkControlPeriodic _ => false
  | .replayTimeout _ => false
  | .portRetrain _ _ => false
  | .hostRetrainTimeout _ => false
  | .ptpEventMessage _ _ _ _ => false
  | .ptpLockChange _ => false
  | .frameStart _ => false
  | .frameBufferRetire _ => false
  | .displayPendingRoom _ => false
  | .powerOnBringup => false
  | .powerLimitThrottle _ => false
  | .inletClockStep _ => false
  | .patrolScrub _ => false
  | .scratchpadScrub _ _ => false
  | .dramCalibration _ _ => false
  | .serdesCalibration _ _ => false
  | .rowActivityMitigation _ _ => false
  | .agingMonitor _ => false
  | .moduleReset => false
  | .codeObjectLoad _ _ _ _ _ _ _ => false
  | .codeObjectUnload _ => false
  | .camtosPortConnect _ => false

/-- Whether an instruction is a word of a matrix stream (Table 8-6). -/
def Instr.isStream : Instr → Bool
  | .sadd _ => false
  | .saddImm _ => false
  | .ssub _ => false
  | .ssubImm _ => false
  | .smul _ => false
  | .smulImm _ => false
  | .smulh _ => false
  | .smulhImm _ => false
  | .sand _ => false
  | .sandImm _ => false
  | .sor _ => false
  | .sorImm _ => false
  | .sxor _ => false
  | .sxorImm _ => false
  | .sandn _ => false
  | .sandnImm _ => false
  | .sshl _ => false
  | .sshlImm _ => false
  | .sshr _ => false
  | .sshrImm _ => false
  | .ssra _ => false
  | .ssraImm _ => false
  | .smin _ => false
  | .sminImm _ => false
  | .smax _ => false
  | .smaxImm _ => false
  | .scmp _ => false
  | .scmpImm _ => false
  | .ssel _ => false
  | .sselImm _ => false
  | .smov _ => false
  | .sadd64 _ => false
  | .sadd64Imm _ => false
  | .ssub64 _ => false
  | .ssub64Imm _ => false
  | .sbfe _ => false
  | .sbfeImm _ => false
  | .sbfi _ => false
  | .sbfiImm _ => false
  | .spopc _ => false
  | .sclz _ => false
  | .sffs _ => false
  | .sli _ => false
  | .sldk _ => false
  | .srd _ => false
  | .swr _ => false
  | .mget _ => false
  | .mset _ => false
  | .mand _ => false
  | .mandn _ => false
  | .mor _ => false
  | .mxor _ => false
  | .mcnt _ => false
  | .ret _ => false
  | .exit _ => false
  | .nop _ => false
  | .yield _ => false
  | .bkpt _ => false
  | .trapret _ => false
  | .br _ => false
  | .bz _ => false
  | .bnz _ => false
  | .bs _ => false
  | .call _ => false
  | .loop _ => false
  | .lbrk _ => false
  | .sleep _ => false
  | .trap _ => false
  | .vadd _ => false
  | .vaddImm _ => false
  | .vsub _ => false
  | .vsubImm _ => false
  | .vmul _ => false
  | .vmulImm _ => false
  | .vmulh _ => false
  | .vmulhImm _ => false
  | .vmad _ => false
  | .vmadImm _ => false
  | .vand _ => false
  | .vandImm _ => false
  | .vor _ => false
  | .vorImm _ => false
  | .vxor _ => false
  | .vxorImm _ => false
  | .vandn _ => false
  | .vandnImm _ => false
  | .vshl _ => false
  | .vshlImm _ => false
  | .vshr _ => false
  | .vshrImm _ => false
  | .vsra _ => false
  | .vsraImm _ => false
  | .vmin _ => false
  | .vminImm _ => false
  | .vmax _ => false
  | .vmaxImm _ => false
  | .vcmp _ => false
  | .vcmpImm _ => false
  | .vsel _ => false
  | .vmov _ => false
  | .vabs _ => false
  | .vbfe _ => false
  | .vbfi _ => false
  | .vpopc _ => false
  | .vclz _ => false
  | .vaddc _ => false
  | .vsad _ => false
  | .vdot4 _ => false
  | .vli _ => false
  | .fadd _ => false
  | .faddImm _ => false
  | .fsub _ => false
  | .fsubImm _ => false
  | .fmul _ => false
  | .fmulImm _ => false
  | .ffma _ => false
  | .ffmaImm _ => false
  | .fmin _ => false
  | .fminImm _ => false
  | .fmax _ => false
  | .fmaxImm _ => false
  | .fcmp _ => false
  | .fcmpImm _ => false
  | .ffrac _ => false
  | .frnd _ => false
  | .fclass _ => false
  | .hfma2 _ => false
  | .hadd2 _ => false
  | .hmul2 _ => false
  | .hdot2 _ => false
  | .dadd _ => false
  | .dmul _ => false
  | .dfma _ => false
  | .dcmp _ => false
  | .frcp _ => false
  | .frsq _ => false
  | .fsqrt _ => false
  | .fdiv _ => false
  | .fexp2 _ => false
  | .flog2 _ => false
  | .fsin _ => false
  | .fcos _ => false
  | .cvt _ => false
  | .vperm _ => false
  | .vshfl _ => false
  | .vrdl _ => false
  | .vwrl _ => false
  | .vred _ => false
  | .vscan _ => false
  | .tld _ => false
  | .tst _ => false
  | .dld _ => false
  | .dst _ => false
  | .pld _ => false
  | .pst _ => false
  | .atop _ => false
  | .atcas _ => false
  | .atcas128 _ => false
  | .mcas _ => false
  | .redb _ => false
  | .redf _ => false
  | .waita _ => false
  | .fence _ => false
  | .tcopy _ => false
  | .txform _ => false
  | .tremote _ => false
  | .tflush _ => false
  | .tfill _ => false
  | .fork _ => false
  | .rdv _ => false
  | .rast _ => false
  | .trace _ => false
  | .qfilt _ => false
  | .qhash _ => false
  | .callq _ => false
  | .tokacq _ => false
  | .tokskip _ => false
  | .enqr _ => false
  | .frel _ => false
  | .wopen _ => false
  | .wclose _ => false
  | .flreg _ => false
  | .fldrop _ => false
  | .flarr _ => false
  | .flwait _ => false
  | .fladv _ => false
  | .binit _ => false
  | .bxp _ => false
  | .bwait _ => false
  | .waitp _ => false
  | .pqlaunch _ => false
  | .mma _ => true
  | .mcb _ => true
  | .mzero _ => true
  | .mzld _ => true
  | .mzst _ => true
  | .mscal _ => true
  | .mflsig _ => true
  | .mflwait _ => true
  | .mloop _ => true
  | .mend _ => true
  | .mnop _ => true
  | .unallocatedOpcode _ => false
  | .unallocatedStreamWord _ => false
  | .clauseEntry _ => false
  | .deferredTrap _ => false
  | .doubleFault _ => false
  | .haltedGroupTimeout _ => false
  | .breakpointMatch _ => false
  | .stepTrap _ => false
  | .returnTrap _ => false
  | .returnSlotResume _ => false
  | .returnTrapTimeout _ => false
  | .slotWriteFailure _ _ => false
  | .registerFillDone _ _ => false
  | .loadResultLanding _ _ => false
  | .storePerformed _ _ => false
  | .atomicAtHome _ _ => false
  | .scFloorPublish _ => false
  | .scApplyAtHome _ _ => false
  | .crossbarGrant _ => false
  | .peerAccessAtOwner _ _ => false
  | .poundAccess _ _ _ => false
  | .mcasAdmission _ => false
  | .mcasLockGrant _ => false
  | .mcasResult _ => false
  | .mcasLockTimeout _ => false
  | .reductionDrain _ => false
  | .redfRelease _ => false
  | .fenceComplete _ => false
  | .flightWaitersReleased _ => false
  | .earlyArrivalRelease _ => false
  | .bwaitRelease _ => false
  | .pathWaitRelease _ => false
  | .sleepExpiry _ => false
  | .activeSetEntry _ _ => false
  | .pendingStarvation _ _ => false
  | .towQueueSlot _ => false
  | .towCommandStart _ => false
  | .txformExecution _ => false
  | .towCommandComplete _ => false
  | .forkServed _ => false
  | .rdvRelease _ => false
  | .mmaPinRelease _ => false
  | .mmaTileWrite _ => false
  | .groupEnd _ => false
  | .teamRetirement _ => false
  | .teamPlacement _ => false
  | .preemptionStart _ => false
  | .preemptionSave _ => false
  | .teamResume _ => false
  | .traceAdmission _ => false
  | .returnSlotsGranted _ => false
  | .bargeArrival _ => false
  | .traversalTurn _ _ => false
  | .topStep _ => false
  | .anyHitGroupStart _ => false
  | .anyHitDecision _ => false
  | .anyHitBudgetExceeded _ => false
  | .hitRecordLanding _ => false
  | .qfiltRecord _ _ => false
  | .qhashRecord _ _ => false
  | .pqlaunchComplete _ => false
  | .calledQueueRoom _ => false
  | .calledRecordApply _ => false
  | .batchHeld _ => false
  | .tessellatorRecord _ => false
  | .returnRecordLanding _ => false
  | .tokacqPerformed _ => false
  | .tokenMatchEntry _ => false
  | .matchTableRoom _ => false
  | .commandLaunch _ _ => false
  | .commandGraph _ _ => false
  | .commandWait _ _ => false
  | .commandSignal _ _ => false
  | .commandReach _ _ => false
  | .commandRung _ _ => false
  | .commandRelease _ _ => false
  | .commandReserved _ _ => false
  | .grantWaitEnd _ => false
  | .reachBalancerStep _ => false
  | .reachCoreMove _ => false
  | .reachPreemptTimeout _ => false
  | .deadlineProjection _ => false
  | .doorbell _ _ => false
  | .queueEnable _ => false
  | .queueDisable _ => false
  | .hostBar2Access _ _ _ _ => false
  | .registerWrite _ _ _ => false
  | .dutyModeWrite _ => false
  | .reachLimitWrite _ _ => false
  | .displayBlockWrite _ _ _ => false
  | .timeFreqWrite _ => false
  | .timeOffsetWrite _ => false
  | .logctlWrite _ => false
  | .loglostRead => false
  | .faultreplyRetry _ => false
  | .faultreplyFail _ => false
  | .heldFaultTimeout _ => false
  | .configChangeReload => false
  | .attestationStart => false
  | .restoreAppend => false
  | .restoreCommit => false
  | .restoreDiscard => false
  | .retrainWordWrite _ => false
  | .debugHoldWrite _ => false
  | .debugMailboxReload => false
  | .camtosWriteCommand _ _ => false
  | .camtosAddCommand _ _ => false
  | .camtosReservedOp _ _ => false
  | .camtosBodyFlit _ _ => false
  | .camtosResponse _ _ => false
  | .linkAck _ _ => false
  | .linkNak _ _ => false
  | .linkCreditUpdate _ _ _ => false
  | .flitCrcFail _ => false
  | .linkControlPeriodic _ => false
  | .replayTimeout _ => false
  | .portRetrain _ _ => false
  | .hostRetrainTimeout _ => false
  | .ptpEventMessage _ _ _ _ => false
  | .ptpLockChange _ => false
  | .frameStart _ => false
  | .frameBufferRetire _ => false
  | .displayPendingRoom _ => false
  | .powerOnBringup => false
  | .powerLimitThrottle _ => false
  | .inletClockStep _ => false
  | .patrolScrub _ => false
  | .scratchpadScrub _ _ => false
  | .dramCalibration _ _ => false
  | .serdesCalibration _ _ => false
  | .rowActivityMitigation _ _ => false
  | .agingMonitor _ => false
  | .moduleReset => false
  | .codeObjectLoad _ _ _ _ _ _ _ => false
  | .codeObjectUnload _ => false
  | .camtosPortConnect _ => false

/-- The instruction this decoder reads from a table row's bits: one 64-bit word, stored little-endian (R6, R138). -/
def decodeTableWord (_nbits w : Nat) : Option Instr :=
  match decode (Machine.toBytesLE 8 w) with
  | .ok (i, _) => some i
  | .error _ => none

end Sys2Proof
end

