-- ==== Sys2Proof/Machine/Ready.lean ====
section
/-!
DEFINITION. Which groups can issue, and which of them a partition issues: the interlocks, readiness, and the pick of a clock (R40, R49 to R51,
R55, R141, R149, R169, R354, R355).
-/
namespace Sys2Proof.Machine

/-- An any-hit group has issued its budget of instructions (R479). -/
def spent (x : Group) : Bool := x.anyHit && decide (2 ^ 24 ≤ x.issued)

/-- Group `g` can issue its next instruction as far as its own state goes: it is live and running, blocked on nothing, whole, in its
partition's active set, inside a clause, and its team runs (R40, R354, R358).
DESIGN CHOICE: notes/assumptions/4.md. -/
def canIssue (s : State) (g : Nat) : Bool :=
  let x := grp s g
  x.live != 0 && !x.ended && !x.ending && !x.halted && x.wait.code == 0 && x.filling.isNone && decide (x.sleepUntil ≤ s.clock) &&
    x.active && x.clause.isSome && x.returning == 0 && !spent x && (teamOf s g).phase == .resident

/-- The header's uniform register count (R149, Table 7-14). -/
def uniCount (s : State) (g : Nat) : Nat := (teamOf s g).hdr.sregs

/-- How an instruction stands before issue. -/
inductive Ready where
  /-- nothing stands in its way -/
  | go
  /-- its encoding raises the illegal-instruction trap with this detail (R149, R169) -/
  | illegal (detail : Nat)
  /-- it names the destination of an outstanding operation (R51) -/
  | stall (op : Nat)
  /-- it writes a pinned register (R51) -/
  | hold
  /-- it would raise a path counter above 63 (R55) -/
  | full (path : Nat)
  /-- it names a backed register (R49) -/
  | fill (reg : Nat)
deriving DecidableEq, Repr

/-- A backed register that an instruction must have filled. A register whose fill failed and that the instruction only writes needs
none (R415). -/
def needsFill (x : Group) (sg : Sig) (n : Nat) : Bool :=
  backed x n && !(regIn x.fillFailed n && !(sigVecReads sg).contains n)

/-- The registers an instruction names in the order a fill is looked for: of the lowest-numbered operand that needs one, d before a,
b and c (R422). -/
def fillOrder (sg : Sig) : List Nat :=
  (if sg.dSrc || sg.dDst then opndVecs sg.d else []) ++ opndVecs sg.a ++ opndVecs sg.b ++
    (if sg.cSrc || sg.cDst then opndVecs sg.c else [])

/-- What stands between an instruction of group `g` and its issue.
DEDUCED: notes/assumptions/13.md. -/
def readiness (s : State) (g : Nat) (path : Option Nat) (sg : Sig) : Ready :=
  let x := grp s g
  match sigDetail x.budget (uniCount s g) sg with
  | some d => .illegal d
  | none => match blockingOp s g sg with
    | some o => .stall o
    | none =>
      if (sigVecWrites sg).any (pinned s g) then .hold
      else match path with
        | some p => if 63 ≤ counter x.counters p then .full p
          else match (fillOrder sg).find? (needsFill x sg) with
            | some n => .fill n
            | none => .go
        | none => match (fillOrder sg).find? (needsFill x sg) with
          | some n => .fill n
          | none => .go

/-- The destination registers an instruction still has to find physical registers for (R50). -/
def newDests (s : State) (g : Nat) (sg : Sig) : BitVec 256 := regSet ((sigVecWrites sg).filter (fun n => !regIn (grp s g).mapped n))
/-- Those of an instruction that writes its active lanes: none without an active lane. -/
def freshDests (s : State) (g : Nat) (sg : Sig) : BitVec 256 := if activeMask s g = 0 then 0 else newDests s g sg

/-- A fetched group word as an instruction; an unallocated opcode is a term of its own (R171). -/
def instrOf (w : DWord) : Instr := (decodeWord w).getD (.unallocatedOpcode w)

/-- Instruction i of the clause in use, as its word was read (R153); none: it could not be fetched. -/
def wordAt (x : Group) (i : Nat) : Option DWord := (x.words[i]?).join

/-- Something is due at the group's instruction boundary before its next instruction. -/
def dueFirst (x : Group) : Bool :=
  x.doomed.isSome || x.slotFault.isSome || (!x.intrap && !x.pending.isEmpty) || x.stepping == some true

/-- Nothing keeps the operands of an instruction from issue now, its physical registers included (R50, R51). One whose encoding traps does
not wait. -/
def operandsReady (s : State) (g : Nat) (sg : Sig) : Bool :=
  match readiness s g none sg with
  | .go => (makeRoom g (regSet (sigVecs sg)) (freshDests s g sg) 32768 s).2
  | .illegal _ => true
  | _ => false

/-- An instruction waits for a backed register that can now be filled (R49, R50). -/
def fillReady (s : State) (g : Nat) (sg : Sig) : Bool :=
  match readiness s g none sg with
  | .fill n => (makeRoom g (regSet (sigVecs sg)) (regSet [n]) 32768 s).2
  | _ => false

/-- The operand forms of the instructions that a group issues next: one, or the members of a pair; none where a word has no form or could
not be fetched, so that it traps without waiting. -/
def nextSigs (s : State) (g : Nat) : List Sig :=
  let x := grp s g
  let i := pcIndex x.pc
  let paired : Bool := match x.clause with
    | some c => bitOf c.pair i
    | none => false
  ((if paired then [i, i + 1] else [i]).filterMap (fun j => (wordAt x j).bind (fun w => sigOf (widthOf s g) (instrOf w))))

/-- The group's next instruction can issue in this clock but for the pick (R354). -/
def issuable (s : State) (g : Nat) : Bool :=
  canIssue s g && (dueFirst (grp s g) || (nextSigs s g).all (operandsReady s g))

/-- A pending group is ready: its next instruction could issue, or the fill it waits for could begin, but for its place in the active set. -/
def pendingReady (s : State) (g : Nat) : Bool :=
  let x := grp s g
  x.live != 0 && !x.ended && !x.halted && x.wait.code == 0 && x.filling.isNone && decide (x.sleepUntil ≤ s.clock) &&
    (teamOf s g).phase == .resident && x.stalledOn.all (fun o => (op s o).finished) &&
    (x.clause.isNone || dueFirst x || (nextSigs s g).all (fun sg => operandsReady s g sg || fillReady s g sg))

/-! ## The pick (R141, R355) -/

/-- C: the ready groups of a partition's active set. -/
def contenders (s : State) (core part : Nat) : List Nat := (partitionGroups s core part).filter (issuable s)

/-- `a` comes before `b`: earlier entry stamp, then lower `%groupid`, then the older team. -/
def entersBefore (s : State) (a b : Nat) : Bool :=
  let x := grp s a
  let y := grp s b
  decide (x.entryStamp < y.entryStamp) || (x.entryStamp == y.entryStamp && (decide (x.gid < y.gid) || (x.gid == y.gid &&
    decide ((teamOf s a).placedNo < (teamOf s b).placedNo))))

/-- The first of a list by a strict order. -/
def firstBy (before : Nat → Nat → Bool) : List Nat → Option Nat
  | [] => none
  | a :: t => some (t.foldl (fun b c => if before c b then c else b) a)

/-- L: those that have been ready and have not issued for 32 clocks or more. -/
def longIdle (s : State) (gs : List Nat) : List Nat := gs.filter (fun g => (grp s g).idleFrom.any (fun t => decide (t + 32 ≤ s.clock)))

/-- The group from which the partition does not switch: the one that issued last, in the middle of its clause, while it can issue (R141). -/
def midClause (s : State) (core part : Nat) : Option Nat :=
  (firstBy (fun a b => decide ((grp s b).lastIssue < (grp s a).lastIssue)) (partitionGroups s core part)).filter
    (fun g => (grp s g).clause.isSome && pcIndex (grp s g).pc != 0 && issuable s g)

/-- The group a partition picks (R355).
DEDUCED: notes/assumptions/127.md. -/
def leader (s : State) (core part : Nat) : Option Nat :=
  let c := contenders s core part
  let l := longIdle s c
  match midClause s core part with
  | some g => some g
  | none => firstBy (entersBefore s) (if l.isEmpty then c else l)

/-- Class of a group's clause; 0: mixed. -/
def clauseClass (x : Group) : Nat := (x.clause.map (·.cls)).getD 0

/-- S: the groups a partition issues with group `g`, of those in a list by entry stamp (R30, R355). -/
def coIssue (s : State) (g : Nat) (gs : List Nat) : List Nat :=
  let w := widthOf s g
  if 32 ≤ w ∨ clauseClass (grp s g) = 0 then [g]
  else g :: ((gs.filter (fun h => h != g && widthOf s h == w && clauseClass (grp s h) == clauseClass (grp s g))).mergeSort
    (fun a b => !entersBefore s b a)).take (32 / w - 1)

/-- Group `g` may take its turn: it does not issue, or its partition picks it. -/
def mayTurn (s : State) (g : Nat) : Bool :=
  let core := coreOf s g
  let part := partitionOf s g
  !issuable s g || (match leader s core part with
    | some h => (coIssue s h (contenders s core part)).contains g
    | none => true)

/-- The clock ends: groups that are ready and have not issued are noted, from when (R355). -/
def noteIdle (s : State) : State :=
  (List.range s.groups.length).foldl (fun t g =>
    modGrp t g (fun x => { x with idleFrom := if issuable s g then some (x.idleFrom.getD s.clock) else none })) s

end Sys2Proof.Machine
end

