-- ==== Sys2Proof/Machine/Ops.lean ====
section
/-!
DEFINITION. The operations the meanings share: clauses and control flow (chapters 07 and 09), taking a trap and returning from one
(chapter 24), deferred errors, and the active set.
-/
namespace Sys2Proof.Machine

/-! ## Fetch and clause headers (R138 to R143, R111) -/

/-- The code object of group `g`'s grid. -/
def codeOf (s : State) (g : Nat) : CodeObj := s.codes.getD (gridOf s g).code {}

/-- Physical address of a code word by the code map (R111). -/
def codePhys (c : CodeObj) (va : Nat) : Option Nat :=
  if c.flat then some va
  else if va < c.base then none
  else ((c.pages[(va - c.base) / 32768]?).bind id).map (fun p => p + va % 32768)

/-- Whether the pound may hold the sector of a code word: the bit of its page (R108). -/
def codePound (c : CodeObj) (va : Nat) : Bool := c.flat || c.pounds.getD ((va - c.base) / 32768) false

/-- Read the 8-byte word at `va` for a group: inside `.text` of its code object, and readable (R111, R424), through the pound where there is
one (R110). -/
def fetching (s : State) (g va : Nat) : State × Option DWord :=
  let c := codeOf s g
  if va < c.text.1 ∨ c.text.2 < va + 8 ∨ (c.flat ∧ !arenaOk s (quayStackOf ((teamOf s g).idCore.getD (coreOf s g))) c.ctx va 8 true false) then
    (s, none)
  else match codePhys c va with
    | none => (s, none)
    | some p =>
      if !physOk s.poundSize p 8 then (s, none)
      else match storeCheck s p 8 false (codePound c va) with
        | (s1, some _) => (s1, none)
        | (s1, none) => (s1, some (BitVec.ofNat 64 (rd s1 p 8)))
/-- The word that a fetch gives. -/
def fetch (s : State) (g va : Nat) : Option DWord := (fetching s g va).2

/-- Read `n` words of code from `va`, in order. -/
def readWords (g va : Nat) : Nat → State → State × List (Option DWord)
  | 0, s => (s, [])
  | n + 1, s =>
    let r := fetching s g va
    let t := readWords g (va + 8) n r.1
    (t.1, r.2 :: t.2)

/-- The issue class of an opcode byte (Table 8-2); 0 for an unallocated one (R172). -/
def classOfOpcode (o : Nat) : Nat :=
  if (0x01 ≤ o ∧ o ≤ 0x17) ∨ (0x20 ≤ o ∧ o ≤ 0x34) ∨ o = 0x38 ∨ o = 0x39 ∨ (0x40 ≤ o ∧ o ≤ 0x46) ∨ (0x48 ≤ o ∧ o ≤ 0x4D) ∨
      (0x50 ≤ o ∧ o ≤ 0x58) then 1
  else if (0x61 ≤ o ∧ o ≤ 0x79) ∨ (0x80 ≤ o ∧ o ≤ 0x8F) then 2
  else if (0xA0 ≤ o ∧ o ≤ 0xAD) ∨ (0xC0 ≤ o ∧ o ≤ 0xC6) then 3
  else if 0xB0 ≤ o ∧ o ≤ 0xB3 then 4
  else if 0xB8 ≤ o ∧ o ≤ 0xBF then 5
  else if 0xD0 ≤ o ∧ o ≤ 0xD6 then 6
  else if (0xE0 ≤ o ∧ o ≤ 0xE5) ∨ (0xE8 ≤ o ∧ o ≤ 0xEF) ∨ (0xF0 ≤ o ∧ o ≤ 0xFA) then 7
  else if (0x90 ≤ o ∧ o ≤ 0x9F) ∨ o = 0xFE then 8
  else 0

/-- The fields of a clause header (Table 7-1). -/
def headerOf (w : DWord) : Clause :=
  let x := w.toNat
  { cls := bitField x 60 4, count := bitField x 56 4 + 1, wpath := bitField x 53 3, wthresh := bitField x 48 5,
    pair := bitField x 33 15, yield := bitOf x 32 }

/-- The header checks of R140 that the header word alone decides. -/
def headerWordOk (w : DWord) : Bool :=
  let h := headerOf w
  bitField w.toNat 0 32 == 0 && decide (h.cls ≤ 8) && h.wpath != 6 && (h.wpath != 7 || h.wthresh == 0) &&
    decide (h.pair < 2 ^ (h.count - 1)) && h.pair &&& (h.pair * 2) == 0

/-- Every word of a clause with a nonzero class is of that class (R140, R172). A word that cannot be fetched is answered when it is
reached. -/
def classOk (h : Clause) (ws : List (Option DWord)) : Bool :=
  h.cls == 0 || ws.all (fun w => match w with
    | none => true
    | some w => classOfOpcode (bitField w.toNat 56 8) == h.cls)

/-- Read the words of the clause at a header, whose word is `w`, once each (R153), and check them and the header (R140): the clause with its
words, or none. -/
def readClause (s : State) (g base : Nat) (w : DWord) : State × Option (Clause × List (Option DWord)) :=
  if !headerWordOk w then (s, none)
  else
    let r := readWords g (base + 8) (headerOf w).count s
    (r.1, if classOk (headerOf w) r.2 then some (headerOf w, r.2) else none)

/-- A header and whether it passes R140. -/
def headerOk (s : State) (g base : Nat) (w : DWord) : Bool := (readClause s g base w).2.isSome

/-- Whether an instruction must end its clause (R143): opcode, and for `loop` the rule's own condition, which every `loop` meets, its
body starting at the next clause (R193). -/
def endsClause (opcode : Nat) : Bool :=
  opcode == 0x50 || opcode == 0x51 || opcode == 0x52 || opcode == 0x53 || opcode == 0x54 || opcode == 0x48 || opcode == 0x49 ||
    opcode == 0x58 || opcode == 0x4D || opcode == 0x55

/-! ## Taking a trap (R400, R408 to R413) -/

/-- End a group's issue: its live mask is cleared, and R42 follows. -/
def endGroup (s : State) (g : Nat) : State :=
  modGrp s g (fun x => { x with live := 0, exec := 0, ending := true, wait := {}, halted := false, clause := none, returning := 0 })

/-- A fault inside a handler halts the group (R413): code 0x01F0, class 2, with the second cause as its detail. -/
def doubleFault (s : State) (g cause : Nat) : State :=
  let s1 := logGroup s g 0x01F0 2 cause none
  modGrp s1 g (fun x => { x with halted := true, haltedAt := timeOf s1, doomed := none, active := false })

/-- The word of `%trapcause` (Table 3-6). -/
def trapWord (cause detail : Nat) (addr : Option Nat) : Word :=
  BitVec.ofNat 32 (cause + (if addr.isSome then 256 else 0) + detail % 65536 * 65536)

/-- Trap entry as one event (R410): the trap registers, intrap, exec := live and pc := `%trapbase`. The group's pc is the instruction
that `%trappc` is to name.
DESIGN CHOICE: notes/assumptions/128.md. -/
def enterTrap (cause detail : Nat) (addr : Option Nat) (x : Group) : Group :=
  { x with trapcause := trapWord cause detail addr, trappc := x.pc, trapexec := x.exec,
           faultaddr := match addr with
             | some a => BitVec.ofNat 64 a
             | none => x.faultaddr,
           intrap := true, exec := x.live, pc := x.trapbase, clause := none, wait := {}, waitUnder := false, pairing := .alone, stepping := none,
           resumed := false, traps := x.traps + 1 }

/-- Take a trap: inside a handler it is a double fault (R413); without a handler it ends the group with a class 2 record (R400);
otherwise it enters the handler. A breakpoint or software trap taken with a handler writes no record.
DEDUCED: notes/assumptions/65.md. -/
def takeTrapBy (s : State) (g : Nat) (d : Deferred) : State :=
  let x := grp s g
  if x.intrap then doubleFault s g d.cause
  else if x.trapbase = 0 then endGroup (logGroupBy s g (0x0100 + d.cause) 2 d) g
  else
    let s1 := if d.cause = 2 ∨ d.cause = 3 then s else logGroupBy s g (0x0100 + d.cause) 1 d
    modGrp s1 g (enterTrap d.cause d.detail d.addr)

/-- Take a trap that the group's core detected. -/
def takeTrap (s : State) (g cause detail : Nat) (addr : Option Nat) : State := takeTrapBy s g { cause, detail, addr }

/-- The illegal-instruction trap (R172). -/
def trapIllegal (s : State) (detail : Nat) : State := takeTrap s s.cur 1 detail none

/-- The handler in which a group is: the number of its trap; 0: none. -/
def handlerOf (x : Group) : Nat := if x.intrap then x.traps else 0

/-- A deferred error reaches its group (R409, R413): of an operation that the handler issued, while that handler still runs, it is a
double fault to come; any other is pending. A group that has ended, or that halts already, is answered by its record alone (R393).
DEDUCED: notes/assumptions/129.md. -/
def raiseDeferred (s : State) (g : Nat) (handler : Nat) (d : Deferred) : State :=
  let x := grp s g
  let d := { d with since := some (d.since.getD (timeOf s)) }
  if x.live = 0 then logGroupBy s g (0x0100 + d.cause) 2 d
  else if handler ≠ 0 ∧ handler = handlerOf x then
    (if x.halted ∨ x.doomed.isSome then logGroupBy s g (0x0100 + d.cause) 2 d
     else modGrp s g (fun x => { x with doomed := some d.cause }))
  else modGrp s g (fun x => { x with pending := x.pending ++ [d] })

/-- Answer every error pending at an instruction boundary with one trap for the earliest; each of the others has its own record
(R393, R409). -/
def takePending (s : State) (g : Nat) : State :=
  match (grp s g).pending with
  | [] => s
  | d :: rest =>
    let s1 := takeTrapBy (modGrp s g (fun x => { x with pending := [] })) g d
    rest.foldl (fun s e => logGroupBy s g (0x0100 + e.cause) (if (grp s g).live = 0 then 2 else 1) e) s1

/-! ## The active and the pending set (R354) -/

/-- Take a group out of its partition's active set. -/
def leaveActive (x : Group) : Group := { x with active := false, readyStamp := none }

/-- A group enters the active set now. -/
def enterActive (s : State) (g : Nat) : State :=
  modGrp s g (fun x => { x with active := true, entryStamp := s.clock, readyStamp := none, stalledOn := none })

/-- Of the ready pending groups in a list, the one with the earliest ready stamp. -/
def oldestReady (s : State) (gs : List Nat) : Option Nat :=
  (gs.filter (fun h => !(grp s h).active && pendingReady s h)).foldl (fun best h =>
    match best with
    | none => some h
    | some b => if (grp s h).readyStamp.getD s.clock < (grp s b).readyStamp.getD s.clock then some h else some b) none

/-- A group trades places with the oldest ready group of its partition's pending set, if there is one (R140). -/
def yieldExchange (s : State) (g : Nat) : State :=
  match oldestReady s (partitionGroups s (coreOf s g) (partitionOf s g)) with
  | none => s
  | some h => enterActive (modGrp s g (fun x => { leaveActive x with readyStamp := some s.clock })) h

/-- Block a group: block code, wait object and operand (R40, Table 3-9). It leaves the active set.
DEDUCED: notes/assumptions/18.md. -/
def block (s : State) (g code obj opnd : Nat) : State :=
  modGrp s g (fun x => { leaveActive x with wait := { code, obj, opnd } })

/-- End a group's block: it is ready, and pending. -/
def unblock (s : State) (g : Nat) : State := modGrp s g (fun x => { x with wait := {}, readyStamp := some s.clock })

/-! ## Moving the pc (R138, R142, R194) -/

/-- The loop-end check of R194 for a clause at header `h`: the registers after it and the back edge, if one is taken. `n` bounds the
live registers still to examine. -/
def loopEnd (h : Nat) : Nat → Group → Group × Option DWord
  | 0, x => (x, none)
  | n + 1, x =>
    let l := loopReg x n
    if l.stop.toNat ≠ h then (x, none)
    else if 1 < l.count.toNat then (setLoopReg n { l with count := l.count - 1 } x, some l.start)
    else loopEnd h n (setLoopReg n { l with count := 0 } x)

/-- The address after a clause at header `h` of `n` instructions: h + 8 + 8·n (R138). -/
def nextClause (h n : Nat) : Nat := h + 8 + 8 * n

/-- The clause of a group; it has one whenever it issues. -/
def clauseOf (x : Group) : Clause := x.clause.getD { cls := 0, count := 1, wpath := 7, wthresh := 0, pair := 0, yield := false }

/-- A group leaves its clause after the clause's last instruction: the header's yield bit, `yield` or `sleep` takes effect (R140, R198,
R199). `x` is the group as it was in the clause. -/
def leaveClause (s : State) (g : Nat) (x : Group) : State :=
  let h := pcHeader x.pc
  let s1 := modGrp s g (fun y => { y with yielding := y.yielding.filter (fun p => p.1 != h) })
  match (x.yielding.find? (fun p => p.1 == h)).map (·.2) with
  | some (t + 1) => modGrp s1 g (fun y => { leaveActive y with sleepUntil := s1.clock + (t + 1) })
  | some 0 => yieldExchange s1 g
  | none => if (clauseOf x).yield then yieldExchange s1 g else s1

/-- A `yield`, or a `sleep` of `t` clocks, is to take effect after the clause in use (R198, R199). -/
def yieldAfter (t : Nat) (x : Group) : Group :=
  let h := pcHeader x.pc
  let old := ((x.yielding.find? (fun p => p.1 == h)).map (·.2)).getD 0
  { x with yielding := (h, max old t) :: x.yielding.filter (fun p => p.1 != h) }

/-- After the last instruction of a clause that no transfer leaves (R194): a back edge or the next clause. -/
def endClause (s : State) (g : Nat) : State :=
  let x := grp s g
  let h := pcHeader x.pc
  let (x1, back) := loopEnd h (liveLoops x) x
  leaveClause (setGrp s g { x1 with pc := back.getD (mkPc (nextClause h (clauseOf x).count) 0), clause := none }) g x

/-- Arm the step trap to follow the instruction just issued (R499), which breakpoints match again (R498). -/
def stepped (x : Group) : Group :=
  { x with stepping := if x.stepping = some false then some true else x.stepping, resumed := false }

/-- Move past the instruction just issued: to the next of its clause, or out of it. -/
def advance (s : State) (g : Nat) : State :=
  let x := stepped (grp s g)
  let i := pcIndex x.pc
  if i + 1 < (clauseOf x).count then setGrp s g { x with pc := mkPc (pcHeader x.pc) (i + 1) } else endClause (setGrp s g x) g

/-- Read the header and the words of the clause that the pc names, in the middle of it (R142); the header has passed its check. -/
def reenterClause (s : State) (g : Nat) : State :=
  let h := pcHeader (grp s g).pc
  match fetching s g h with
  | (s1, none) => s1
  | (s1, some w) => match readClause s1 g h w with
    | (s2, none) => s2
    | (s2, some (c, ws)) => modGrp s2 g (fun x => { x with clause := some c, words := ws })

/-- Transfer control to a PC value: the clause is left, and the header at the target is entered at index 0, or re-read without its
wait at an index above 0 (R142). -/
def jumpTo (s : State) (g : Nat) (pc : DWord) : State :=
  let x := stepped (grp s g)
  let t := setGrp s g { x with pc := pc, clause := none }
  leaveClause (if pcIndex pc = 0 then t else reenterClause t g) g x

/-- How R142 answers a PC value used by a transfer. -/
inductive PcCheck where
  | good
  /-- rejected: cause 0x0C -/
  | target
  /-- its header cannot be fetched: cause 0x07 -/
  | noFetch
deriving DecidableEq, Repr

/-- Whether the clause header that a PC value names can be fetched, passes R140 and has an instruction of its index. -/
def headerCheck (s : State) (g : Nat) (pc : DWord) : PcCheck :=
  match fetch s g (pcHeader pc) with
  | none => .noFetch
  | some w => if pcIndex pc < (headerOf w).count ∧ headerOk s g (pcHeader pc) w then .good else .target

/-- The check of a PC value used by `ret`, `trapret` or a resume (R142).
DEDUCED: notes/assumptions/11.md. -/
def checkPc (s : State) (g : Nat) (pc : DWord) : PcCheck :=
  if bitField pc.toNat 57 3 ≠ 0 ∨ pcHeader pc % 8 ≠ 0 then .target
  else if pcIndex pc = 0 then .good
  else headerCheck s g pc

/-- The check of the `%trappc` to which a `trapret` returns: R142's, and its target must be a clause header at index 0 too (R412).
DEDUCED: notes/assumptions/14.md. -/
def returnCheck (s : State) (g : Nat) (pc : DWord) : PcCheck :=
  match checkPc s g pc with
  | .good => headerCheck s g pc
  | r => r

/-- Whether an armed step entry matches a group: a group of a compute core in the debugged context (R499). -/
def stepMatches (s : State) (g : Nat) : Bool :=
  !isQuayCore (coreOf s g) && (gridOf s g).ctx == s.dbg.dctx && s.dbg.step == some (coreOf s g, (grp s g).gid)

/-- Disarm the step entry: its enable is cleared in the mailbox (R499). -/
def disarmStep (s : State) : State :=
  let s1 : State := { s with dbg := { s.dbg with step := none } }
  match s.dbg.base with
  | none => s1
  | some b => wr s1 (b + 0x25) 1 (rd s1 (b + 0x25) 1 / 2 * 2)

/-- Return from a trap (R202, R412), in a group whose intrap bit is 1: clears intrap, exec := `%trapexec` AND `%live`, continues at
`%trappc`; an armed step entry takes effect (R499). A `%trappc` that R142 rejects, or that names no clause header, is a fault
inside the handler (R413), with second cause 0x0C, or 0x07 when its header cannot be fetched.
DEDUCED: notes/assumptions/14.md. -/
def returnFromTrap (s : State) (g : Nat) : State :=
  let x := grp s g
  match returnCheck s g x.trappc with
  | .target => doubleFault s g 0x0C
  | .noFetch => doubleFault s g 7
  | .good =>
    let s1 := jumpTo (modGrp s g (fun x => { x with intrap := false, exec := x.trapexec &&& x.live })) g x.trappc
    let s2 := modGrp s1 g (fun x => { x with resumed := true, stepping := if stepMatches s g then some false else none })
    if stepMatches s g then disarmStep s2 else s2

/-- After an instruction that met arithmetic events: the sticky flags are set, the pc moves on, and an enabled event's trap follows, for
a member of a pair after both members (R152, R207). -/
def finishFlags (s : State) (g met : Nat) : State :=
  let x := grp s g
  let enabled := met &&& x.trapen.toNat
  let s1 := advance (modGrp s g (fun x => { x with fpflags := x.fpflags ||| BitVec.ofNat 32 met })) g
  if x.pairing = .alone then (if enabled = 0 then s1 else takeTrap s1 g 4 enabled none)
  else modGrp s1 g (fun x => { x with pairFlags := x.pairFlags ||| enabled })

/-- Both members of a pair have issued: the trap of an enabled event either met follows (R152). -/
def finishPair (s : State) (g : Nat) : State :=
  let met := (grp s g).pairFlags
  let s1 := modGrp s g (fun x => { x with pairing := .alone, pairFlags := 0 })
  if met = 0 then s1 else takeTrap s1 g 4 met none

end Sys2Proof.Machine
end

