-- ==== Sys2Proof/Machine/Issue.lean ====
section
/-!
DEFINITION. What every group instruction has in common: when a group can issue, the checks of R422 that do not depend on the
instruction's effect, the interlocks, and the accounts an issue keeps (R21, R40, R49 to R55, R149, R169, R318, R354).
-/
namespace Sys2Proof.Machine

/-- The lowest address of an empty word that a `.fe` or `.take` lane of operation `o` waits for, as its lane names it. -/
def waitedWord (s : State) (o : Nat) : Option Nat :=
  let x := op s o
  ((s.sync.waiters.filter (fun w => w.1 == o)).flatMap (fun w =>
    (x.lanes.filter (fun r => r.lane == w.2)).flatMap (fun r =>
      ((List.range ((x.size + 3) / 4)).filter (fun i => !isFull s (r.addr + 4 * i))).map (fun i => r.named / 4 * 4 + 4 * i)))).min?

/-- Wait for an operation whose destination the instruction names. The group blocks for a full/empty word that the operation waits for (R40,
R235, Table 3-9). It leaves the active set for a result that comes on `ds`, `pw`, `qy`, `cq` or `at` (R354). -/
def stallOn (s : State) (g o : Nat) : State :=
  match waitedWord s o, (op s o).path with
  | some a, p => modGrp (block s g 3 a (p.getD 0)) g (fun x => { x with stalledOn := some o })
  | none, some (_ + 1) => modGrp s g (fun x => { leaveActive x with stalledOn := some o })
  | none, _ => s

/-- Begin the fill of vn (R49, R50): a physical register is found. The group leaves the active set, and without one it waits for one. -/
def startFill (s : State) (g n : Nat) (sg : Sig) : State :=
  match makeRoom g (regSet (sigVecs sg)) (regSet [n]) 32768 s with
  | (s1, false) => modGrp s1 g leaveActive
  | (s1, true) => modGrp s1 g (fun x => { leaveActive x with filling := some n })

/-- Raise the return trap (R318): the group stops before the instruction. -/
def raiseReturn (s : State) (g : Nat) : State :=
  modGrp s g (fun x => { x with returning := 1, returnAt := timeOf s })

/-- Stamp the registers an instruction names (R50). -/
def stampRegs (q : Nat) : List Nat → List (Nat × Nat) → List (Nat × Nat)
  | [], m => m
  | n :: t, m => stampRegs q t (mapSet 0 n q m)

/-- The accounts of an issue, the module's number q, in its group. The vector instructions are those of issue classes 2 to 6.
DESIGN CHOICE: notes/assumptions/130.md. -/
def countIssue (q lanes : Nat) (sg : Sig) (x : Group) : Group :=
  let vec : Bool := decide (2 ≤ sg.cls ∧ sg.cls ≤ 6)
  { x with lastIssue := q, issued := x.issued + 1, idleFrom := none, access := stampRegs q (sigVecs sg) x.access,
           vecIssued := if vec then x.vecIssued + 1 else x.vecIssued,
           vecLanes := if vec then x.vecLanes + lanes else x.vecLanes }

/-- The accounts of an issue: its order in the module, the registers accessed, and exec density (R23, R50).
DEDUCED: notes/assumptions/104.md. -/
def noteIssue (s : State) (g : Nat) (sg : Sig) : State :=
  let lanes := popCount (activeMask s g).toNat 64
  modGrp { s with seq := s.seq + 1 } g (fun x => countIssue (s.seq + 1) lanes sg x)

/-- What an instruction that does not issue does to its group. -/
def notReady (s : State) (g : Nat) (sg : Sig) : Ready → State
  | .go => s
  | .illegal d => takeTrap s g 1 d none
  | .stall o => stallOn s g o
  | .hold => s
  | .full p => block s g 5 p 62
  | .fill n => startFill s g n sg

/-- Issue an instruction of the acting group: `path` is the path counter it raises, `quay` whether a quay core executes it (R318), `fresh`
the registers it needs physical ones for. The body runs once nothing stands in its way; otherwise the group traps, waits or stays as it
is. -/
def issueWith (path : Option Nat) (quay : Bool) (fresh : BitVec 256) (sg : Sig) (body : State → Res) (s : State) : Res :=
  let g := s.cur
  if !canIssue s g then .next s
  else if isQuayCore (coreOf s g) && !quay then .next (raiseReturn s g)
  else match readiness s g path sg with
    | .go => match makeRoom g (regSet (sigVecs sg)) fresh 32768 s with
      | (s1, false) => .next s1
      | (s1, true) => body (noteIssue s1 g sg)
    | r => .next (notReady s g sg r)

/-- Issue an instruction that writes its active lanes. -/
def issueOn (path : Option Nat) (quay : Bool) (sg : Sig) (body : State → Res) (s : State) : Res :=
  issueWith path quay (freshDests s s.cur sg) sg body s

/-- Issue an instruction of classes 1, 2, 3, 5 or 6, which a quay core executes, that raises no path counter. -/
def issue (sg : Sig) (body : State → Res) (s : State) : Res := issueOn none true sg body s

end Sys2Proof.Machine
end

