-- ==== Sys2Proof/Machine/Values.lean ====
section
/-!
DEFINITION. The values operands deliver (R145, Table 7-3), type codes (Table 8-3) and integer conditions (Table 8-4).
-/
namespace Sys2Proof.Machine

/-- A special source in a 32-bit operand (Table 7-3); `lane` is `%laneid`. -/
def special32 (code lane : Nat) : Word :=
  match code with
  | 0 => BitVec.ofNat 32 lane
  | 1 => 0
  | 2 => 1
  | 3 => 0xFFFFFFFF
  | 4 => 0x3F800000
  | 5 => 0xBF800000
  | 6 => 0x3F000000
  | 7 => 0x40000000
  | _ => 0

/-- A special source in a 64-bit operand (Table 7-3). -/
def special64 (code lane : Nat) : DWord :=
  match code with
  | 0 => BitVec.ofNat 64 lane
  | 1 => 0
  | 2 => 1
  | 3 => 0xFFFFFFFFFFFFFFFF
  | 4 => 0x3FF0000000000000
  | 5 => 0xBFF0000000000000
  | 6 => 0x3FE0000000000000
  | 7 => 0x4000000000000000
  | _ => 0

/-- A uniform source of kind 1 or 2 (R177). -/
def uniWord (x : Group) (k : BitVec 2) (n : Byte) : Word := if k = 1 then sreg x n.toNat else special32 n.toNat 0
/-- A uniform pair source. -/
def uniPair (x : Group) (k : BitVec 2) (n : Byte) : DWord := if k = 1 then spair x n.toNat else special64 n.toNat 0

/-- What a source delivers to lane `l`: 32 bits (R145). -/
def srcWord (x : Group) (k : BitVec 2) (n : Byte) (l : Nat) : Word :=
  if k = 0 then vlane x n.toNat l else if k = 1 then sreg x n.toNat else special32 n.toNat l
/-- What a source delivers to lane `l`: 64 bits. -/
def srcPair (x : Group) (k : BitVec 2) (n : Byte) (l : Nat) : DWord :=
  if k = 0 then vpair x n.toNat l else if k = 1 then spair x n.toNat else special64 n.toNat l

/-- The immediate extended to 64 bits with its sign. -/
def sextImm (imm : Word) : DWord := imm.signExtend 64

/-- Type codes of integers that are signed: i32, i64, i16, i8 (Table 8-3). -/
def typeSigned (t : Nat) : Bool := t == 0 || t == 2 || t == 4 || t == 6
/-- Bits of a type code (Table 8-3). -/
def typeBits (t : Nat) : Nat :=
  match t with
  | 0 => 32
  | 1 => 32
  | 2 => 64
  | 3 => 64
  | 4 => 16
  | 5 => 16
  | 6 => 8
  | 7 => 8
  | 8 => 32
  | 9 => 64
  | 0xA => 16
  | 0xB => 16
  | _ => 0
/-- A bit pattern read as an integer of its type. -/
def typed (t x : Nat) : Int := if typeSigned t then signed (typeBits t) x else (x % 2 ^ typeBits t : Nat)

/-- An integer condition of Table 8-4, codes 0x0 to 0x5. -/
def intCond (c : Nat) (x y : Int) : Bool :=
  match c with
  | 0 => decide (x = y)
  | 1 => decide (x ≠ y)
  | 2 => decide (x < y)
  | 3 => decide (x ≤ y)
  | 4 => decide (y < x)
  | _ => decide (y ≤ x)

/-- Condition and type of an immediate compare (R167): codes 0xA to 0xD are 0x2 to 0x5 on n32. -/
def immCond (op : Nat) : Nat × Nat := if 0xA ≤ op then (op - 8, 1) else (op, 0)

end Sys2Proof.Machine
end

