-- ==== Sys2Proof/Machine/Perform.lean ====
section
/-!
DEFINITION. Performing accesses at their homes: full/empty waiters, wait-on-address, line locks, Lamport clocks, landings, flights, and
the landing of results (spec/05_memory_spaces.md, spec/06_memory_model.md, spec/12_isa_memory_sync.md).

Every write, whoever makes it, goes through `writeLoc` or `writeLocBytes`, so that waiters and armed entries see it (R97, R250).
-/
namespace Sys2Proof.Machine

/-! ## Homes and Lamport clocks (R120, R131) -/

/-- The home of a location (Table 6-1), as a number; in team scratchpad it is the bank of the word (R95). -/
def homeOf (s : State) (a : Nat) : Nat :=
  if 2 ^ 53 ≤ a then 2 ^ 20 + 32 * ((a - 2 ^ 53) / 2 ^ 19) + a / 4 % 32
  else if 2 ^ 52 ≤ a then 64 * ((a - 2 ^ 52) / 2 ^ 27) + (a - 2 ^ 52) % 2 ^ 27 / 128 % 64
  else match regionOf s.poundSize a with
    | .stack k => 1000 + k
    | .lpddr c => if 0 < s.poundSize then 2000 + (poundPlace s.poundSize a).1 else 3000 + c
    | .host => 4000
    | .hole => 5000

/-- A core's clock. -/
def coreClock (s : State) (c : Nat) : Nat := mapGet 0 s.sync.clocks c
/-- Set a core's clock. -/
def setCoreClock (s : State) (c v : Nat) : State := { s with sync := { s.sync with clocks := mapSet 0 c v s.sync.clocks } }

/-- The homes of `n` bytes from a location: of each word of team scratchpad, of each line of die scratchpad, of each 512 bytes beyond. -/
def homesUnder (s : State) (a n : Nat) : List Nat :=
  let unit := if 2 ^ 53 ≤ a then 4 else if 2 ^ 52 ≤ a then 128 else 512
  (List.range ((a + n - 1) / unit + 1 - a / unit)).map (fun i => homeOf s ((a / unit + i) * unit))

/-- An access of core `c` is performed at a home: a write leaves the core's clock there, and the completion brings back the home's (R131). -/
def touchOne (c : Nat) (write : Bool) (s : State) (h : Nat) : State :=
  let k := coreClock s c
  let v := mapGet 0 s.sync.homeClocks h
  let v1 := if write then max v k else v
  { s with sync := { s.sync with clocks := mapSet 0 c (max k v1) s.sync.clocks,
                                 homeClocks := mapSet 0 h v1 s.sync.homeClocks } }
/-- An access of core `c` to `n` bytes from `a` is performed at their homes. -/
def touchHome (s : State) (c a n : Nat) (write : Bool) : State := (homesUnder s a n).eraseDups.foldl (touchOne c write) s

/-- No line under `n` bytes from `a` is locked by another operation than `o` (R245). -/
def unlocked (s : State) (o a n : Nat) : Bool :=
  s.sync.locks.all (fun p => p.2 == o || !(decide (p.1 < a + n) && decide (a < p.1 + 128)))

/-- No operation's number: an agent that is no operation of a group. -/
def noOp : Nat := 2 ^ 64

/-! ## Lanes of an operation -/

/-- A lane fails: it makes no access, and its error waits for the operation to end (R409, R423). -/
def failLane (s : State) (o lane : Nat) (d : Deferred) : State :=
  modOp s o (fun x => { x with failed := x.failed ++ [(lane, d)], performed := x.performed ||| laneBit lane })

/-- The deferred error of uncorrectable data (cause 0x0B). -/
def dataError (b : BadData) (detail : Nat) : Deferred :=
  { cause := 0x0B, detail, addr := some b.addr, unit := some (b.kind, b.unit), flags := 2 }

/-- Number of the path an operation counts on; 6 for a store (R458). -/
def pathDetail (x : Op) : Nat := x.path.getD 6

/-- A lane of a load takes its value at the home (R235, Table 5-3); `take` empties the words. -/
def loadLane (s : State) (o : Nat) (r : LaneReq) (take : Bool) : State :=
  let x := op s o
  match storeCheck s r.addr x.size false r.pound with
  | (s1, some b) => failLane s1 o r.lane (dataError b (pathDetail x))
  | (s1, none) =>
    let v := rd s1 r.addr x.size
    lanePerformed (touchHome (if take then markFull s1 r.addr x.size false else s1) (coreOf s x.g) r.addr x.size take) o r.lane (some v)

/-! ## Full/empty waiters (R97) -/

/-- The request of a lane of an operation. -/
def laneReq (x : Op) (lane : Nat) : LaneReq :=
  (x.lanes.find? (fun r => r.lane == lane)).getD { lane, addr := 0, named := 0, data := 0, cmp := 0 }

/-- An operation's full/empty mode. -/
def feMode (x : Op) : Nat := match x.kind with
  | .load m => m
  | _ => 0

/-- Serve the waiters of a list in arrival order: one whose words are all full is served, the others keep their places. -/
def serveList : List (Nat × Nat) → State → State × List (Nat × Nat)
  | [], s => (s, [])
  | (o, l) :: t, s =>
    let x := op s o
    let r := laneReq x l
    if allFull s r.addr x.size then serveList t (loadLane s o r (feMode x == 2))
    else
      let (s1, kept) := serveList t s
      (s1, (o, l) :: kept)

/-- Serve every waiter that can be served. -/
def serveWaiters (s : State) : State :=
  let (s1, kept) := serveList s.sync.waiters s
  { s1 with sync := { s1.sync with waiters := kept } }

/-! ## Wait-on-address (R250) -/

/-- The test of an armed entry on a word. -/
def armedTest (e : Armed) (w : Nat) : Bool :=
  let rdv (x : Nat) : Int := if e.isSigned then signed (8 * e.size) x else (x : Int)
  intCond e.cond (rdv (w &&& e.mask)) (rdv (e.expected &&& e.mask))

/-- An entry that a write under `n` bytes from `a` makes true. -/
def wakesOn (s : State) (a n : Nat) (e : Armed) : Bool :=
  decide (e.addr < a + n) && decide (a < e.addr + e.size) && armedTest e (rd s e.addr e.size)

/-- Wake a group: sd := 0 and its block ends. -/
def wakeGroup (s : State) (e : Armed) : State := unblock (modGrp s e.g (setSreg e.dreg 0)) e.g

/-- A group is parked with its team. -/
def isParked (s : State) (g : Nat) : Bool := (teamOf s g).phase == .parked

/-- A group's team is on its core and runs: a wait of it can end (R358). -/
def onCore (s : State) (g : Nat) : Bool := (teamOf s g).phase == .resident

/-- An entry that has been satisfied wakes its group, or is kept with a parked one until it resumes (R41). -/
def wakeEntry (s : State) (e : Armed) : State :=
  if isParked s e.g then modGrp s e.g (fun x => { x with woke := some e }) else wakeGroup s e

/-- After a write at its home: each entry it satisfies is removed. -/
def wakeArmed (s : State) (a n : Nat) : State :=
  (s.sync.armed.filter (wakesOn s a n)).foldl wakeEntry
    { s with sync := { s.sync with armed := s.sync.armed.filter (fun e => !wakesOn s a n e) } }

/-- Whether a group waits, as its image said (R64, R418), for a word that is full now. -/
def wordCame (s : State) (g : Nat) : Bool :=
  (grp s g).wait.code == 3 && (grp s g).stalledOn.isNone && onCore s g &&
    (match locateFlat s { ctx := 0, privileged := false, team := (grp s g).team } (grp s g).wait.obj 4 with
      | .ok (a, _) => isFull s a
      | .error _ => false)
/-- Such waits end. -/
def wakeWords (s : State) : State :=
  if s.groups.all (fun x => x.wait.code != 3) then s
  else (List.range s.groups.length).foldl (fun t g => if wordCame t g then unblock t g else t) s

/-- What follows every write at its home. -/
def afterWrite (s : State) (a n : Nat) : State := wakeWords (wakeArmed (serveWaiters s) a n)

/-- Write the low `n` bytes of `v` at a location, as its home performs it; `full` is what becomes of the words' full/empty bits. -/
def writeLoc (s : State) (a n v : Nat) (full : Option Bool) : State :=
  let s1 := wr s a n v
  afterWrite (match full with
    | some b => markFull s1 a n b
    | none => s1) a n

/-- Write a list of bytes at a location, as its home performs it. -/
def writeLocBytes (s : State) (a : Nat) (bs : List Byte) (full : Option Bool) : State :=
  let s1 := wrBytes s a bs
  afterWrite (match full with
    | some b => markFull s1 a bs.length b
    | none => s1) a bs.length

/-! ## Stores, spill stack and atomics -/

/-- A store of a team to a line it opened for another writer only (R99). -/
def ownerRefused (s : State) (t a n : Nat) : Bool :=
  let x := team s t
  (List.range 64).any (fun e => match mapGet none s.sync.windows (64 * x.core + e) with
    | none => false
    | some w => w.team == t && w.single && w.writer != x.core % 4 &&
      decide (locTeam x.core (x.allocBase + w.line) < a + n) && decide (a < locTeam x.core (x.allocBase + w.line + 128)))

/-- A lane of a store is performed. What follows its write at the home follows the whole event (R124). -/
def storeLane (s : State) (o : Nat) (r : LaneReq) (fill : Bool) : State :=
  let x := op s o
  if ownerRefused s (grp s x.g).team r.addr x.size then
    failLane s o r.lane { cause := 9, detail := r.lane, addr := some r.named }
  else match storeCheck s r.addr x.size true r.pound with
    | (s1, some b) => failLane s1 o r.lane (dataError b 6)
    | (s1, none) =>
      let s2 := wr s1 r.addr x.size r.data
      lanePerformed (touchHome (if fill then markFull s2 r.addr x.size true else s2) (coreOf s x.g) r.addr x.size true) o r.lane none

/-- Location of the spill-stack byte of group `g` at virtual address `va`, private to the group (R92, R93).
DEDUCED: notes/assumptions/16.md. -/
def spillLoc (g va : Nat) : Nat := 2 ^ 62 + g * 2 ^ 57 + va

/-- A spill-stack byte: as the backing cache holds it, or else as its page does. -/
def spillByte (s : State) (loc phys : Nat) : Byte := (mapGet none s.spilled loc).getD (byteAt s.mem phys)
/-- The `n` spill-stack bytes from a location. -/
def spillRead (s : State) (loc phys : Nat) : Nat → Nat
  | 0 => 0
  | n + 1 => (spillByte s loc phys).toNat + 256 * spillRead s (loc + 1) (phys + 1) n
/-- Write `n` spill-stack bytes. -/
def spillWrite (m : List (Nat × Option Byte)) (loc : Nat) : Nat → Nat → List (Nat × Option Byte)
  | 0, _ => m
  | n + 1, v => spillWrite (mapSet none loc (some (BitVec.ofNat 8 v)) m) (loc + 1) n (v / 256)

/-- The cache lets go of every spill-stack byte of group `g`. -/
def spillClear (s : State) (g : Nat) : State := { s with spilled := mapClear (spillLoc g 0) (2 ^ 57) s.spilled }

/-- One atomic read-modify-write at a home (R123, R240): `f` gives the new value, or nothing to write. -/
def rmw (s : State) (a n : Nat) (pound : Bool) (f : Nat → Option Nat) : State × Except BadData Nat :=
  match storeCheck s a n false pound with
  | (s1, some b) => (s1, .error b)
  | (s1, none) =>
    let old := rd s1 a n
    match f old with
    | none => (s1, .ok old)
    | some v => match storeCheck s1 a n true pound with
      | (s2, some b) => (s2, .error b)
      | (s2, none) => (writeLoc s2 a n v none, .ok old)

/-! ## Completion -/

/-- Every lane of an operation has been performed or has failed. -/
def allDone (x : Op) : Bool := x.lanes.all (fun r => laneIn x.performed r.lane)

/-- A group that waits for operation `o` outside the active set is ready (R354); its block for a word of it ends (R40). -/
def wakeStalled (s : State) (o : Nat) : State :=
  modGrp s (op s o).g (fun y =>
    if y.stalledOn = some o then
      { y with stalledOn := none, readyStamp := some s.clock, wait := if y.wait.code = 3 then {} else y.wait }
    else y)

/-- An operation is whole: its counter falls in order, and its failures reach its group, lowest lane first (R55, R409, R423). -/
def completeOp (s : State) (o : Nat) : State :=
  let x := op s o
  ((List.range 64).flatMap (fun l => x.failed.filter (fun p => p.1 == l))).foldl (fun s p => raiseDeferred s x.g x.handler p.2)
    (wakeStalled (finishOp s o) o)

/-- An operation that returns nothing is whole once every lane has been performed. -/
def settle (s : State) (o : Nat) : State := if !(op s o).finished ∧ allDone (op s o) then completeOp s o else s

/-- A value as a load delivers it (R235). -/
def landValue (x : Op) (v : Nat) : Nat := if x.sx ∧ x.size < 4 then wrapTo 32 (signed (8 * x.size) v) else v

/-- Write a value to lane `l` of consecutive words of registers. -/
def landLane (l : Nat) : List Nat → Nat → Group → Group
  | [], _, x => x
  | n :: t, v, x => landLane l t (v / 2 ^ 32) (setVlane n l (BitVec.ofNat 32 v) x)

/-- The results of an operation reach its destination registers, and it is whole (R51).
DEDUCED: notes/assumptions/5.md. -/
def landOp (s : State) (o : Nat) : State :=
  let x := op s o
  if x.finished ∨ !allDone x then s
  else
    let s1 := modGrp s x.g (fun y => x.got.foldl (fun y p => landLane p.1 x.dv (landValue x p.2) y) y)
    let s2 := match x.kind with
      | .perm mask (some n) => modGrp s1 x.g (setSpair n mask)
      | _ => s1
    completeOp s2 o

/-! ## Flights (R252 to R254) -/

/-- A flight. -/
def flight (s : State) (k : Nat) : Flight := mapGet {} s.sync.flights k
/-- Change a flight. -/
def setFlight (s : State) (k : Nat) (f : Flight) : State :=
  { s with sync := { s.sync with flights := mapSet {} k f s.sync.flights } }

/-- A member signals: modes 0 and 2. -/
def signaller (m : Member) : Bool := m.mode != 1

/-- Every signalling member has arrived, and there is one. -/
def phaseFull (f : Flight) : Bool := f.members.any signaller && f.members.all (fun m => !signaller m || m.arrived)

/-- `fl_check` of R253. The phase advances at most twice: after the second advance no member has arrived. -/
def flCheckFor : Nat → Flight → Flight
  | 0, f => f
  | n + 1, f =>
    if phaseFull f then
      flCheckFor n { f with phase := f.phase + 1,
                            members := f.members.map (fun m => { m with arrived := signaller m && m.early, early := false }) }
    else f
/-- `fl_check` of R253. -/
def flCheck (f : Flight) : Flight := flCheckFor 3 f

/-- The member of a flight, if the party is one. -/
def memberOf (f : Flight) (w : Party) : Option Member := f.members.find? (fun m => m.who == w)
/-- Change a member. -/
def modMember (f : Flight) (w : Party) (u : Member → Member) : Flight :=
  { f with members := f.members.map (fun m => if m.who = w then u m else m) }

/-- An arrival of R254: into the phase, or into the early bit; then `fl_check`. -/
def arrive (f : Flight) (w : Party) : Flight :=
  flCheck (modMember f w (fun m => if m.arrived then { m with early := true } else { m with arrived := true }))

/-- A party leaves a flight: its arrival is withdrawn (R254). -/
def dropMember (f : Flight) (w : Party) : Flight := flCheck { f with members := f.members.filter (fun m => m.who != w) }

/-- A party's next arrival at a flight must wait: its early bit is set. -/
def earlySet (f : Flight) (w : Party) : Bool := ((memberOf f w).map (·.early)).getD false

/-- A wait for phase b is over when (p − b) mod 2^32 lies in 1 to 2^31 (R254). -/
def phasePassed (p b : Word) : Bool := decide (1 ≤ (p - b).toNat) && decide ((p - b).toNat ≤ 2 ^ 31)

/-! ## Landings (R255 to R257) -/

/-- `land_update` of R256 on expected, arrived and phase. -/
def landUpdate (e a p : Nat) : Nat × Nat × Nat :=
  if e ≠ 0 ∧ e ≤ a then (0, a - e, 1 - p % 2) else (e, a, p)

/-- Apply a change of expected and arrived to the landing at a location, then `land_update`. Nothing else of it changes.
DEDUCED: notes/assumptions/25.md. -/
def landingApply (s : State) (loc : Nat) (f : Nat × Nat × Nat → Nat × Nat × Nat) (full : Option Bool) : State :=
  let (e0, a0, p0) := f (rd s loc 4, rd s (loc + 4) 4, rd s (loc + 8) 4)
  let (e, a, p) := landUpdate e0 a0 p0
  writeLoc s loc 12 (e % 2 ^ 32 + a % 2 ^ 32 * 2 ^ 32 + p % 2 ^ 32 * 2 ^ 64) full

/-- An engine of core `c` counts `n` bytes on a landing. -/
def landingCount (s : State) (c loc n : Nat) : State :=
  touchHome (landingApply s loc (fun x => (x.1, (x.2.1 + n) % 2 ^ 32, x.2.2)) none) c loc 12 true

/-- Phase bit of the landing at a location. -/
def landingPhase (s : State) (loc : Nat) : Nat := rd s (loc + 8) 4 % 2

/-! ## Lanes that can be performed -/

/-- Two accesses of one operation touch a common byte. -/
def lanesOverlap (x : Op) (p q : LaneReq) : Bool := decide (p.addr < q.addr + x.size) && decide (q.addr < p.addr + x.size)

/-- A lane is queued at a word. -/
def isWaiting (s : State) (o lane : Nat) : Bool := s.sync.waiters.contains (o, lane)

/-- A lane is still to reach its home, and nothing keeps it from being performed: the order of R126, an `mcas` on its line, and, where
the order of lanes matters (stores, `.take`, atomics), a lower lane on a common byte. -/
def laneReady (s : State) (o : Nat) (r : LaneReq) : Bool :=
  let x := op s o
  let free : Bool := match x.kind with
    | .load m => m != 2
    | .peerLoad => true
    | _ => false
  !x.finished && !laneIn x.performed r.lane && !isWaiting s o r.lane && mayPerform s o r && unlocked s o r.addr x.size &&
    (free || x.lanes.all (fun q => !(decide (q.lane < r.lane) && lanesOverlap x q r) || laneIn x.performed q.lane ||
      isWaiting s o q.lane))

/-- The line case of R124: the whole access is one event at its home. -/
def lineCase (x : Op) : Bool :=
  let line (r : LaneReq) := r.addr / 128
  let isStore := match x.kind with
    | .store _ => true
    | _ => false
  !x.stk && (match x.kind with
    | .store _ => true
    | .load _ => true
    | _ => false) &&
    x.lanes.all (fun r => line r == line (x.lanes.headD r)) &&
    (!isStore || x.lanes.all (fun p => x.lanes.all (fun q => p.lane == q.lane || !lanesOverlap x p q)))

/-! ## Held accesses (R128, R238, R250, R285, R504) -/

/-- The window at a key, if it is open. -/
def windowAt (s : State) (k : Nat) : Option Window := mapGet none s.sync.windows k
/-- Set a window entry. -/
def setWindow (s : State) (k : Nat) (w : Option Window) : State :=
  { s with sync := { s.sync with windows := mapSet none k w s.sync.windows } }

/-- The flight at which an operation is held on the arrival path. -/
def heldFlight (x : Op) : Option Nat := match x.kind with
  | .arrival k => some k
  | .advance k => some k
  | .drop k => some k
  | _ => none

/-- Among the operations before number `n`, group `g` has an arrival, or an `fldrop`, that is still held at a flight. -/
def arrivalHeld (s : State) (g k n : Nat) : Bool :=
  (List.range n).any (fun i => (op s i).g == g && !(op s i).finished && heldFlight (op s i) == some k)

/-- Group `g`'s arrival at a flight of a scope can be performed, after its operations before number `n` (R128, R285): earlier accesses in the
flight's reach have been performed and, for a team flight, earlier results have been written. -/
def arrivalClear (s : State) (g k scope n : Nat) : Bool :=
  earlierDone s g n scope true true && (scope != 1 || resultsIn s g n) && !arrivalHeld s g k n

/-- A held `flarr` or `fladv` arrives; `plus` is what its result adds to the phase. -/
def performArrival (s : State) (o k plus : Nat) : State :=
  let x := op s o
  let f := flight s k
  let s1 := setFlight s k (arrive f (.group x.g))
  completeOp (modGrp s1 x.g (fun y => x.du.foldl (fun y n => setSreg n (f.phase + BitVec.ofNat 32 plus) y) y)) o

/-- The arrival of a held `fladv` is performed: the wait of its group is now for the phase it arrived in. -/
def performAdvance (s : State) (o k : Nat) : State :=
  let g := (op s o).g
  let p := (flight s k).phase
  let s1 := performArrival s o k 1
  if phasePassed (flight s1 k).phase p then unblock s1 g else modGrp s1 g (fun x => { x with wait := { x.wait with opnd := p.toNat } })

/-- The entry that a `waita` places (R250). -/
def watchEntry (s : State) (x : Op) (r : LaneReq) (cond ty : Nat) : Armed :=
  { home := homeOf s r.addr, addr := r.addr, size := x.size, g := x.g, dreg := x.du.headD 0, cond, isSigned := typeSigned ty,
    expected := r.data, mask := r.cmp, named := r.named }

/-- Entries of a home's wait table. -/
def armedMax : Nat := 64
/-- A home takes no further entry: its table is full, or it is host memory, which has none. -/
def tableFull (s : State) (home : Nat) : Bool := home == 4000 || decide (armedMax ≤ (s.sync.armed.filter (fun y => y.home == home)).length)

/-- The word a `waita` names is tested at its home: the answer of its result register, or none, with the entry placed. -/
def watchTest (s : State) (e : Armed) : State × Option Word :=
  if armedTest e (rd s e.addr e.size) then (s, some 1)
  else if tableFull s e.home then (s, some 2)
  else ({ s with sync := { s.sync with armed := s.sync.armed ++ [e] } }, none)

/-- A held `waita` reaches its home; its group blocks then, unless it has its answer.
DEDUCED: notes/assumptions/18.md. -/
def performWatch (s : State) (o cond ty : Nat) : State :=
  let x := op s o
  let r := x.lanes.headD { lane := 0, addr := 0, named := 0, data := 0, cmp := 0 }
  match storeCheck s r.addr x.size false r.pound with
  | (s1, some b) => completeOp (failLane s1 o r.lane (dataError b 5)) o
  | (s1, none) =>
    let s2 := touchHome s1 (coreOf s x.g) r.addr x.size false
    let e := watchEntry s2 x r cond ty
    match watchTest s2 e with
    | (s3, some v) => completeOp (modGrp s3 x.g (setSreg e.dreg v)) o
    | (s3, none) => block (completeOp s3 o) x.g 4 r.named cond

/-- A held access is performed, if what it is held for is done. -/
def releaseOne (s : State) (o : Nat) : State :=
  let x := op s o
  if x.finished then s
  else match x.kind with
    | .arrival k =>
      if arrivalClear s x.g k x.scope o && !earlySet (flight s k) (.group x.g) then performArrival s o k 0 else s
    | .advance k =>
      if arrivalClear s x.g k x.scope o && !earlySet (flight s k) (.group x.g) then performAdvance s o k else s
    | .drop k =>
      if arrivalClear s x.g k x.scope o then completeOp (setFlight s k (dropMember (flight s k) (.group x.g))) o else s
    | .close k => match windowAt s k with
      | none => completeOp s o
      | some w =>
        let t := team s w.team
        if storesQuiet s x.g o (locTeam t.core (t.allocBase + w.line)) 128 then completeOp (setWindow s k none) o else s
    | .watch cond ty =>
      if (grp s x.g).live = 0 then completeOp s o
      else if x.lanes.all (fun r => laneReady s o r) && (grp s x.g).wait.code == 0 then performWatch s o cond ty else s
    | _ => s

/-- Perform every held access that can be performed, in order. -/
def releaseHeld (s : State) : State := (List.range s.ops.length).foldl releaseOne s

end Sys2Proof.Machine
end

