-- ==== Sys2Proof/Machine/Hold.lean ====
section
/-!
DEFINITION. Page-fault service: translation faults answered at once, or held for the host (R404, R451).
-/
namespace Sys2Proof.Machine

/-- What becomes of an access whose translation has been tried. -/
inductive Xlat (α : Type) where
  /-- it goes on -/
  | ok (a : α)
  /-- it is held; the state holds its record -/
  | wait (s : State)
  /-- it fails with this error -/
  | fail (s : State) (e : AccErr)
deriving Repr

/-- Faults that are held. -/
def heldCount (s : State) : Nat := (s.held.filter (fun h => !h.failed)).length

/-- Hold a translation fault: its record has the held flag set.
DEDUCED: notes/assumptions/116.md. -/
def holdFault (s : State) (who : HeldWho) (g : Option Nat) (named reason level : Nat) : State :=
  let d : Deferred := { cause := 0, detail := reason * 256 + level, addr := some named, flags := 8 }
  let s1 := match g with
    | some g => logGroupBy s g 0x0910 1 d
    | none => logRecord s { seq := 0, time := 0, addr := named, code := 0x0910, cls := 1, flags := 9, detail := d.detail }
  { s1 with held := s1.held ++ [{ seq := s1.log.seq, since := timeOf s1, who }] }

/-- Go on with a translation: a fault is answered at once, or held in host-assisted service while fewer than 64 are. -/
def tryXlat {α : Type} (s : State) (who : HeldWho) (g : Option Nat) (named : Nat) (r : Except AccErr α) : Xlat α :=
  match r with
  | .ok a => .ok a
  | .error (.xlat reason level) =>
    match s.held.find? (fun h => h.who == who) with
    | some h =>
      if h.failed then .fail { s with held := s.held.filter (fun x => x.who != who) } (.xlat reason level) else .wait s
    | none =>
      if s.duty.getLsbD 0 ∧ heldCount s < 64 then .wait (holdFault s who g named reason level) else .fail s (.xlat reason level)
  | .error e => .fail s e

/-- Whether a requester waits for a held fault. -/
def isHeld (s : State) (who : HeldWho) : Bool := s.held.any (fun h => h.who == who && !h.failed)

end Sys2Proof.Machine
end

