-- ==== Sys2Proof/Machine/Scratch.lean ====
section
/-!
DEFINITION. Scratchpad and spill-stack loads and stores, peer windows, and the events that perform them
(spec/12_isa_memory_sync.md, R234 to R238; R95 to R100, R228, R426 to R428, R450, R454 to R458, R500).
-/
namespace Sys2Proof.Machine

/-! ## Addresses (R90, R92, R147, R450) -/

/-- The address of lane `l`, exact: a register, a base and a signed offset (R147). -/
def memAddr (x : Group) (f : FmtM) (l : Nat) : Int :=
  ((if f.ka then sreg x f.a.toNat else vlane x f.a.toNat l).toNat : Int) + ((if f.bu then (sreg x f.b.toNat).toNat else 0 : Nat) : Int) +
    f.off.toInt

/-- Bytes one lane accesses: z. -/
def memSize (f : FmtM) : Nat := 2 ^ f.size.toNat

/-- An address as formed, under a selector (R450). -/
def namedAddr (sel : Nat) (ea : Int) : Nat := sel * 2 ^ 60 + wrapTo 60 ea

/-- Start of a group's spill stack (R62). -/
def spillStart (s : State) (g : Nat) : Nat := (grp s g).backing + roundUp (0x800 + (grp s g).budget * (4 * widthOf s g)) 128

/-- The three spaces of `tld`, `tst`, `dld` and `dst`. -/
inductive ScratchSpace where
  | team
  | die
  | stack
deriving DecidableEq, Repr

/-- Whether a lane's access is admitted by R450. -/
def scratchOk (s : State) (g : Nat) (sp : ScratchSpace) (ea : Int) (z : Nat) : Bool :=
  ea % (z : Int) == 0 && (match sp with
    | .team => decide (0 ≤ ea) && decide (ea + z ≤ (teamOf s g).allocSize)
    | .die => decide (0 ≤ ea) && decide (ea + z ≤ (gridOf s g).segSize)
    | .stack =>
      decide ((spillStart s g : Int) ≤ ((grp s g).spill.toNat : Int) + ea) &&
        decide (((grp s g).spill.toNat : Int) + ea + z ≤ (grp s g).backing + (grp s g).backSize))

/-- A lane's address as `%faultaddr` names it. -/
def scratchNamed (s : State) (g : Nat) (sp : ScratchSpace) (ea : Int) : Nat :=
  match sp with
  | .team => namedAddr 5 ea
  | .die => 4 * 2 ^ 60 + (dieOfCore (coreOf s g) * 2 ^ 27 + wrapTo 60 ea) % 2 ^ 60
  | .stack => namedAddr 0 (((grp s g).spill.toNat : Int) + ea)

/-- The location of an admitted lane. -/
def scratchLoc (s : State) (g : Nat) (sp : ScratchSpace) (ea : Int) : Nat :=
  let t := teamOf s g
  let d := dieOfCore t.core
  match sp with
  | .team => locTeam t.core (t.allocBase + ea.toNat)
  | .die => locDie d ((gridOf s g).segs.getD d 0 + ea.toNat)
  | .stack => spillLoc g (((grp s g).spill.toNat : Int) + ea).toNat

/-! ## The spill stack's pages (R93) -/

/-- The physical location of a spill-stack access and its page's pound bit; an access whose page cannot be used fails. -/
def spillPhys (s : State) (g : Nat) (ea : Int) (z : Nat) (need : Need) : State × Except AccErr (Nat × Bool) :=
  locating s (backSpace s g) ((((grp s g).spill.toNat : Int) + ea).toNat) z need

/-- The first lane of a spill-stack access that cannot use its page, or whose stored data is uncorrectable.
DEDUCED: notes/assumptions/17.md. -/
def spillCheck (s : State) (g : Nat) (z : Nat) (isLoad : Bool) (eas : List (Nat × Int)) : State × Option Nat :=
  match eas with
  | [] => (s, none)
  | (l, ea) :: t => match spillPhys s g ea z { read := isLoad, write := !isLoad } with
    | (s0, .error _) => (s0, some l)
    | (s0, .ok (a, pound)) => match if isLoad then storeCheck s0 a z false pound else (s0, none) with
      | (s1, some _) => (s1, some l)
      | (s1, none) => spillCheck s1 g z isLoad t

/-! ## Watchpoints (R500) -/

/-- An access of `z` bytes touches a watched byte. -/
def watchTouches (w : Watch) (z : Nat) (ea : Int) : Bool :=
  decide (ea < ((w.off + w.len + 1 : Nat) : Int)) && decide ((w.off : Int) < ea + (z : Int))

/-- The lowest armed watchpoint an access to team scratchpad matches, with the first byte of its lowest matching lane. -/
def watchHit (s : State) (g : Nat) (isLoad : Bool) (z : Nat) (eas : List (Nat × Int)) : Option (Nat × Nat) :=
  if isQuayCore (coreOf s g) ∨ (gridOf s g).ctx ≠ s.dbg.dctx ∨ (grp s g).intrap then none
  else
    (s.dbg.watches.find? (fun w => (if isLoad then w.2.rd else w.2.wr) && eas.any (fun p => watchTouches w.2 z p.2))).map
      (fun w => (w.1, ((eas.find? (fun p => watchTouches w.2 z p.2)).map (fun p => p.2.toNat)).getD 0))

/-! ## Loads and stores (R235) -/

/-- What a store lane holds to write. -/
def storeData (x : Group) (f : FmtM) (l : Nat) : Nat :=
  if f.size = 3 then (vpair x f.d.toNat l).toNat else (vlane x f.d.toNat l).toNat % 2 ^ (8 * memSize f)

/-- Destination registers of a load. -/
def loadRegs (f : FmtM) : List Nat := (List.range (if f.size = 3 then 2 else 1)).map (f.d.toNat + ·)

/-- The space a scratchpad instruction accesses. -/
def spaceOf (f : FmtM) (die : Bool) : ScratchSpace := if die then .die else if f.stk then .stack else .team

/-- A lane's access request. -/
def scratchLane (t : State) (f : FmtM) (sp : ScratchSpace) (isLoad : Bool) (l : Nat) : LaneReq :=
  let g := t.cur
  let ea := memAddr (me t) f l
  let phys : Nat := match sp with
    | .stack => (match spillPhys t g ea (memSize f) { read := isLoad, write := !isLoad } with
      | (_, .ok (a, _)) => a
      | (_, .error _) => 0)
    | _ => 0
  { lane := l, addr := scratchLoc t g sp ea, named := scratchNamed t g sp ea, data := if isLoad then 0 else storeData (me t) f l,
    cmp := phys }

/-- Issue a load or store to a scratchpad or the spill stack: the checks of R450, then the operation, then a watchpoint. -/
def scratchBody (f : FmtM) (isLoad die : Bool) (t : State) : Res :=
  let g := t.cur
  let x := me t
  let sp := spaceOf f die
  let z := memSize f
  let eas := (activeLanes t g).map (fun l => (l, memAddr x f l))
  match eas.find? (fun p => !scratchOk t g sp p.2 z) with
  | some p => .next (takeTrap t g 8 p.1 (some (scratchNamed t g sp p.2)))
  | none => match if sp = .stack then spillCheck t g z isLoad eas else (t, none) with
    | (t1, some l) =>
      .next (takeTrap t1 g 6 f.d.toNat (some (scratchNamed t1 g sp (memAddr x f l))))
    | (t1, none) =>
      let o : Op :=
        { g := g, kind := if isLoad then .load f.fe.toNat else .store (f.fe == 1), issuedAt := t1.clock,
          path := if isLoad then some (if die then 1 else 0) else none, counted := isLoad, size := z, sx := f.sx,
          stk := sp == .stack, lanes := (activeLanes t1 g).map (scratchLane t1 f sp isLoad),
          dv := if isLoad then loadRegs f else [], handler := handlerOf x }
      let t2 := advance (addOp t1 o) g
      let t3 := if !isLoad ∧ o.lanes = [] then settle t2 t1.ops.length else t2
      match if sp = .team then watchHit t1 g isLoad z eas else none with
      | some (n, ea) => .next (takeTrap t3 g 0x0F n (some (5 * 2 ^ 60 + ea)))
      | none => .next t3

/-- `tld`: team scratchpad, or spill stack, into a register. -/
def execTld (f : FmtM) (s : State) : Res := issueOn (some 0) true (sigTldOf f) (scratchBody f true false) s
/-- `tst`: a register into team scratchpad or spill stack. -/
def execTst (f : FmtM) (s : State) : Res := issueOn none true (sigTstOf f) (scratchBody f false false) s
/-- `dld`: die scratchpad of the issuing die into a register. -/
def execDld (f : FmtM) (s : State) : Res := issueOn (some 1) false (sigDldOf f) (scratchBody f true true) s
/-- `dst`: a register into die scratchpad of the issuing die. -/
def execDst (f : FmtM) (s : State) : Res := issueOn none false (sigDstOf f) (scratchBody f false true) s

/-! ## Peer windows (R98 to R100, R237, R238) -/

/-- The core at a cluster position beside core `c`. -/
def peerCore (c pos : Nat) : Nat := c / 4 * 4 + pos
/-- Key of the window a peer address names from core `c` (R237). -/
def peerKey (c ea : Nat) : Nat := 64 * peerCore c (bitField ea 13 2) + bitField ea 7 6
/-- The location a peer address leads to now, if its window is open. -/
def peerLoc (s : State) (c ea : Nat) : Option Nat :=
  (windowAt s (peerKey c ea)).map (fun w => locTeam (team s w.team).core ((team s w.team).allocBase + w.line + ea % 128))

/-- Where an access stands for the order within its group: its location when the window is open, else the window's own address. -/
def peerOrder (s : State) (c : Nat) (ea : Int) : Nat :=
  (if 0 ≤ ea ∧ ea < 2 ^ 15 then peerLoc s c ea.toNat else none).getD (2 ^ 58 + wrapTo 15 ea)

/-- The team that opened the window a peer address names from core `c`, if it is open. -/
def peerOwner (s : State) (c named : Nat) : Option Nat :=
  if named < 2 ^ 15 then (windowAt s (peerKey c named)).map (·.team) else none
/-- That team is parked, so that its core holds the access (R358). -/
def ownerParked (s : State) (c named : Nat) : Bool := (peerOwner s c named).any (fun t => (team s t).phase == .parked)

/-- Lanes of peer accesses on their way to parked owners of core `c`, or held there (R358). -/
def peerHeld (s : State) (c : Nat) : Nat :=
  s.ops.foldl (fun n x => if (x.kind = .peerLoad ∨ x.kind = .peerStore) ∧ !x.finished then
      n + ((waitingLanes x).filter (fun r => ownerParked s (coreOf s x.g) r.named &&
        decide (peerKey (coreOf s x.g) r.named / 64 = c))).length
    else n) 0

/-- The lanes of an access that lead to parked owners of some core do not fit into its hold of 64 beside those already there (R358). -/
def peerFull (s : State) (g : Nat) (eas : List Int) : Bool :=
  let c := coreOf s g
  let cores := (eas.filter (fun ea => decide (0 ≤ ea) && ownerParked s c ea.toNat)).map (fun ea => peerKey c ea.toNat / 64)
  cores.any (fun p => decide (64 < peerHeld s p + (cores.filter (· == p)).length))

/-- Issue a peer access: alignment is checked now (R449), everything else when each lane arrives at its owner (R454).
DEDUCED: notes/assumptions/19.md. -/
def peerBody (f : FmtM) (isLoad : Bool) (s t : State) : Res :=
  let g := t.cur
  let x := me t
  let c := coreOf t g
  match (activeLanes t g).find? (fun l => memAddr x f l % (memSize f : Int) != 0) with
  | some l => .next (takeTrap t g 8 l (some (namedAddr 0 (memAddr x f l))))
  | none =>
    if peerFull t g ((activeLanes t g).map (memAddr x f)) then .next s
    else
      let o : Op :=
        { g := g, kind := if isLoad then .peerLoad else .peerStore, issuedAt := t.clock, path := if isLoad then some 2 else none,
          counted := isLoad, size := memSize f, sx := f.sx,
          lanes := (activeLanes t g).map (fun l =>
            { lane := l, addr := peerOrder t c (memAddr x f l), named := namedAddr 0 (memAddr x f l),
              data := if isLoad then 0 else storeData x f l, cmp := 0 }),
          dv := if isLoad then loadRegs f else [], handler := handlerOf x }
      let t1 := advance (addOp t o) g
      .next (if !isLoad ∧ o.lanes = [] then settle t1 t.ops.length else t1)

/-- `pld`: a load through a peer window. -/
def execPld (f : FmtM) (s : State) : Res := issueOn (some 2) false (sigPldOf f) (peerBody f true s) s
/-- `pst`: a store through a peer window. -/
def execPst (f : FmtM) (s : State) : Res := issueOn none false (sigPstOf f) (peerBody f false s) s

/-- The value of operand a of Table 12-3. -/
def opndA (x : Group) (f : FmtE) : Word := if f.op.getLsbD 15 then sreg x f.a.toNat else special32 f.a.toNat 0
/-- The value of operand b of Table 12-3. -/
def opndB (x : Group) (f : FmtE) : Word := if f.op.getLsbD 14 then sreg x f.b.toNat else special32 f.b.toNat 0

/-- Write sd of a format E instruction and move on. -/
def finishE (t : State) (d : Byte) (v : Word) : Res := .next (advance (modMe t (setSreg d.toNat v)) t.cur)

/-- A `wclose` of the group's of the window at a key is still held. -/
def closing (s : State) (g k : Nat) : Bool := s.ops.any (fun x => x.g == g && !x.finished && x.kind == .close k)
/-- A `wclose` of the group's is still held. -/
def closeHeld (s : State) (g : Nat) : Bool := s.ops.any (fun x => x.g == g && !x.finished && (match x.kind with
  | .close _ => true
  | _ => false))

/-- `wopen`: bind the lowest free entry of the core to a line of the team's allocation. When the line is open already and no entry is
free, R238 gives two answers, and which of them comes is left open. It follows a `wclose` of the group that is still held.
DESIGN CHOICE: notes/assumptions/120.md. -/
def execWopen (f : FmtE) (s : State) : Res :=
  issueOn none false (sigWopenOf f) (fun t =>
    let g := t.cur
    let off := (opndA (me t) f).toNat
    let ctl := (opndB (me t) f).toNat
    let c := coreOf t g
    let tm := (me t).team
    if closeHeld t g then .next s
    else if off % 128 ≠ 0 ∨ (teamOf t g).allocSize ≤ off ∨ 8 ≤ ctl then .next (takeTrap t g 8 0 (some (5 * 2 ^ 60 + off)))
    else if (List.range 64).any (fun e => (windowAt t (64 * c + e)).any (fun w => w.team == tm && w.line == off)) then
      if (List.range 64).all (fun e => (windowAt t (64 * c + e)).isSome) then
        finishE { t with free := t.free + 1 } f.d (if (Config.freeBits t.free).getLsbD 0 then 0xFFFFFFFF else 0xFFFFFFFE)
      else finishE t f.d 0xFFFFFFFE
    else match (List.range 64).find? (fun e => (windowAt t (64 * c + e)).isNone) with
      | none => finishE t f.d 0xFFFFFFFF
      | some e =>
        finishE (setWindow t (64 * c + e) (some { team := tm, line := off, single := bitOf ctl 2, writer := ctl % 4 })) f.d
          (BitVec.ofNat 32 e)) s

/-- No access of group `g` to bytes in a range is still to be performed. -/
def rangeQuiet (s : State) (g a n : Nat) : Bool :=
  s.ops.all (fun x => x.g != g || x.finished || (waitingLanes x).all (fun r => decide (a + n ≤ r.addr) || decide (r.addr + x.size ≤ a)))

/-- `wclose`: free an entry of the team, at once or held behind the group's earlier stores to its line (R238).
DEDUCED: notes/assumptions/21.md. -/
def execWclose (f : FmtE) (s : State) : Res :=
  issueOn none false (sigWcloseOf f) (fun t =>
    let g := t.cur
    let n := (opndA (me t) f).toNat
    let c := coreOf t g
    match if n < 64 ∧ !closing t g (64 * c + n) then windowAt t (64 * c + n) else none with
    | none => .next (raiseDeferred (advance t g) g (handlerOf (me t))
      { cause := 9, detail := 0, addr := some (c % 4 * 2 ^ 13 + n % 64 * 2 ^ 7) })
    | some w =>
      if w.team ≠ (me t).team then .next (raiseDeferred (advance t g) g (handlerOf (me t))
        { cause := 9, detail := 0, addr := some (c % 4 * 2 ^ 13 + n % 64 * 2 ^ 7) })
      else if storesQuiet t g t.ops.length (locTeam c ((teamOf t g).allocBase + w.line)) 128 then
        .next (advance (setWindow t (64 * c + n) none) g)
      else .next (advance (addOp t { g := g, kind := .close (64 * c + n), issuedAt := t.clock }) g)) s

/-! ## Events -/

/-- `CROSSBAR_GRANT`: the oldest waiting request of a core takes the crossbar, after its issue clock; ties go to the lower partition,
then to the lower `%groupid` (R228). -/
def xbarWaits (x : Op) : Bool :=
  !x.finished && x.stage == 0 && (match x.kind with
    | .load _ => x.path == some 0
    | .perm _ _ => true
    | _ => false)
/-- Operation `p` takes the crossbar before operation `o` of the same core. -/
def xbarBefore (s : State) (p o : Nat) : Bool :=
  let a := op s p
  let b := op s o
  let key (x : Op) : Nat := x.issuedAt * 2 ^ 16 + partitionOf s x.g * 2 ^ 8 + (grp s x.g).gid
  decide (key a < key b) || (key a == key b && decide (p < o))
def execCrossbarGrant (o : Nat) (s : State) : Res :=
  let x := op s o
  .next (if xbarWaits x && decide (x.issuedAt < s.clock) && (List.range s.ops.length).all (fun p =>
      p == o || !(xbarWaits (op s p) && coreOf s (op s p).g == coreOf s x.g && xbarBefore s p o)) then
    modOp s o (fun x => { x with stage := 1 })
  else s)

/-- A lane of a full/empty load reaches its words: it is served, fails in trap mode or on bad data, or waits (R96, R97, R458). -/
def feLane (s : State) (o : Nat) (r : LaneReq) : State :=
  let x := op s o
  if allFull s r.addr x.size then loadLane s o r (feMode x == 2)
  else match checkRead s r.addr x.size with
    | (s1, some b) => failLane s1 o r.lane (dataError b (pathDetail x))
    | (s1, none) =>
      if (teamOf s1 x.g).hdr.feTrap then
        let first := ((List.range 2).find? (fun i => !isFull s1 (r.addr / 4 * 4 + 4 * i))).getD 0
        failLane s1 o r.lane { cause := 5, detail := pathDetail x, addr := some (r.named / 4 * 4 + 4 * first) }
      else { s1 with sync := { s1.sync with waiters := s1.sync.waiters ++ [(o, r.lane)] } }

/-- A lane of a load is performed at its home, or queued there. -/
def loadArrive (s : State) (o : Nat) (r : LaneReq) : State :=
  let x := op s o
  if !laneReady s o r then s
  else if x.stk then lanePerformed s o r.lane (some (spillRead s r.addr r.cmp x.size))
  else if feMode x = 0 then loadLane s o r false
  else feLane s o r

/-- The lanes of a request that an event takes: all of them in the line case of R124. -/
def lanesTaken (x : Op) (lanes : DWord) : List LaneReq :=
  if lineCase x then x.lanes else x.lanes.filter (fun r => laneIn lanes r.lane)
/-- In the line case every lane that is still to come can be performed now. -/
def takenReady (s : State) (o : Nat) : Bool :=
  let x := op s o
  !lineCase x || x.lanes.all (fun r => laneIn x.performed r.lane || isWaiting s o r.lane ||
    (mayPerform s o r && unlocked s o r.addr x.size))

/-- `LOAD_RESULT_LANDING`: lanes of a load are performed at their homes, and an operation that is whole writes its destination,
releases the interlock and lets its counter fall in order. -/
def execLoadResultLanding (o : Nat) (lanes : DWord) (s : State) : Res :=
  let x := op s o
  match x.kind with
  | .load _ =>
    if x.finished ∨ (x.path = some 0 ∧ x.stage = 0) then .next s
    else
      let s1 := if takenReady s o then (lanesTaken x lanes).foldl (fun s r => loadArrive s o r) s else s
      .next (releaseHeld (landOp s1 o))
  | .perm _ _ => .next (if x.stage = 0 then s else releaseHeld (landOp s o))
  | .peerLoad => .next (releaseHeld (landOp s o))
  | .atop _ _ => .next (if x.path.isSome then releaseHeld (landOp s o) else s)
  | .cas => .next (releaseHeld (landOp s o))
  | _ => .next s

/-- A lane of a store is performed at its home. -/
def storeArrive (fill : Bool) (s : State) (o : Nat) (r : LaneReq) : State :=
  let x := op s o
  if !laneReady s o r then s
  else if x.stk then lanePerformed { s with spilled := spillWrite s.spilled r.addr x.size r.data } o r.lane none
  else storeLane s o r fill

/-- A `binit` or `bxp` is performed at its landing's bank (R256, R257). -/
def landingArrive (init : Bool) (s : State) (o : Nat) (r : LaneReq) : State :=
  let x := op s o
  if !laneReady s o r then s
  else match if init then checkWrite s r.addr 16 else checkRead s r.addr 12 with
    | (s1, some b) => failLane s1 o r.lane (dataError b 6)
    | (s1, none) =>
      let s2 := if init then markFull s1 r.addr 16 false else s1
      let s3 := landingApply s2 r.addr (fun l => if init then (r.data, 0, 0) else ((l.1 + r.data) % 2 ^ 32, l.2.1, l.2.2)) none
      lanePerformed (touchHome s3 (coreOf s x.g) r.addr (if init then 16 else 12) true) o r.lane none

/-- Lanes of a store performed as one event at its home, lower lanes first; waiters and armed entries are served after it (R97, R124, R250). -/
def storeEvent (fill : Bool) (o : Nat) (rs : List LaneReq) (s : State) : State :=
  let s1 := rs.foldl (fun s r => storeArrive fill s o r) s
  if (op s o).stk then s1 else rs.foldl (fun s r => afterWrite s r.addr (op s o).size) s1

/-- `STORE_PERFORMED`: lanes of a posted store, a `binit` or a `bxp` are performed at their homes: in the line case all of them in one event,
else lane by lane, lower ones first (R124). -/
def execStorePerformed (o : Nat) (lanes : DWord) (s : State) : Res :=
  let x := op s o
  match x.kind with
  | .store fill =>
    if x.finished then .next s
    else
      let rs := lanesTaken x lanes
      let s1 := if !takenReady s o then s
        else if lineCase x then storeEvent fill o rs s
        else rs.foldl (fun s r => storeEvent fill o [r] s) s
      .next (releaseHeld (settle s1 o))
  | .landing init => .next (releaseHeld (settle (x.lanes.foldl (fun s r => landingArrive init s o r) s) o))
  | _ => .next s

/-- What a peer access fails on at its owner's bank, if anything (R454). -/
def peerRefused (s : State) (x : Op) (r : LaneReq) : Bool :=
  decide (2 ^ 15 ≤ r.named) || decide (128 < r.named % 128 + x.size) ||
    (match windowAt s (peerKey (coreOf s x.g) r.named) with
      | none => true
      | some w => x.kind == .peerStore && w.single && w.writer != coreOf s x.g % 4)

/-- Lanes held at core `c` for parked owners, in arrival order (R358). -/
def heldAt (s : State) (c : Nat) : List (Nat × Nat) :=
  s.sync.peerHold.filter (fun p => peerKey (coreOf s (op s p.1).g) (laneReq (op s p.1) p.2).named / 64 == c)

/-- A lane held for the same owner arrived before this one (R358). -/
def heldAhead (s : State) (o lane : Nat) : Bool :=
  let owner (p : Nat × Nat) := peerOwner s (coreOf s (op s p.1).g) (laneReq (op s p.1) p.2).named
  (s.sync.peerHold.takeWhile (fun p => p != (o, lane))).any (fun p => owner p == owner (o, lane))

/-- A lane of a peer access is checked and performed at its owner's bank. -/
def peerPerform (s : State) (o lane : Nat) (isLoad : Bool) : State :=
  let x := op s o
  let r := laneReq x lane
  if peerRefused s x r then failLane s o lane { cause := 9, detail := lane, addr := some r.named }
  else
    let a := (peerLoc s (coreOf s x.g) r.named).getD 0
    match storeCheck s a x.size (!isLoad) false with
    | (s1, some b) => failLane s1 o lane (dataError b (pathDetail x))
    | (s1, none) =>
      if isLoad then lanePerformed (touchHome s1 (coreOf s x.g) a x.size false) o lane (some (rd s1 a x.size))
      else lanePerformed (touchHome (writeLoc s1 a x.size r.data (some true)) (coreOf s x.g) a x.size true) o lane none

/-- `PEER_ACCESS_AT_OWNER`: a lane of a peer access reaches its owner's bank, is checked there and performed; a store sets its words'
full bits and no copy older than it can be read. The core of a parked owner holds up to 64, which are performed in arrival order after it
has resumed (R358). -/
def execPeerAccessAtOwner (o lane : Nat) (s : State) : Res :=
  let x := op s o
  let isLoad : Bool := x.kind == .peerLoad
  if !(isLoad || x.kind == .peerStore) ∨ !x.lanes.any (fun r => r.lane == lane) then .next s
  else
    let r := laneReq x lane
    if !laneReady s o r then .next s
    else if ownerParked s (coreOf s x.g) r.named then
      .next (if s.sync.peerHold.contains (o, lane) ∨ 64 ≤ (heldAt s (peerKey (coreOf s x.g) r.named / 64)).length then s
        else { s with sync := { s.sync with peerHold := s.sync.peerHold ++ [(o, lane)] } })
    else if heldAhead s o lane then .next s
    else
      let s1 := peerPerform s o lane isLoad
      let s2 : State := { s1 with sync := { s1.sync with peerHold := s1.sync.peerHold.filter (· != (o, lane)) } }
      .next (releaseHeld (if isLoad then s2 else settle s2 o))

end Sys2Proof.Machine
end

