-- ==== Sys2Proof/Machine/Flags.lean ====
section
/-!
DEFINITION. Sticky flags, rounding modes and flush bits (Tables 3-4, 3-5 and 4-6; R58, R59, R77, R81, R83).
-/
namespace Sys2Proof.Machine

/-! Bits of `%fpflags` and `%trapen` (Table 3-5). A set of flags is a number, joined by OR. -/

def flagInvalid : Nat := 1
def flagDivide : Nat := 2
def flagOverflow : Nat := 4
def flagUnderflow : Nat := 8
def flagInexact : Nat := 16
def flagMxnan : Nat := 32

/-- `f` when the condition holds, no flag otherwise. -/
def flagIf (b : Bool) (f : Nat) : Nat := if b then f else 0

/-- A rounding mode of Table 4-6. -/
inductive RMode where
  /-- nearest, ties to even -/
  | rne
  /-- toward zero -/
  | rz
  /-- toward +∞ -/
  | ru
  /-- toward −∞ -/
  | rd
  /-- nearest, ties away from zero -/
  | rna
deriving DecidableEq, Repr

/-- The mode of rmode field value n (Table 3-4). -/
def rmodeOf (n : Nat) : RMode :=
  match n with
  | 1 => .rz
  | 2 => .ru
  | 3 => .rd
  | 4 => .rna
  | _ => .rne

/-- The mode an instruction uses: its rnd field (Table 7-4), or `%fpctl`.rmode for rnd 0, where 4 acts as nearest-even unless the
instruction is `cvt` (R58, R205). -/
def modeFor (fpctl : Word) (rnd : BitVec 3) (isCvt : Bool) : RMode :=
  if rnd = 0 then
    let m := rmodeOf (fpctl.toNat % 8)
    if m = .rna ∧ !isCvt then .rne else m
  else rmodeOf (rnd.toNat - 1)

/-- ftz32 of `%fpctl` (Table 3-4). -/
def ftz32 (fpctl : Word) : Bool := fpctl.getLsbD 3
/-- ftz16: f16 and bf16. -/
def ftz16 (fpctl : Word) : Bool := fpctl.getLsbD 4
/-- ftz64. -/
def ftz64 (fpctl : Word) : Bool := fpctl.getLsbD 5

end Sys2Proof.Machine
end

