-- ==== Sys2Proof/Machine/Float.lean ====
section
/-!
DEFINITION. Floating-point formats and exact arithmetic with one rounding (spec/04_number_formats.md, R66 to R83).

A decoded value is NaN, a signed infinity, or a sign with a magnitude m·2^e, where m = 0 is a signed zero. Sums, products and fused
multiply-adds are exact; the rounding of R78 comes last. A result that is not a dyadic rational (a quotient, a root, a
transcendental) is given by a longer magnitude whose last bit is set when anything lies beyond it, which rounds as the exact value
does.
-/
namespace Sys2Proof.Machine

/-! ## Formats (Tables 4-1 to 4-4) -/

/-- A floating format: fraction bits, exponent bits, and whether it has infinities (`ieee`), only NaNs (e4m3), or neither (e2m1). -/
structure FloatFmt where
  /-- stored fraction bits: p(f) -/
  frac : Nat
  /-- exponent bits -/
  exps : Nat
  /-- 0: IEEE pattern; 1: e4m3; 2: e2m1 -/
  kind : Nat
deriving DecidableEq, Repr

def f64 : FloatFmt := { frac := 52, exps := 11, kind := 0 }
def f32 : FloatFmt := { frac := 23, exps := 8, kind := 0 }
def f16 : FloatFmt := { frac := 10, exps := 5, kind := 0 }
def bf16 : FloatFmt := { frac := 7, exps := 8, kind := 0 }
def e4m3 : FloatFmt := { frac := 3, exps := 4, kind := 1 }
def e5m2 : FloatFmt := { frac := 2, exps := 5, kind := 0 }
def e2m1 : FloatFmt := { frac := 1, exps := 2, kind := 2 }

/-- Width in bits. -/
def fmtBits (f : FloatFmt) : Nat := 1 + f.exps + f.frac
/-- The exponent bias. -/
def fmtBias (f : FloatFmt) : Nat := 2 ^ (f.exps - 1) - 1
/-- emin(f): the exponent of the smallest normal. -/
def fmtEmin (f : FloatFmt) : Int := 1 - (fmtBias f : Int)
/-- The exponent of the largest finite value. -/
def fmtEmax (f : FloatFmt) : Int := if f.kind = 0 then fmtBias f else fmtBias f + 1
/-- Significand of the largest finite value, with `frac` fraction bits: all ones, but 1.75 for e4m3. -/
def fmtMaxSig (f : FloatFmt) : Nat := if f.kind = 1 then 14 else 2 ^ (f.frac + 1) - 1
/-- The canonical NaN (Tables 4-1 and 4-3; R82). -/
def fmtNan (f : FloatFmt) : Nat :=
  if f.kind = 1 then 0x7F else (2 ^ f.exps - 1) * 2 ^ f.frac + 2 ^ (f.frac - 1)

/-- A decoded value. -/
inductive FVal where
  | nan
  | inf (neg : Bool)
  /-- (−1)^neg · m · 2^e -/
  | fin (neg : Bool) (m : Nat) (e : Int)
deriving DecidableEq, Repr

/-- Decode the bits of a format (R67 to R69). -/
def fdecode (f : FloatFmt) (x : Nat) : FVal :=
  let neg := bitOf x (f.exps + f.frac)
  let e := bitField x f.frac f.exps
  let m := bitField x 0 f.frac
  if e = 2 ^ f.exps - 1 ∧ f.kind = 0 then (if m = 0 then .inf neg else .nan)
  else if e = 2 ^ f.exps - 1 ∧ f.kind = 1 ∧ m = 2 ^ f.frac - 1 then .nan
  else if e = 0 then .fin neg m (fmtEmin f - f.frac)
  else .fin neg (2 ^ f.frac + m) ((e : Int) - fmtBias f - f.frac)

/-- Whether bits of a format are a subnormal. -/
def fsubnormal (f : FloatFmt) (x : Nat) : Bool := bitField x f.frac f.exps == 0 && bitField x 0 f.frac != 0

/-- Read an input under its flush bit: a subnormal reads as zero of its sign (R81). -/
def fread (f : FloatFmt) (ftz : Bool) (x : Nat) : FVal :=
  if ftz ∧ fsubnormal f x then .fin (bitOf x (f.exps + f.frac)) 0 0 else fdecode f x

/-- Encode a value the format holds exactly; NaN is canonical. A significand is given in units of the format's own spacing by
`fround`, and any magnitude is normalised here. -/
def fencode (f : FloatFmt) : FVal → Nat
  | .nan => fmtNan f
  | .inf neg => (if neg then 2 ^ (f.exps + f.frac) else 0) + (2 ^ f.exps - 1) * 2 ^ f.frac
  | .fin neg m e =>
    let sign := if neg then 2 ^ (f.exps + f.frac) else 0
    if m = 0 then sign
    else
      let top : Int := e + Nat.log2 m
      let ex := max top (fmtEmin f)
      let q := ex - f.frac
      let sig := if q ≤ e then m * 2 ^ (e - q).toNat else m / 2 ^ (q - e).toNat
      if sig < 2 ^ f.frac then sign + sig
      else sign + (ex + fmtBias f).toNat * 2 ^ f.frac + (sig - 2 ^ f.frac)

/-! ## Rounding (R78, R79) -/

/-- m / 2^sh rounded to an integer for a sign and mode. -/
def roundShift (mode : RMode) (neg : Bool) (m sh : Nat) : Nat :=
  let lo := m / 2 ^ sh
  let r := m % 2 ^ sh
  if r = 0 then lo
  else match mode with
    | .rne => if 2 * r < 2 ^ sh then lo else if 2 ^ sh < 2 * r then lo + 1 else lo + lo % 2
    | .rna => if 2 * r < 2 ^ sh then lo else lo + 1
    | .rz => lo
    | .ru => if neg then lo else lo + 1
    | .rd => if neg then lo + 1 else lo

/-- The overflow result of a format (Table 4-7). -/
def overflowResult (f : FloatFmt) (mode : RMode) (neg : Bool) : FVal :=
  let top : FVal := .fin neg (fmtMaxSig f) (fmtEmax f - f.frac)
  if f.kind ≠ 0 then top
  else match mode with
    | .rne => .inf neg
    | .rna => .inf neg
    | .rz => top
    | .ru => if neg then top else .inf neg
    | .rd => if neg then .inf neg else top

/-- `round` of R78 for a nonzero magnitude m·2^e: the result, its flags, and whether it is tiny after rounding. -/
def fround (f : FloatFmt) (mode : RMode) (neg : Bool) (m : Nat) (e : Int) : FVal × Nat × Bool :=
  let top : Int := e + Nat.log2 m
  let ex := max top (fmtEmin f)
  let q := ex - f.frac
  let sh := (q - e).toNat
  let y := if q ≤ e then m * 2 ^ (e - q).toNat else roundShift mode neg m sh
  let inexact : Bool := decide (e < q) && m % 2 ^ sh != 0
  let shU := (top - f.frac - e).toNat
  let carried : Bool := decide (e < top - f.frac) && roundShift mode neg m shU == 2 ^ (f.frac + 1)
  let tiny : Bool := decide (top < fmtEmin f) && !(decide (top + 1 = fmtEmin f) && carried)
  let tooBig : Bool := decide (fmtEmax f < ex) ||
    (decide (ex = fmtEmax f) && decide (fmtMaxSig f < y))
  if tooBig then (overflowResult f mode neg, flagOverflow ||| flagInexact, false)
  else (.fin neg y q, flagIf inexact flagInexact ||| flagIf (tiny && inexact) flagUnderflow, tiny)

/-- Deliver an exact result: `fres` of chapter 10 without its first line. NaN becomes canonical, an infinity and a zero stand, and
anything else is rounded and flushed (R78 to R82). -/
def fdeliver (f : FloatFmt) (mode : RMode) (ftz : Bool) : FVal → Nat × Nat
  | .fin neg m e =>
    if m = 0 then (fencode f (.fin neg 0 0), 0)
    else
      let (v, fl, tiny) := fround f mode neg m e
      if tiny ∧ ftz then (fencode f (.fin neg 0 0), flagUnderflow ||| flagInexact) else (fencode f v, fl)
  | v => (fencode f v, 0)

/-! ## Exact operations (R80, Table 4-8)

Each answers the exact value and the flags of the operation itself; a set invalid or divide flag goes with the value it gives. -/

/-- Change the sign. -/
def fneg : FVal → FVal
  | .nan => .nan
  | .inf n => .inf (!n)
  | .fin n m e => .fin (!n) m e

/-- The signed integer of a magnitude in units of 2^u, u not above its exponent. -/
def finInt (neg : Bool) (m : Nat) (e u : Int) : Int :=
  let x : Int := m * 2 ^ (e - u).toNat
  if neg then -x else x

/-- The sum of two finite values; the sign of an exact zero by R80. -/
def finAdd (mode : RMode) (n1 : Bool) (m1 : Nat) (e1 : Int) (n2 : Bool) (m2 : Nat) (e2 : Int) : FVal :=
  let u := min e1 e2
  let t := finInt n1 m1 e1 u + finInt n2 m2 e2 u
  if t = 0 then .fin (if n1 = n2 then n1 else mode = .rd) 0 0
  else .fin (decide (t < 0)) t.natAbs u

/-- x + y. -/
def fadd (mode : RMode) : FVal → FVal → FVal × Nat
  | .nan, _ => (.nan, 0)
  | _, .nan => (.nan, 0)
  | .inf a, .inf b => if a = b then (.inf a, 0) else (.nan, flagInvalid)
  | .inf a, .fin _ _ _ => (.inf a, 0)
  | .fin _ _ _, .inf b => (.inf b, 0)
  | .fin n1 m1 e1, .fin n2 m2 e2 => (finAdd mode n1 m1 e1 n2 m2 e2, 0)

/-- x · y. -/
def fmul : FVal → FVal → FVal × Nat
  | .nan, _ => (.nan, 0)
  | _, .nan => (.nan, 0)
  | .inf a, .inf b => (.inf (a != b), 0)
  | .inf a, .fin b m _ => if m = 0 then (.nan, flagInvalid) else (.inf (a != b), 0)
  | .fin a m _, .inf b => if m = 0 then (.nan, flagInvalid) else (.inf (a != b), 0)
  | .fin n1 m1 e1, .fin n2 m2 e2 => (.fin (n1 != n2) (m1 * m2) (e1 + e2), 0)

/-- x · y + z, rounded once by the caller; 0 × ∞ is invalid even when z is NaN (R215). -/
def ffma (mode : RMode) (x y z : FVal) : FVal × Nat :=
  let p := fmul x y
  if p.2 ≠ 0 then p else fadd mode p.1 z

/-- x / y (Table 10-7). -/
def fdiv : FVal → FVal → FVal × Nat
  | .nan, _ => (.nan, 0)
  | _, .nan => (.nan, 0)
  | .inf _, .inf _ => (.nan, flagInvalid)
  | .inf a, .fin b _ _ => (.inf (a != b), 0)
  | .fin a _ _, .inf b => (.fin (a != b) 0 0, 0)
  | .fin a m1 e1, .fin b m2 e2 =>
    if m2 = 0 then (if m1 = 0 then (.nan, flagInvalid) else (.inf (a != b), flagDivide))
    else
      let k := 128 + Nat.log2 m2
      let q := m1 * 2 ^ k / m2
      let r := m1 * 2 ^ k % m2
      (.fin (a != b) (2 * q + (if r = 0 then 0 else 1)) (e1 - e2 - k - 1), 0)

/-- The integer square root of n, found bit by bit from bit b − 1 of the root down. -/
def isqrtFrom (n : Nat) : Nat → Nat → Nat
  | 0, r => r
  | b + 1, r => if (r + 2 ^ b) * (r + 2 ^ b) ≤ n then isqrtFrom n b (r + 2 ^ b) else isqrtFrom n b r
/-- The integer square root of n. -/
def isqrt (n : Nat) : Nat := isqrtFrom n (Nat.log2 n / 2 + 1) 0

/-- √x for a positive magnitude. -/
def finSqrt (m : Nat) (e : Int) : FVal :=
  let m' := if e % 2 = 0 then m else 2 * m
  let e' := if e % 2 = 0 then e else e - 1
  let n := m' * 2 ^ 160
  let r := isqrt n
  .fin false (2 * r + (if r * r = n then 0 else 1)) (e' / 2 - 81)

/-- √x (Table 10-7). -/
def fsqrt : FVal → FVal × Nat
  | .nan => (.nan, 0)
  | .inf n => if n then (.nan, flagInvalid) else (.inf false, 0)
  | .fin n m e => if m = 0 then (.fin n 0 0, 0) else if n then (.nan, flagInvalid) else (finSqrt m e, 0)

/-- 1 / √x (Table 10-7): the root of 1 / x, taken to many more bits than a result keeps. -/
def frsq : FVal → FVal × Nat
  | .nan => (.nan, 0)
  | .inf n => if n then (.nan, flagInvalid) else (.fin false 0 0, 0)
  | .fin n m e =>
    if m = 0 then (.inf n, flagDivide)
    else if n then (.nan, flagInvalid)
    else
      -- 1 / (m·2^e) = (2^k / m)·2^(-e-k), with -e-k even
      let k : Nat := 400 + (if e % 2 = 0 then 0 else 1)
      let n' := 2 ^ k / m
      let r := isqrt n'
      let exact : Bool := r * r * m == 2 ^ k
      (.fin false (2 * r + (if exact then 0 else 1)) ((-e - k) / 2 - 1), 0)

/-- Compare two values that are not NaN: the sign of x − y. −0 equals +0 (R167). -/
def fcompare : FVal → FVal → Int
  | .inf a, .inf b => if a = b then 0 else if a then -1 else 1
  | .inf a, _ => if a then -1 else 1
  | _, .inf b => if b then 1 else -1
  | .fin n1 m1 e1, .fin n2 m2 e2 =>
    let u := min e1 e2
    let t := finInt n1 m1 e1 u - finInt n2 m2 e2 u
    if t < 0 then -1 else if t = 0 then 0 else 1
  | _, _ => 0

/-- Whether a value is NaN. -/
def isNan : FVal → Bool
  | .nan => true
  | _ => false

/-- The sign of a value that is not NaN. -/
def isNeg : FVal → Bool
  | .nan => false
  | .inf n => n
  | .fin n _ _ => n

/-- A floating-point condition of Table 8-4, codes 0x0 to 0x7. -/
def floatCond (c : Nat) (x y : FVal) : Bool :=
  let un := isNan x || isNan y
  let d := fcompare x y
  match c with
  | 0 => !un && d == 0
  | 1 => un || d != 0
  | 2 => !un && decide (d < 0)
  | 3 => !un && decide (d ≤ 0)
  | 4 => !un && decide (0 < d)
  | 5 => !un && decide (0 ≤ d)
  | 6 => !un
  | _ => un

/-- The lesser operand; −0 below +0, and NaN if either is NaN (R216). -/
def fmin (x y : FVal) : FVal :=
  if isNan x || isNan y then .nan
  else if fcompare x y < 0 then x
  else if fcompare x y = 0 then (if isNeg x then x else y)
  else y
/-- The greater operand (R216). -/
def fmax (x y : FVal) : FVal :=
  if isNan x || isNan y then .nan
  else if fcompare x y < 0 then y
  else if fcompare x y = 0 then (if isNeg x then y else x)
  else x

/-- x rounded to an integer by the mode: sign, magnitude, and whether it differs from x. -/
def roundInt (mode : RMode) (neg : Bool) (m : Nat) (e : Int) : Nat × Bool :=
  if 0 ≤ e then (m * 2 ^ e.toNat, false) else (roundShift mode neg m (-e).toNat, m % 2 ^ (-e).toNat != 0)

/-- x − trunc(x), with the sign of x (R217). -/
def ffrac : FVal → FVal
  | .nan => .nan
  | .inf n => .fin n 0 0
  | .fin n m e => if 0 ≤ e then .fin n 0 0 else .fin n (m % 2 ^ (-e).toNat) e

/-- x rounded to an integral value; a zero keeps the sign of x (R217). -/
def frnd (mode : RMode) : FVal → FVal
  | .fin n m e => .fin n (roundInt mode n m e).1 0
  | v => v

/-- The class bit of Table 10-5 for the bits of a format. -/
def fclassBit (f : FloatFmt) (x : Nat) : Nat :=
  match fdecode f x with
  | .nan => 8
  | .inf n => if n then 0 else 7
  | .fin n m _ =>
    if m = 0 then (if n then 3 else 4)
    else if fsubnormal f x then (if n then 2 else 5)
    else (if n then 1 else 6)

/-! ## Integers to and from floating point (Table 4-9) -/

/-- An exact integer as a value; zero is +0. -/
def fofInt (x : Int) : FVal := .fin (decide (x < 0)) x.natAbs 0

/-- Float to integer: rounded by the mode, then the range test on the rounded value (Table 4-9). -/
def ftoInt (mode : RMode) (lo hi : Int) : FVal → Int × Nat
  | .nan => (0, flagInvalid)
  | .inf n => (if n then lo else hi, flagInvalid)
  | .fin n m e =>
    let (y, diff) := roundInt mode n m e
    let v : Int := if n then -(y : Int) else y
    if v < lo then (lo, flagInvalid) else if hi < v then (hi, flagInvalid) else (v, flagIf diff flagInexact)

end Sys2Proof.Machine
end

