-- ==== Sys2Proof/Machine/Elementary.lean ====
section
/-!
DEFINITION. The transcendental functions of R218, to 320 fraction bits in fixed point.

Wherever the exact result is a dyadic rational it is given as such. Elsewhere it is irrational, so that no result is a tie; the series
below are carried to far more bits than an f32 result keeps, and the last bit is set to say that the exact value lies beyond
(notes/assumptions/20.md).
-/
namespace Sys2Proof.Machine

/-- One in the fixed-point form. -/
def fixOne : Nat := 2 ^ 320
/-- π in the fixed-point form, rounded down. -/
def fixPi : Nat := 0x3243f6a8885a308d313198a2e03707344a4093822299f31d0082efa98ec4e6c89452821e638d01377
/-- ln 2 in the fixed-point form, rounded down. -/
def fixLn2 : Nat := 0xb17217f7d1cf79abc9e3b39803f2f6af40f343267298b62d8a0d175b8baafa2be7b876206debac98

/-- The series of e^y from term i on: `t` is the term before, `s` the sum so far. -/
def expSeries (y : Nat) : Nat → Nat → Nat → Nat → Nat
  | 0, _, _, s => s
  | n + 1, i, t, s =>
    let t' := t * y / fixOne / i
    expSeries y n (i + 1) t' (s + t')

/-- 2^x.
DESIGN CHOICE: notes/assumptions/20.md. -/
def fexp2 : FVal → FVal × Nat
  | .nan => (.nan, 0)
  | .inf n => (if n then .fin false 0 0 else .inf false, 0)
  | .fin n m e =>
    let k := (-e).toNat
    let i : Int := (m * 2 ^ e.toNat / 2 ^ k : Nat)
    let fr := m % 2 ^ k
    if fr = 0 then (.fin false 1 (max (-2000) (min 2000 (if n then -i else i))), 0)
    else
      let whole := max (-2000) (min 2000 (if n then -i - 1 else i))
      let part := if n then 2 ^ k - fr else fr
      (.fin false (2 * expSeries (part * fixLn2 / 2 ^ k) 90 1 fixOne fixOne + 1) (whole - 321), 0)

/-- The series of atanh z from power z^(2i+1) on: `p` is that power, `q` is z². -/
def atanhSeries (q : Nat) : Nat → Nat → Nat → Nat → Nat
  | 0, _, _, s => s
  | n + 1, i, p, s => atanhSeries q n (i + 1) (p * q / fixOne) (s + p / (2 * i + 1))

/-- log2 x. -/
def flog2 : FVal → FVal × Nat
  | .nan => (.nan, 0)
  | .inf n => if n then (.nan, flagInvalid) else (.inf false, 0)
  | .fin n m e =>
    if m = 0 then (.inf true, flagDivide)
    else if n then (.nan, flagInvalid)
    else
      let b := Nat.log2 m
      let top : Int := e + b
      if m = 2 ^ b then (fofInt top, 0)
      else
        let z := (m - 2 ^ b) * fixOne / (m + 2 ^ b)
        let ln := 2 * atanhSeries (z * z / fixOne) 110 0 z 0
        let l : Int := top * fixOne + (ln * fixOne / fixLn2 : Nat)
        (.fin (decide (l < 0)) (2 * l.natAbs + 1) (-321), 0)

/-- The series of sin θ from power θ^(2i+1)/(2i+1)! on: `t` is that term, `q` is θ². -/
def sinSeries (q : Nat) : Nat → Nat → Nat → Int → Int
  | 0, _, _, s => s
  | n + 1, i, t, s =>
    sinSeries q n (i + 1) (t * q / fixOne / ((2 * i + 2) * (2 * i + 3))) (if i % 2 = 0 then s + t else s - t)

/-- sin(π·r/2^k) for a fraction strictly between 0 and 1 half-turn: exactly 1 at one half, otherwise the series. -/
def sinFraction (r k : Nat) : FVal :=
  let r' := min r (2 ^ k - r)
  if 2 * r' = 2 ^ k then .fin false 1 0
  else
    let th := r' * fixPi / 2 ^ k
    .fin false (2 * (sinSeries (th * th / fixOne) 60 0 th 0).toNat + 1) (-321)

/-- sin(π·x): an integer gives zero with its sign. -/
def fsin : FVal → FVal × Nat
  | .nan => (.nan, 0)
  | .inf _ => (.nan, 0)
  | .fin n m e =>
    let k := (-e).toNat
    if m % 2 ^ k = 0 then (.fin n 0 0, 0)
    else
      let v := sinFraction (m % 2 ^ k) k
      (if (m / 2 ^ k % 2 = 1) = (n = true) then v else fneg v, 0)

/-- cos(π·x): an integer plus one half gives +0. -/
def fcos : FVal → FVal × Nat
  | .nan => (.nan, 0)
  | .inf _ => (.nan, 0)
  | .fin _ m e =>
    let k := (-e).toNat
    if m % 2 ^ k = 0 then (.fin (m * 2 ^ e.toNat / 2 ^ k % 2 == 1) 1 0, 0)
    else
      let r := m + 2 ^ (k - 1)
      if r % 2 ^ k = 0 then (.fin false 0 0, 0)
      else
        let v := sinFraction (r % 2 ^ k) k
        (if r / 2 ^ k % 2 = 1 then fneg v else v, 0)

end Sys2Proof.Machine
end

