-- ==== Sys2Proof/Machine/Uniform.lean ====
section
/-!
DEFINITION. Uniform arithmetic, constants, system registers and mask instructions (spec/09_isa_uniform_control.md, R176 to R188).
-/
namespace Sys2Proof.Machine

/-! ## The functions of Tables 9-3 and 9-4 -/

/-- `sshl`: zero for an amount of 32 or more. -/
def shlWord (x y : Word) : Word := if y.toNat < 32 then x <<< y.toNat else 0
/-- `sshr`. -/
def shrWord (x y : Word) : Word := if y.toNat < 32 then x >>> y.toNat else 0
/-- `ssra`: amounts above 31 act as 31. -/
def sraWord (x y : Word) : Word := x.sshiftRight (min y.toNat 31)
/-- `smulh`: bits 63 to 32 of the typed product. -/
def mulhWord (t : Nat) (x y : Word) : Word := BitVec.ofNat 32 (wrapTo 64 (typed t x.toNat * typed t y.toNat) / 2 ^ 32)
/-- `smin`: the lesser as the type reads them. -/
def minWord (t : Nat) (x y : Word) : Word := if typed t y.toNat < typed t x.toNat then y else x
/-- `smax`: the greater. -/
def maxWord (t : Nat) (x y : Word) : Word := if typed t x.toNat < typed t y.toNat then y else x

/-- The effective width of a bit field described by y (R183). -/
def fieldWidth (y : Word) : Nat := if 32 ≤ y.toNat % 256 then 0 else min (y.toNat / 256 % 256) (32 - y.toNat % 256)
/-- Bit-field extract (R183). -/
def bfeWord (isSigned : Bool) (x y : Word) : Word :=
  let w := fieldWidth y
  let f := bitField x.toNat (y.toNat % 256) w
  if w = 0 then 0 else if isSigned then BitVec.ofInt 32 (signed w f) else BitVec.ofNat 32 f
/-- Bit-field insert of x into `old` (R183). -/
def bfiWord (old x y : Word) : Word :=
  let w := fieldWidth y
  let off := y.toNat % 256
  if w = 0 then old
  else
    let m := BitVec.ofNat 32 ((2 ^ w - 1) * 2 ^ off)
    (old &&& ~~~ m) ||| (BitVec.ofNat 32 (bitField x.toNat 0 w * 2 ^ off))

/-! ## Shapes -/

/-- Write sd and move on. -/
def finishU (s : State) (d : Byte) (v : Word) : Res := .next (advance (modMe s (setSreg d.toNat v)) s.cur)
/-- Write the pair s[d:d+1] and move on. -/
def finishU2 (s : State) (d : Byte) (v : DWord) : Res := .next (advance (modMe s (setSpair d.toNat v)) s.cur)

/-- A two-source uniform operation in format T (R179). -/
def uniT (sg : Sig) (f : FmtT) (op : Word → Word → Word) (s : State) : Res :=
  issue sg (fun t => finishU t f.d (op (uniWord (me t) f.ka f.a) (uniWord (me t) f.kb f.b))) s
/-- A two-source uniform operation in format I: the immediate takes the place of b (R179). -/
def uniI (sg : Sig) (f : FmtI) (op : Word → Word → Word) (s : State) : Res :=
  issue sg (fun t => finishU t f.d (op (uniWord (me t) f.ka f.a) f.imm)) s

/-! ## Two-source operations (Table 9-3) -/

def execSadd (f : FmtT) (s : State) : Res := uniT (sigSaddOf f) f (fun x y => x + y) s
def execSaddImm (f : FmtI) (s : State) : Res := uniI (sigSaddImmOf f) f (fun x y => x + y) s
def execSsub (f : FmtT) (s : State) : Res := uniT (sigSsubOf f) f (fun x y => x - y) s
def execSsubImm (f : FmtI) (s : State) : Res := uniI (sigSsubImmOf f) f (fun x y => x - y) s
def execSmul (f : FmtT) (s : State) : Res := uniT (sigSmulOf f) f (fun x y => x * y) s
def execSmulImm (f : FmtI) (s : State) : Res := uniI (sigSmulImmOf f) f (fun x y => x * y) s
def execSmulh (f : FmtT) (s : State) : Res := uniT (sigSmulhOf f) f (mulhWord (f.op.toNat % 16)) s
def execSmulhImm (f : FmtI) (s : State) : Res := uniI (sigSmulhImmOf f) f (mulhWord f.op.toNat) s
def execSand (f : FmtT) (s : State) : Res := uniT (sigSandOf f) f (fun x y => x &&& y) s
def execSandImm (f : FmtI) (s : State) : Res := uniI (sigSandImmOf f) f (fun x y => x &&& y) s
def execSor (f : FmtT) (s : State) : Res := uniT (sigSorOf f) f (fun x y => x ||| y) s
def execSorImm (f : FmtI) (s : State) : Res := uniI (sigSorImmOf f) f (fun x y => x ||| y) s
def execSxor (f : FmtT) (s : State) : Res := uniT (sigSxorOf f) f (fun x y => x ^^^ y) s
def execSxorImm (f : FmtI) (s : State) : Res := uniI (sigSxorImmOf f) f (fun x y => x ^^^ y) s
def execSandn (f : FmtT) (s : State) : Res := uniT (sigSandnOf f) f (fun x y => x &&& ~~~ y) s
def execSandnImm (f : FmtI) (s : State) : Res := uniI (sigSandnImmOf f) f (fun x y => x &&& ~~~ y) s
def execSshl (f : FmtT) (s : State) : Res := uniT (sigSshlOf f) f shlWord s
def execSshlImm (f : FmtI) (s : State) : Res := uniI (sigSshlImmOf f) f shlWord s
def execSshr (f : FmtT) (s : State) : Res := uniT (sigSshrOf f) f shrWord s
def execSshrImm (f : FmtI) (s : State) : Res := uniI (sigSshrImmOf f) f shrWord s
def execSsra (f : FmtT) (s : State) : Res := uniT (sigSsraOf f) f sraWord s
def execSsraImm (f : FmtI) (s : State) : Res := uniI (sigSsraImmOf f) f sraWord s
def execSmin (f : FmtT) (s : State) : Res := uniT (sigSminOf f) f (minWord (f.op.toNat % 16)) s
def execSminImm (f : FmtI) (s : State) : Res := uniI (sigSminImmOf f) f (minWord f.op.toNat) s
def execSmax (f : FmtT) (s : State) : Res := uniT (sigSmaxOf f) f (maxWord (f.op.toNat % 16)) s
def execSmaxImm (f : FmtI) (s : State) : Res := uniI (sigSmaxImmOf f) f (maxWord f.op.toNat) s

/-! ## Compare and select (R180, R181) -/

/-- `scmp`: 1 when the condition of op[7:4] holds for the type of op[3:0], else 0. -/
def execScmp (f : FmtT) (s : State) : Res :=
  issue (sigScmpOf f) (fun t =>
    let ty := f.op.toNat % 16
    let wide : Bool := decide (typeRegs ty = 2)
    let x := if wide then (uniPair (me t) f.ka f.a).toNat else (uniWord (me t) f.ka f.a).toNat
    let y := if wide then (uniPair (me t) f.kb f.b).toNat else (uniWord (me t) f.kb f.b).toNat
    finishU t f.d (if intCond (f.op.toNat / 16) (typed ty x) (typed ty y) then 1 else 0)) s
/-- `scmp` with an immediate: condition and type by R167. -/
def execScmpImm (f : FmtI) (s : State) : Res :=
  uniI (sigScmpImmOf f) f (fun x y =>
    let (c, ty) := immCond f.op.toNat
    if intCond c (typed ty x.toNat) (typed ty y.toNat) then 1 else 0) s
/-- `ssel`: sd := (c ≠ 0) ? a : b. -/
def execSsel (f : FmtT) (s : State) : Res :=
  issue (sigSselOf f) (fun t =>
    finishU t f.d (if uniWord (me t) f.kc f.c ≠ 0 then uniWord (me t) f.ka f.a else uniWord (me t) f.kb f.b)) s
/-- `ssel` with an immediate: the old sd is the condition. -/
def execSselImm (f : FmtI) (s : State) : Res :=
  issue (sigSselImmOf f) (fun t =>
    finishU t f.d (if sreg (me t) f.d.toNat ≠ 0 then uniWord (me t) f.ka f.a else f.imm)) s

/-! ## Moves, 64-bit arithmetic, bit fields and counts (R182, R183) -/

/-- `smov`: op selects a word or a pair. -/
def execSmov (f : FmtT) (s : State) : Res :=
  issue (sigSmovOf f) (fun t =>
    if typeRegs f.op.toNat = 2 then finishU2 t f.d (uniPair (me t) f.ka f.a) else finishU t f.d (uniWord (me t) f.ka f.a)) s
/-- `sadd64`: register b is an even pair, as a and d are.
DEDUCED: notes/assumptions/8.md. -/
def execSadd64 (f : FmtT) (s : State) : Res :=
  issue (sigSadd64Of f) (fun t => finishU2 t f.d (uniPair (me t) f.ka f.a + uniPair (me t) f.kb f.b)) s
def execSadd64Imm (f : FmtI) (s : State) : Res :=
  issue (sigSadd64ImmOf f) (fun t => finishU2 t f.d (uniPair (me t) f.ka f.a + sextImm f.imm)) s
def execSsub64 (f : FmtT) (s : State) : Res :=
  issue (sigSsub64Of f) (fun t => finishU2 t f.d (uniPair (me t) f.ka f.a - uniPair (me t) f.kb f.b)) s
def execSsub64Imm (f : FmtI) (s : State) : Res :=
  issue (sigSsub64ImmOf f) (fun t => finishU2 t f.d (uniPair (me t) f.ka f.a - sextImm f.imm)) s

/-- A one-source count of a word or a pair (R182): `op` is given the width and the value.
DEDUCED: notes/assumptions/9.md. -/
def uniCountOf (sg : Sig) (f : FmtT) (op : Nat → Nat → Word) (s : State) : Res :=
  issue sg (fun t =>
    if typeRegs f.op.toNat = 2 then finishU t f.d (op 64 (uniPair (me t) f.ka f.a).toNat)
    else finishU t f.d (op 32 (uniWord (me t) f.ka f.a).toNat)) s
/-- `spopc`: the number of 1 bits. -/
def execSpopc (f : FmtT) (s : State) : Res := uniCountOf (sigSpopcOf f) f (fun w x => BitVec.ofNat 32 (popCount x w)) s
/-- `sclz`: the number of leading zeros. -/
def execSclz (f : FmtT) (s : State) : Res := uniCountOf (sigSclzOf f) f (fun w x => BitVec.ofNat 32 (leadingZeros x w)) s
/-- `sffs`: the index of the lowest 1 bit, or all ones. -/
def execSffs (f : FmtT) (s : State) : Res :=
  uniCountOf (sigSffsOf f) f (fun w x => match lowestBit x w with
    | some i => BitVec.ofNat 32 i
    | none => 0xFFFFFFFF) s

def execSbfe (f : FmtT) (s : State) : Res := uniT (sigSbfeOf f) f (bfeWord (f.op == 0)) s
def execSbfeImm (f : FmtI) (s : State) : Res := uniI (sigSbfeImmOf f) f (bfeWord (f.op == 0)) s
def execSbfi (f : FmtT) (s : State) : Res :=
  issue (sigSbfiOf f) (fun t =>
    finishU t f.d (bfiWord (sreg (me t) f.d.toNat) (uniWord (me t) f.ka f.a) (uniWord (me t) f.kb f.b))) s
def execSbfiImm (f : FmtI) (s : State) : Res :=
  issue (sigSbfiImmOf f) (fun t => finishU t f.d (bfiWord (sreg (me t) f.d.toNat) (uniWord (me t) f.ka f.a) f.imm)) s

/-! ## Constants and system registers (R184 to R186) -/

/-- `sli`: a word, or a pair sign-extended (op 2) or zero-extended (op 3). -/
def execSli (f : FmtI) (s : State) : Res :=
  issue (sigSliOf f) (fun t =>
    if f.op = 2 then finishU2 t f.d (sextImm f.imm)
    else if f.op = 3 then finishU2 t f.d (f.imm.zeroExtend 64)
    else finishU t f.d f.imm) s

/-- `sldk`: the argument block's word or dword at the byte offset a + imm (R185); any other offset is cause 0x0D, detail 2. -/
def execSldk (f : FmtI) (s : State) : Res :=
  issue (sigSldkOf f) (fun t =>
    let size : Nat := if f.op = 2 then 8 else 4
    let o : Int := (uniWord (me t) f.ka f.a).toNat + f.imm.toInt
    let args := (gridOf t t.cur).args
    if o < 0 ∨ o % (size : Int) ≠ 0 ∨ (args.length : Int) < o + size then .next (takeTrap t t.cur 0x0D 2 none)
    else
      let v := bytesLE ((args.drop o.toNat).take size)
      if f.op = 2 then finishU2 t f.d (BitVec.ofNat 64 v) else finishU t f.d (BitVec.ofNat 32 v)) s

/-- The core number a group reports: a group that took the return trap keeps its quay core's (R319). -/
def reportedCore (s : State) (g : Nat) : Nat := ((teamOf s g).idCore).getD (coreOf s g)
/-- `%clusterid`: four cores to a cluster, and 288 + s for the quay cores of stack s (R16, R319). -/
def clusterOf (core : Nat) : Nat := if core < numCores then core / 4 else 288 + (core - numCores) / 8

/-- The value of a system register (Table 3-3); none for a number that is absent, `%laneid` among them. -/
def sysRead (s : State) (g n : Nat) : Option Nat :=
  let x := grp s g
  let t := teamOf s g
  let i := gridOf s g
  match n with
  | 0x01 => some i.width
  | 0x02 => some x.gid
  | 0x03 => some t.teamid
  | 0x04 => some x.role
  | 0x05 => some (reportedCore s g)
  | 0x06 => some (clusterOf (reportedCore s g))
  | 0x07 => some (dieOfCore (reportedCore s g))
  | 0x08 => some s.deviceId
  | 0x09 => some i.nteams
  | 0x0A => some t.ngroups
  | 0x0B => some x.launched
  | 0x0C => some x.live.toNat
  | 0x0D => some t.rung
  | 0x0E => some i.prio
  | 0x10 => some (timeOf s)
  | 0x11 => some s.clock
  | 0x12 => some i.deadline.toNat
  | 0x18 => some (x.fpctl &&& 0x3F).toNat
  | 0x19 => some (x.fpflags &&& 0x3F).toNat
  | 0x1A => some (x.trapen &&& 0x3F).toNat
  | 0x1B => some x.trapbase.toNat
  | 0x1C => some x.trapcause.toNat
  | 0x1D => some x.trappc.toNat
  | 0x1E => some x.trapexec.toNat
  | 0x1F => some x.faultaddr.toNat
  | _ => none

/-- Write a system register (R57, R58, R186): a write to a read-only register or to reserved bits is discarded; rounding mode 5 to 7
leaves that field. `wm` is the mask of the group's lanes (R25).
DEDUCED: notes/assumptions/12.md. -/
def sysWrite (n : Nat) (wm v : DWord) (x : Group) : Group :=
  let lo : Word := v.extractLsb' 0 32
  match n with
  | 0x18 => { x with fpctl := if 5 ≤ lo.toNat % 8 then (lo &&& 0x38) ||| (x.fpctl &&& 7) else lo &&& 0x3F }
  | 0x19 => { x with fpflags := lo &&& 0x3F }
  | 0x1B => { x with trapbase := v }
  | 0x1D => { x with trappc := v }
  | 0x1E => { x with trapexec := v &&& wm }
  | _ => x

/-- `srd`: a system register into sd or its pair; an absent number is cause 0x0D, detail 3. -/
def execSrd (f : FmtI) (s : State) : Res :=
  issue (sigSrdOf f) (fun t =>
    match sysRead t t.cur f.imm.toNat with
    | none => .next (takeTrap t t.cur 0x0D 3 none)
    | some v => if sysRegs f.imm.toNat = 2 then finishU2 t f.d (BitVec.ofNat 64 v) else finishU t f.d (BitVec.ofNat 32 v)) s

/-- `swr`: a system register from a uniform or special source. -/
def execSwr (f : FmtI) (s : State) : Res :=
  issue (sigSwrOf f) (fun t =>
    if (sysRead t t.cur f.imm.toNat).isNone then .next (takeTrap t t.cur 0x0D 3 none)
    else
      let v := if sysRegs f.imm.toNat = 2 then uniPair (me t) f.ka f.a else (uniWord (me t) f.ka f.a).zeroExtend 64
      .next (advance (modMe t (sysWrite f.imm.toNat (widthMask (widthOf t t.cur)) v)) t.cur)) s

/-! ## Exec-mask instructions (R187, Tables 9-5 and 9-6) -/

/-- First source of a mask instruction: exec when ax is 1, else a pair or special; either AND wm. -/
def maskA (s : State) (f : FmtT) : DWord :=
  (if f.op.getLsbD 1 then (me s).exec else uniPair (me s) f.ka f.a) &&& widthMask (widthOf s s.cur)
/-- Second source of a mask instruction. -/
def maskB (s : State) (f : FmtT) : DWord := uniPair (me s) f.kb f.b &&& widthMask (widthOf s s.cur)
/-- exec receives a value AND `%live` (R28). -/
def setExec (v : DWord) (x : Group) : Group := { x with exec := v &&& x.live }
/-- A mask instruction of two sources: the result goes to exec, or AND wm to the pair when dp is 1. -/
def mask2 (sg : Sig) (f : FmtT) (op : DWord → DWord → DWord) (s : State) : Res :=
  issue sg (fun t =>
    let v := op (maskA t f) (maskB t f) &&& widthMask (widthOf t t.cur)
    if f.op.getLsbD 0 then finishU2 t f.d v else .next (advance (modMe t (setExec v)) t.cur)) s

/-- `mget`: s[d:d+1] := exec. -/
def execMget (f : FmtT) (s : State) : Res :=
  issue (sigMgetOf f) (fun t => finishU2 t f.d ((me t).exec &&& widthMask (widthOf t t.cur))) s
/-- `mset`: exec := a. -/
def execMset (f : FmtT) (s : State) : Res :=
  issue (sigMsetOf f) (fun t =>
    .next (advance (modMe t (setExec (uniPair (me t) f.ka f.a &&& widthMask (widthOf t t.cur)))) t.cur)) s
def execMand (f : FmtT) (s : State) : Res := mask2 (sigMandOf f) f (fun x y => x &&& y) s
def execMandn (f : FmtT) (s : State) : Res := mask2 (sigMandnOf f) f (fun x y => x &&& ~~~ y) s
def execMor (f : FmtT) (s : State) : Res := mask2 (sigMorOf f) f (fun x y => x ||| y) s
def execMxor (f : FmtT) (s : State) : Res := mask2 (sigMxorOf f) f (fun x y => x ^^^ y) s
/-- `mcnt`: the number of 1 bits of the first source. -/
def execMcnt (f : FmtT) (s : State) : Res :=
  issue (sigMcntOf f) (fun t => finishU t f.d (BitVec.ofNat 32 (popCount (maskA t f).toNat 64))) s

end Sys2Proof.Machine
end

