-- ==== Sys2Proof/Machine/VectorInt.lean ====
section
/-!
DEFINITION. Vector integer instructions (spec/10_isa_vector_arithmetic.md, R203 to R214). No one of them sets a flag.
-/
namespace Sys2Proof.Machine

/-! ## Reading and writing lanes (R206) -/

/-- Write `cnt` registers from d in each lane of a list; every value was computed before any write (R12). -/
def writeLanes (d cnt : Nat) (ls : List Nat) (v : Nat → Nat) (x : Group) : Group :=
  ls.foldl (fun y l => setVlanes d cnt l (v l) y) x

/-- Write every active lane and move on. -/
def finishV (s : State) (d : Byte) (cnt : Nat) (v : Nat → Nat) : Res :=
  .next (advance (modMe s (writeLanes d.toNat cnt (activeLanes s s.cur) v)) s.cur)

/-- What a source delivers to lane l as a number: a word, or a pair. -/
def srcBits (x : Group) (cnt : Nat) (k : BitVec 2) (n : Byte) (l : Nat) : Nat :=
  if cnt = 2 then (srcPair x k n l).toNat else (srcWord x k n l).toNat

/-- The immediate in the place of b: extended by type for 64-bit types (R204). -/
def immBits (t : Nat) (imm : Word) : Nat := if t = 2 then (sextImm imm).toNat else imm.toNat

/-- A two-source instruction in format T: `op` is given the operands' bits. -/
def vecT (sg : Sig) (f : FmtT) (cnt : Nat) (op : Nat → Nat → Nat) (s : State) : Res :=
  issue sg (fun t => finishV t f.d cnt (fun l => op (srcBits (me t) cnt f.ka f.a l) (srcBits (me t) cnt f.kb f.b l))) s
/-- A two-source instruction in format I with `imm` as its second operand. -/
def vecI (sg : Sig) (f : FmtI) (cnt imm : Nat) (op : Nat → Nat → Nat) (s : State) : Res :=
  issue sg (fun t => finishV t f.d cnt (fun l => op (srcBits (me t) cnt f.ka f.a l) imm)) s
/-- A one-source instruction: `na` registers read, `nd` written. -/
def vecT1 (sg : Sig) (f : FmtT) (nd na : Nat) (op : Nat → Nat) (s : State) : Res :=
  issue sg (fun t => finishV t f.d nd (fun l => op (srcBits (me t) na f.ka f.a l))) s
/-- A three-source instruction on words. -/
def vecT3 (sg : Sig) (f : FmtT) (op : Nat → Nat → Nat → Nat) (s : State) : Res :=
  issue sg (fun t => finishV t f.d 1 (fun l =>
    op (srcBits (me t) 1 f.ka f.a l) (srcBits (me t) 1 f.kb f.b l) (srcBits (me t) 1 f.kc f.c l))) s

/-! ## The functions of Table 10-3 -/

/-- Lower limit of an integer type (R75). -/
def typeLo (t : Nat) : Int := if typeSigned t then -(2 ^ (typeBits t - 1) : Nat) else 0
/-- Upper limit of an integer type (R75). -/
def typeHi (t : Nat) : Int := if typeSigned t then (2 ^ (typeBits t - 1) : Nat) - 1 else (2 ^ typeBits t : Nat) - 1
/-- `narrow` of 10.2. -/
def narrow (x : Int) (t : Nat) (sat : Bool) : Nat := wrapTo (typeBits t) (if sat then min (max x (typeLo t)) (typeHi t) else x)

/-- X + Y narrowed. -/
def vaddOf (t : Nat) (sat : Bool) (x y : Nat) : Nat := narrow (typed t x + typed t y) t sat
/-- X − Y narrowed. -/
def vsubOf (t : Nat) (sat : Bool) (x y : Nat) : Nat := narrow (typed t x - typed t y) t sat
/-- Low half of the product. -/
def vmulOf (t x y : Nat) : Nat := wrapTo 32 (typed t x * typed t y)
/-- High half of the product. -/
def vmulhOf (t x y : Nat) : Nat := wrapTo 64 (typed t x * typed t y) / 2 ^ 32
/-- X·Y + C narrowed. -/
def vmadOf (t : Nat) (sat : Bool) (x y z : Nat) : Nat := narrow (typed t x * typed t y + typed t z) t sat
/-- x AND NOT y at width w. -/
def vandnOf (w x y : Nat) : Nat := x &&& (2 ^ w - 1 - y % 2 ^ w)
/-- Shift left at width w. -/
def vshlOf (w x y : Nat) : Nat := if y < w then x * 2 ^ y % 2 ^ w else 0
/-- Logical shift right at width w. -/
def vshrOf (w x y : Nat) : Nat := if y < w then x / 2 ^ y else 0
/-- Arithmetic shift right at width w. -/
def vsraOf (w x y : Nat) : Nat := wrapTo w (signed w x / 2 ^ min y (w - 1))
/-- The lesser as the type reads them. -/
def vminOf (t x y : Nat) : Nat := if typed t y < typed t x then y else x
/-- The greater. -/
def vmaxOf (t x y : Nat) : Nat := if typed t x < typed t y then y else x

/-- Width in bits of an operand of `cnt` registers. -/
def cntBits (cnt : Nat) : Nat := if cnt = 2 then 64 else 32

def execVadd (f : FmtT) (s : State) : Res :=
  vecT (sigVaddOf f) f (typeRegs f.op.toNat) (vaddOf f.op.toNat f.sat) s
def execVaddImm (f : FmtI) (s : State) : Res :=
  vecI (sigVaddImmOf f) f (typeRegs f.op.toNat) (immBits f.op.toNat f.imm) (vaddOf f.op.toNat false) s
def execVsub (f : FmtT) (s : State) : Res :=
  vecT (sigVsubOf f) f (typeRegs f.op.toNat) (vsubOf f.op.toNat f.sat) s
def execVsubImm (f : FmtI) (s : State) : Res :=
  vecI (sigVsubImmOf f) f (typeRegs f.op.toNat) (immBits f.op.toNat f.imm) (vsubOf f.op.toNat false) s
def execVmul (f : FmtT) (s : State) : Res := vecT (sigVmulOf f) f 1 (vmulOf f.op.toNat) s
def execVmulImm (f : FmtI) (s : State) : Res := vecI (sigVmulImmOf f) f 1 f.imm.toNat (vmulOf f.op.toNat) s
def execVmulh (f : FmtT) (s : State) : Res := vecT (sigVmulhOf f) f 1 (vmulhOf f.op.toNat) s
def execVmulhImm (f : FmtI) (s : State) : Res := vecI (sigVmulhImmOf f) f 1 f.imm.toNat (vmulhOf f.op.toNat) s
def execVmad (f : FmtT) (s : State) : Res := vecT3 (sigVmadOf f) f (vmadOf f.op.toNat f.sat) s
/-- Immediate `vmad`: the old d is C (R209). -/
def execVmadImm (f : FmtI) (s : State) : Res :=
  issue (sigVmadImmOf f) (fun t => finishV t f.d 1 (fun l =>
    vmadOf f.op.toNat false (srcBits (me t) 1 f.ka f.a l) f.imm.toNat (vlane (me t) f.d.toNat l).toNat)) s
def execVand (f : FmtT) (s : State) : Res := vecT (sigVandOf f) f (typeRegs f.op.toNat) (fun x y => x &&& y) s
def execVandImm (f : FmtI) (s : State) : Res :=
  vecI (sigVandImmOf f) f (typeRegs f.op.toNat) (immBits f.op.toNat f.imm) (fun x y => x &&& y) s
def execVor (f : FmtT) (s : State) : Res := vecT (sigVorOf f) f (typeRegs f.op.toNat) (fun x y => x ||| y) s
def execVorImm (f : FmtI) (s : State) : Res :=
  vecI (sigVorImmOf f) f (typeRegs f.op.toNat) (immBits f.op.toNat f.imm) (fun x y => x ||| y) s
def execVxor (f : FmtT) (s : State) : Res := vecT (sigVxorOf f) f (typeRegs f.op.toNat) (fun x y => x ^^^ y) s
def execVxorImm (f : FmtI) (s : State) : Res :=
  vecI (sigVxorImmOf f) f (typeRegs f.op.toNat) (immBits f.op.toNat f.imm) (fun x y => x ^^^ y) s
def execVandn (f : FmtT) (s : State) : Res :=
  vecT (sigVandnOf f) f (typeRegs f.op.toNat) (vandnOf (cntBits (typeRegs f.op.toNat))) s
def execVandnImm (f : FmtI) (s : State) : Res :=
  vecI (sigVandnImmOf f) f (typeRegs f.op.toNat) (immBits f.op.toNat f.imm) (vandnOf (cntBits (typeRegs f.op.toNat))) s
def execVshl (f : FmtT) (s : State) : Res :=
  vecT (sigVshlOf f) f (typeRegs f.op.toNat) (vshlOf (cntBits (typeRegs f.op.toNat))) s
/-- The shifts take the immediate zero-extended for every type (R204). -/
def execVshlImm (f : FmtI) (s : State) : Res :=
  vecI (sigVshlImmOf f) f (typeRegs f.op.toNat) f.imm.toNat (vshlOf (cntBits (typeRegs f.op.toNat))) s
def execVshr (f : FmtT) (s : State) : Res :=
  vecT (sigVshrOf f) f (typeRegs f.op.toNat) (vshrOf (cntBits (typeRegs f.op.toNat))) s
def execVshrImm (f : FmtI) (s : State) : Res :=
  vecI (sigVshrImmOf f) f (typeRegs f.op.toNat) f.imm.toNat (vshrOf (cntBits (typeRegs f.op.toNat))) s
def execVsra (f : FmtT) (s : State) : Res :=
  vecT (sigVsraOf f) f (typeRegs f.op.toNat) (vsraOf (cntBits (typeRegs f.op.toNat))) s
def execVsraImm (f : FmtI) (s : State) : Res :=
  vecI (sigVsraImmOf f) f (typeRegs f.op.toNat) f.imm.toNat (vsraOf (cntBits (typeRegs f.op.toNat))) s
def execVmin (f : FmtT) (s : State) : Res := vecT (sigVminOf f) f (typeRegs f.op.toNat) (vminOf f.op.toNat) s
def execVminImm (f : FmtI) (s : State) : Res :=
  vecI (sigVminImmOf f) f (typeRegs f.op.toNat) (immBits f.op.toNat f.imm) (vminOf f.op.toNat) s
def execVmax (f : FmtT) (s : State) : Res := vecT (sigVmaxOf f) f (typeRegs f.op.toNat) (vmaxOf f.op.toNat) s
def execVmaxImm (f : FmtI) (s : State) : Res :=
  vecI (sigVmaxImmOf f) f (typeRegs f.op.toNat) (immBits f.op.toNat f.imm) (vmaxOf f.op.toNat) s
def execVmov (f : FmtT) (s : State) : Res :=
  vecT1 (sigVmovOf f) f (typeRegs f.op.toNat) (typeRegs f.op.toNat) (fun x => x) s
def execVabs (f : FmtT) (s : State) : Res := vecT1 (sigVabsOf f) f 1 1 (fun x => narrow (typed 0 x).natAbs 0 f.sat) s
/-- `vli`: the immediate, sign-extended to a pair (op 2) or zero-extended (op 3). -/
def execVli (f : FmtI) (s : State) : Res :=
  issue (sigVliOf f) (fun t => finishV t f.d (typeRegs f.op.toNat) (fun _ => immBits f.op.toNat f.imm)) s

/-! ## Compares and select (R210, R211) -/

/-- The mask of the active lanes where a condition holds. -/
def condMask (s : State) (c : Nat → Bool) : DWord := maskOf ((activeLanes s s.cur).filter c)
/-- Write a compare's mask pair and move on; it is written even when the active set is empty. -/
def finishMask (s : State) (d : Byte) (c : Nat → Bool) : Res := finishU2 s d (condMask s c)

def execVcmp (f : FmtT) (s : State) : Res :=
  issue (sigVcmpOf f) (fun t =>
    let ty := f.op.toNat % 16
    finishMask t f.d (fun l => intCond (f.op.toNat / 16) (typed ty (srcBits (me t) (typeRegs ty) f.ka f.a l))
      (typed ty (srcBits (me t) (typeRegs ty) f.kb f.b l)))) s
def execVcmpImm (f : FmtI) (s : State) : Res :=
  issue (sigVcmpImmOf f) (fun t =>
    let (c, ty) := immCond f.op.toNat
    finishMask t f.d (fun l => intCond c (typed ty (srcBits (me t) 1 f.ka f.a l)) (typed ty f.imm.toNat))) s
/-- `vsel`: bit l of the mask pair chooses a or b. -/
def execVsel (f : FmtT) (s : State) : Res :=
  issue (sigVselOf f) (fun t =>
    let cnt := typeRegs f.op.toNat
    let m := spair (me t) f.c.toNat
    finishV t f.d cnt (fun l => if laneIn m l then srcBits (me t) cnt f.ka f.a l else srcBits (me t) cnt f.kb f.b l)) s

/-! ## Bit fields, counts, carries and bytes (R212 to R214) -/

def execVbfe (f : FmtT) (s : State) : Res :=
  vecT (sigVbfeOf f) f 1 (fun x y => (bfeWord (f.op == 0) (BitVec.ofNat 32 x) (BitVec.ofNat 32 y)).toNat) s
/-- `vbfi` reads and writes d. -/
def execVbfi (f : FmtT) (s : State) : Res :=
  issue (sigVbfiOf f) (fun t => finishV t f.d 1 (fun l =>
    (bfiWord (vlane (me t) f.d.toNat l) (srcWord (me t) f.ka f.a l) (srcWord (me t) f.kb f.b l)).toNat)) s
def execVpopc (f : FmtT) (s : State) : Res :=
  vecT1 (sigVpopcOf f) f 1 (typeRegs f.op.toNat) (fun x => popCount x (cntBits (typeRegs f.op.toNat))) s
def execVclz (f : FmtT) (s : State) : Res :=
  vecT1 (sigVclzOf f) f 1 (typeRegs f.op.toNat) (fun x => leadingZeros x (cntBits (typeRegs f.op.toNat))) s

/-- The exact sum of `vaddc` in lane l. -/
def addcSum (x : Group) (f : FmtT) (l : Nat) : Nat :=
  (srcWord x f.ka f.a l).toNat + (srcWord x f.kb f.b l).toNat + (if laneIn (spair x f.c.toNat) l then 1 else 0)
/-- `vaddc`: adds with a carry mask, which receives the carries out; bits of inactive lanes are 0. -/
def execVaddc (f : FmtT) (s : State) : Res :=
  issue (sigVaddcOf f) (fun t =>
    let x := me t
    let carries := condMask t (fun l => decide (2 ^ 32 ≤ addcSum x f l))
    .next (advance (modMe t (fun y =>
      setSpair f.c.toNat carries (writeLanes f.d.toNat 1 (activeLanes t t.cur) (addcSum x f) y))) t.cur)) s

/-- Byte i of a word read as type 0x6 (i8) or 0x7 (n8). -/
def byteOf (t x i : Nat) : Int := typed t (bitField x (8 * i) 8)
/-- Σ|A_i − B_i| + C as n32. -/
def sadOf (t : Nat) (sat : Bool) (x y z : Nat) : Nat :=
  narrow (((List.range 4).map (fun i => ((byteOf t x i - byteOf t y i).natAbs : Int))).sum + (z : Int)) 1 sat
/-- Σ A_i · B_i + C as i32. -/
def dot4Of (ta tb : Nat) (sat : Bool) (x y z : Nat) : Nat :=
  narrow (((List.range 4).map (fun i => byteOf ta x i * byteOf tb y i)).sum + typed 0 z) 0 sat
def execVsad (f : FmtT) (s : State) : Res := vecT3 (sigVsadOf f) f (sadOf f.op.toNat f.sat) s
def execVdot4 (f : FmtT) (s : State) : Res :=
  vecT3 (sigVdot4Of f) f (dot4Of (f.op.toNat % 16) (f.op.toNat / 16) f.sat) s

end Sys2Proof.Machine
end

