-- ==== Sys2Proof/Machine/VectorFloat.lean ====
section
/-!
DEFINITION. Vector floating-point instructions (spec/10_isa_vector_arithmetic.md, R205, R207, R210, R215 to R220).
-/
namespace Sys2Proof.Machine

/-! ## Operands and delivery -/

/-- Source modifiers on a value of w bits: absolute value first, negation second; only the sign bit changes (R146, R205). -/
def signMods (w : Nat) (neg abs : Bool) (x : Nat) : Nat :=
  let y := if abs then x % 2 ^ (w - 1) else x
  if neg then (y + 2 ^ (w - 1)) % 2 ^ w else y

/-- Write every active lane with its bits, set the flags met, move on, and trap where a flag met is enabled (R206, R207). -/
def finishF (s : State) (d : Byte) (cnt : Nat) (v : Nat → Nat × Nat) : Res :=
  let ls := activeLanes s s.cur
  .next (finishFlags (modMe s (writeLanes d.toNat cnt ls (fun l => (v l).1))) s.cur (ls.foldl (fun m l => m ||| (v l).2) 0))

/-- Deliver an operation's exact value with its own flags: `fres` of 10.5. -/
def fresOf (f : FloatFmt) (mode : RMode) (ftz : Bool) (r : FVal × Nat) : Nat × Nat :=
  let (b, fl) := fdeliver f mode ftz r.1
  (b, fl ||| r.2)

/-- An f32 source of lane l after its modifiers and the flush of R81. -/
def srcF32 (x : Group) (k : BitVec 2) (n : Byte) (neg abs : Bool) (l : Nat) : FVal :=
  fread f32 (ftz32 x.fpctl) (signMods 32 neg abs (srcWord x k n l).toNat)
/-- The f32 value of an immediate or of an old destination. -/
def readF32 (x : Group) (w : Word) : FVal := fread f32 (ftz32 x.fpctl) w.toNat
/-- An f64 source of lane l. -/
def srcF64 (x : Group) (k : BitVec 2) (n : Byte) (neg abs : Bool) (l : Nat) : FVal :=
  fread f64 (ftz64 x.fpctl) (signMods 64 neg abs (srcPair x k n l).toNat)

/-- A two-source f32 instruction in format T. -/
def fltT (sg : Sig) (f : FmtT) (op : RMode → FVal → FVal → FVal × Nat) (s : State) : Res :=
  issue sg (fun t =>
    let x := me t
    let mode := modeFor x.fpctl f.rnd false
    finishF t f.d 1 (fun l => fresOf f32 mode (ftz32 x.fpctl)
      (op mode (srcF32 x f.ka f.a f.na f.aa l) (srcF32 x f.kb f.b f.nb f.ab l)))) s
/-- A two-source f32 instruction in format I: imm is the f32 bits of b, and rounding follows `%fpctl` (R215). -/
def fltI (sg : Sig) (f : FmtI) (op : RMode → FVal → FVal → FVal × Nat) (s : State) : Res :=
  issue sg (fun t =>
    let x := me t
    let mode := modeFor x.fpctl 0 false
    finishF t f.d 1 (fun l => fresOf f32 mode (ftz32 x.fpctl) (op mode (srcF32 x f.ka f.a f.na f.aa l) (readF32 x f.imm)))) s
/-- A one-source f32 instruction with `rnd` as its rounding mode. -/
def flt1 (sg : Sig) (f : FmtT) (mode : Group → RMode) (op : FVal → FVal × Nat) (s : State) : Res :=
  issue sg (fun t =>
    let x := me t
    finishF t f.d 1 (fun l => fresOf f32 (mode x) (ftz32 x.fpctl) (op (srcF32 x f.ka f.a f.na f.aa l)))) s

/-! ## f32 arithmetic (Table 10-4) -/

def execFadd (f : FmtT) (s : State) : Res := fltT (sigFaddOf f) f fadd s
def execFaddImm (f : FmtI) (s : State) : Res := fltI (sigFaddImmOf f) f fadd s
def execFsub (f : FmtT) (s : State) : Res := fltT (sigFsubOf f) f (fun m x y => fadd m x (fneg y)) s
def execFsubImm (f : FmtI) (s : State) : Res := fltI (sigFsubImmOf f) f (fun m x y => fadd m x (fneg y)) s
def execFmul (f : FmtT) (s : State) : Res := fltT (sigFmulOf f) f (fun _ x y => fmul x y) s
def execFmulImm (f : FmtI) (s : State) : Res := fltI (sigFmulImmOf f) f (fun _ x y => fmul x y) s
/-- `ffma`: x·y + z rounded once. -/
def execFfma (f : FmtT) (s : State) : Res :=
  issue (sigFfmaOf f) (fun t =>
    let x := me t
    let mode := modeFor x.fpctl f.rnd false
    finishF t f.d 1 (fun l => fresOf f32 mode (ftz32 x.fpctl)
      (ffma mode (srcF32 x f.ka f.a f.na f.aa l) (srcF32 x f.kb f.b f.nb f.ab l) (srcF32 x f.kc f.c f.nc f.ac l)))) s
/-- Immediate `ffma`: the old d is z. -/
def execFfmaImm (f : FmtI) (s : State) : Res :=
  issue (sigFfmaImmOf f) (fun t =>
    let x := me t
    let mode := modeFor x.fpctl 0 false
    finishF t f.d 1 (fun l => fresOf f32 mode (ftz32 x.fpctl)
      (ffma mode (srcF32 x f.ka f.a f.na f.aa l) (readF32 x f.imm) (readF32 x (vlane x f.d.toNat l))))) s

/-- `fmin`, `fmax`: no rounding and no flag (R216). -/
def fltExactT (sg : Sig) (f : FmtT) (op : FVal → FVal → FVal) (s : State) : Res :=
  issue sg (fun t =>
    let x := me t
    finishV t f.d 1 (fun l => fencode f32 (op (srcF32 x f.ka f.a f.na f.aa l) (srcF32 x f.kb f.b f.nb f.ab l)))) s
/-- Their immediate forms. -/
def fltExactI (sg : Sig) (f : FmtI) (op : FVal → FVal → FVal) (s : State) : Res :=
  issue sg (fun t =>
    let x := me t
    finishV t f.d 1 (fun l => fencode f32 (op (srcF32 x f.ka f.a f.na f.aa l) (readF32 x f.imm)))) s
def execFmin (f : FmtT) (s : State) : Res := fltExactT (sigFminOf f) f fmin s
def execFminImm (f : FmtI) (s : State) : Res := fltExactI (sigFminImmOf f) f fmin s
def execFmax (f : FmtT) (s : State) : Res := fltExactT (sigFmaxOf f) f fmax s
def execFmaxImm (f : FmtI) (s : State) : Res := fltExactI (sigFmaxImmOf f) f fmax s

/-- `ffrac`: x − trunc(x), exact, no flag (R217). -/
def execFfrac (f : FmtT) (s : State) : Res :=
  issue (sigFfracOf f) (fun t =>
    let x := me t
    finishV t f.d 1 (fun l => fencode f32 (ffrac (srcF32 x f.ka f.a f.na f.aa l)))) s
/-- `frnd`: x rounded to an integral value, no flag (R217). -/
def execFrnd (f : FmtT) (s : State) : Res :=
  issue (sigFrndOf f) (fun t =>
    let x := me t
    finishV t f.d 1 (fun l => fencode f32 (frnd (modeFor x.fpctl f.rnd false) (srcF32 x f.ka f.a f.na f.aa l)))) s
/-- `fclass`: one bit of Table 10-5; the flush bits do not apply. -/
def execFclass (f : FmtT) (s : State) : Res :=
  issue (sigFclassOf f) (fun t =>
    let x := me t
    finishV t f.d 1 (fun l => 2 ^ fclassBit f32 (signMods 32 f.na f.aa (srcWord x f.ka f.a l).toNat))) s

/-! ## Compares (R210): inputs after the flush, no flag -/

def execFcmp (f : FmtT) (s : State) : Res :=
  issue (sigFcmpOf f) (fun t =>
    let x := me t
    finishMask t f.d (fun l =>
      floatCond (f.op.toNat / 16) (srcF32 x f.ka f.a f.na f.aa l) (srcF32 x f.kb f.b f.nb f.ab l))) s
def execFcmpImm (f : FmtI) (s : State) : Res :=
  issue (sigFcmpImmOf f) (fun t =>
    let x := me t
    finishMask t f.d (fun l => floatCond f.op.toNat (srcF32 x f.ka f.a f.na f.aa l) (readF32 x f.imm))) s
def execDcmp (f : FmtT) (s : State) : Res :=
  issueOn none false (sigDcmpOf f) (fun t =>
    let x := me t
    finishMask t f.d (fun l =>
      floatCond (f.op.toNat / 16) (srcF64 x f.ka f.a f.na f.aa l) (srcF64 x f.kb f.b f.nb f.ab l))) s

/-! ## Transcendental lanes (R218) -/

/-- Nearest-even whatever `%fpctl` holds. -/
def alwaysRne (_ : Group) : RMode := .rne
/-- The mode of the rnd field. -/
def rndMode (f : FmtT) (x : Group) : RMode := modeFor x.fpctl f.rnd false

def execFrcp (f : FmtT) (s : State) : Res := flt1 (sigFrcpOf f) f (rndMode f) (fun x => fdiv (.fin false 1 0) x) s
def execFrsq (f : FmtT) (s : State) : Res := flt1 (sigFrsqOf f) f alwaysRne frsq s
def execFsqrt (f : FmtT) (s : State) : Res := flt1 (sigFsqrtOf f) f (rndMode f) fsqrt s
def execFdiv (f : FmtT) (s : State) : Res := fltT (sigFdivOf f) f (fun _ x y => fdiv x y) s
def execFexp2 (f : FmtT) (s : State) : Res := flt1 (sigFexp2Of f) f alwaysRne fexp2 s
def execFlog2 (f : FmtT) (s : State) : Res := flt1 (sigFlog2Of f) f alwaysRne flog2 s
def execFsin (f : FmtT) (s : State) : Res := flt1 (sigFsinOf f) f alwaysRne fsin s
def execFcos (f : FmtT) (s : State) : Res := flt1 (sigFcosOf f) f alwaysRne fcos s

/-! ## Double precision (R219) -/

/-- A two-source f64 instruction; a quay core has no FP64 lanes (R317). -/
def dblT (sg : Sig) (f : FmtT) (op : RMode → FVal → FVal → FVal × Nat) (s : State) : Res :=
  issueOn none false sg (fun t =>
    let x := me t
    let mode := modeFor x.fpctl f.rnd false
    finishF t f.d 2 (fun l => fresOf f64 mode (ftz64 x.fpctl)
      (op mode (srcF64 x f.ka f.a f.na f.aa l) (srcF64 x f.kb f.b f.nb f.ab l)))) s
def execDadd (f : FmtT) (s : State) : Res := dblT (sigDaddOf f) f fadd s
def execDmul (f : FmtT) (s : State) : Res := dblT (sigDmulOf f) f (fun _ x y => fmul x y) s
def execDfma (f : FmtT) (s : State) : Res :=
  issueOn none false (sigDfmaOf f) (fun t =>
    let x := me t
    let mode := modeFor x.fpctl f.rnd false
    finishF t f.d 2 (fun l => fresOf f64 mode (ftz64 x.fpctl)
      (ffma mode (srcF64 x f.ka f.a f.na f.aa l) (srcF64 x f.kb f.b f.nb f.ab l) (srcF64 x f.kc f.c f.nc f.ac l)))) s

/-! ## Packed 16-bit (R220) -/

/-- The element format of op[3:0]: 0xA f16, 0xB bf16. -/
def packedFmt (f : FmtT) : FloatFmt := if f.op.toNat % 16 = 0xA then f16 else bf16

/-- A packed source word: special codes 0x04 to 0x07 deliver their constant in the format in both halves. -/
def packedWord (x : Group) (f : FloatFmt) (k : BitVec 2) (n : Byte) (l : Nat) : Nat :=
  let c := n.toNat
  if k = 2 ∧ 4 ≤ c ∧ c ≤ 7 then fencode f (fdecode f32 (special32 c l).toNat) * 65537 else (srcWord x k n l).toNat

/-- Half i of a packed source after the modifiers, which act on both halves, and the flush. -/
def packedSrc (x : Group) (f : FloatFmt) (k : BitVec 2) (n : Byte) (neg abs : Bool) (i l : Nat) : FVal :=
  fread f (ftz16 x.fpctl) (signMods 16 neg abs (bitField (packedWord x f k n l) (16 * i) 16))

/-- Both halves of a packed result with their flags. -/
def packedOf (r : Nat → Nat × Nat) : Nat × Nat := ((r 0).1 + 65536 * (r 1).1, (r 0).2 ||| (r 1).2)

/-- A packed instruction: `op` is given the half's operands. -/
def packedT (sg : Sig) (f : FmtT) (op : RMode → FVal → FVal → FVal → FVal × Nat) (s : State) : Res :=
  issue sg (fun t =>
    let x := me t
    let fm := packedFmt f
    let mode := modeFor x.fpctl f.rnd false
    finishF t f.d 1 (fun l => packedOf (fun i => fresOf fm mode (ftz16 x.fpctl)
      (op mode (packedSrc x fm f.ka f.a f.na f.aa i l) (packedSrc x fm f.kb f.b f.nb f.ab i l)
        (packedSrc x fm f.kc f.c f.nc f.ac i l))))) s
def execHfma2 (f : FmtT) (s : State) : Res := packedT (sigHfma2Of f) f ffma s
def execHadd2 (f : FmtT) (s : State) : Res := packedT (sigHadd2Of f) f (fun m x y _ => fadd m x y) s
def execHmul2 (f : FmtT) (s : State) : Res := packedT (sigHmul2Of f) f (fun _ x y _ => fmul x y) s

/-- The exact value of x0·y0 + x1·y1 + z, with the invalid events of its products and sums. -/
def dot2 (mode : RMode) (x0 y0 x1 y1 z : FVal) : FVal × Nat :=
  let p := fmul x0 y0
  let q := fmul x1 y1
  if p.2 ||| q.2 ≠ 0 then (.nan, flagInvalid)
  else
    let t := fadd mode p.1 q.1
    if t.2 ≠ 0 then t else fadd mode t.1 z
/-- `hdot2`: c is one f32 value, rounded once to f32. -/
def execHdot2 (f : FmtT) (s : State) : Res :=
  issue (sigHdot2Of f) (fun t =>
    let x := me t
    let fm := packedFmt f
    let mode := modeFor x.fpctl f.rnd false
    let a := fun i l => packedSrc x fm f.ka f.a f.na f.aa i l
    let b := fun i l => packedSrc x fm f.kb f.b f.nb f.ab i l
    finishF t f.d 1 (fun l => fresOf f32 mode (ftz32 x.fpctl)
      (dot2 mode (a 0 l) (b 0 l) (a 1 l) (b 1 l) (srcF32 x f.kc f.c f.nc f.ac l)))) s

end Sys2Proof.Machine
end

