-- ==== Sys2Proof/Machine/Atomics.lean ====
section
/-!
DEFINITION. Atomics, `mcas`, buffered reductions, wait-on-address and fences, with the events that perform them
(spec/12_isa_memory_sync.md, R239 to R251; R126 to R137, R429 to R433, R468, R470).
-/
namespace Sys2Proof.Machine

/-! ## Addresses (R239, R429) -/

/-- The address operand of format A in lane `l`. -/
def addrA (x : Group) (f : FmtA) (l : Nat) : Nat := if f.ka then (spair x f.a.toNat).toNat else (vpair x f.a.toNat l).toNat

/-- `cnt` words of a data operand of format A in lane `l`. -/
def dataWords (x : Group) (uni : Bool) (n l : Nat) : Nat → Nat
  | 0 => 0
  | k + 1 => (if uni then sreg x n else vlane x n l).toNat + 2 ^ 32 * dataWords x uni (n + 1) l k

/-- The addresses an atomic of group `g` accepts: a quay core takes selectors 0x5 and 0x8 only (R317). -/
def atomSpace (s : State) (g : Nat) (sel5 : Bool) : Space :=
  let i := gridOf s g
  if isQuayCore (coreOf s g) then
    { ctx := i.ctx, privileged := true, team := (grp s g).team, sel0 := false, sel4 := false, sel5 := sel5 }
  else { ctx := i.ctx, privileged := i.privileged, team := (grp s g).team, sel5 := sel5 }

/-- The location of an atomic's `n` bytes, aligned to `n`, and the page's pound bit; on a quay core physical addresses are checked
against its arenas (R115, R317). -/
def atomLoc (s : State) (g : Nat) (sel5 : Bool) (addr n : Nat) (need : Need) : State × Except AccErr (Nat × Bool) :=
  if addr % n ≠ 0 then (s, .error .form)
  else match locating s (atomSpace s g sel5) addr n need with
    | (s1, .error e) => (s1, .error e)
    | (s1, .ok (a, pound)) =>
      if isQuayCore (coreOf s g) ∧ !isScratch a ∧
          !arenaOk s (quayStackOf (coreOf s g)) (gridOf s g).ctx a n need.read need.write then (s1, .error .form)
      else (s1, .ok (a, pound))

/-- The deferred error of an address an atomic does not accept; bad data in a page table is a data error (R429, R452). -/
def atomError (e : AccErr) (named detail : Nat) : Deferred :=
  match e with
  | .data b => dataError b detail
  | e => { cause := 0x0A, detail := e.status, addr := some named }

/-- What a read-modify-write needs of its page (R113). -/
def atomNeed : Need := { read := true, write := true, atom := true }

/-- Translate an atomic's address for a requester: it goes on, is held, or fails (R404). -/
def atomXlat (s : State) (who : HeldWho) (g : Nat) (sel5 : Bool) (named n : Nat) (need : Need) : State × Xlat (Nat × Bool) :=
  let p := atomLoc s g sel5 named n need
  (p.1, tryXlat p.1 who (some g) named p.2)

/-! ## Arithmetic at the home (R240) -/

/-- Float format of a type code (Table 8-3). -/
def fmtOfType (ty : Nat) : FloatFmt :=
  match ty with
  | 8 => f32
  | 9 => f64
  | 0xA => f16
  | _ => bf16

/-- The new value of an atomic operation (Tables 8-5 and 12.3): integers wrap; floats round nearest-even, keep subnormals and set no
flag; a swap moves bits. -/
def atomNew (oper ty old b : Nat) : Nat :=
  let fl : Bool := decide (8 ≤ ty)
  let fm := fmtOfType ty
  match oper with
  | 0 => if fl then (fdeliver fm .rne false (fadd .rne (fdecode fm old) (fdecode fm b)).1).1 else (old + b) % 2 ^ typeBits ty
  | 1 => if fl then fencode fm (fmin (fdecode fm old) (fdecode fm b)) else vminOf ty old b
  | 2 => if fl then fencode fm (fmax (fdecode fm old) (fdecode fm b)) else vmaxOf ty old b
  | 3 => old &&& b
  | 4 => old ||| b
  | 5 => old ^^^ b
  | _ => b

/-! ## Issue -/

/-- Before an SC operation issues, its core's clock steps, and its stamp is taken (R131).
DEDUCED: notes/assumptions/110.md. -/
def takeStamp (s : State) (g : Nat) : State × (Nat × Nat) :=
  let c := coreOf s g
  let k := coreClock s c + 1
  (setCoreClock s c k, (k, c))

/-- Form the lanes of operation `o` at issue: each is a request, waits for a held translation, or fails. -/
def atomLanes (s : State) (g o n : Nat) (named data cmp : Nat → Nat) (detail : Nat) :
    List Nat → State × List LaneReq × List (Nat × Deferred)
  | [] => (s, [], [])
  | l :: t =>
    let r : LaneReq := { lane := l, addr := 0, named := named l, data := data l, cmp := cmp l }
    match atomXlat s (.access o l) g true (named l) n atomNeed with
    | (s0, .ok (a, pound)) =>
      let (s1, rs, fs) := atomLanes s0 g o n named data cmp detail t
      (s1, { r with addr := a, pound } :: rs, fs)
    | (_, .wait s1) =>
      let (s2, rs, fs) := atomLanes s1 g o n named data cmp detail t
      (s2, { r with addr := heldLoc (named l) } :: rs, fs)
    | (_, .fail s1 e) =>
      let (s2, rs, fs) := atomLanes s1 g o n named data cmp detail t
      (s2, rs, (l, atomError e (named l) detail) :: fs)

/-- Issue a per-lane atomic of `n` bytes: its addresses are translated, its operands read, and it is stamped if it is `.sc`. -/
def atomBody (f : FmtA) (kind : OpKind) (n : Nat) (data cmp : Nat → Nat) (t : State) : Res :=
  let g := t.cur
  let x := me t
  let (t0, stamp) := if f.order = 4 then (let p := takeStamp t g; (p.1, some p.2)) else (t, none)
  let (t1, rs, fs) := atomLanes t0 g t0.ops.length n (addrA x f) data cmp (if f.ret then 5 else 6) (activeLanes t0 g)
  let o : Op :=
    { g := g, kind := kind, issuedAt := t1.clock, path := if f.ret then some 5 else none, counted := f.ret, size := n, lanes := rs,
      dv := if f.ret then (List.range ((n + 3) / 4)).map (f.d.toNat + ·) else [], handler := handlerOf x, order := f.order.toNat,
      scope := f.scope.toNat, stamp := stamp, failed := fs }
  let t2 := advance (addOp t1 o) g
  .next (if f.ret then t2 else settle t2 t1.ops.length)

/-- `atop`: read, modify and write one location per active lane. -/
def execAtop (f : FmtA) (s : State) : Res :=
  issueOn (if f.ret then some 5 else none) true (sigAtopOf f) (fun t =>
    let ty := f.op.toNat / 16 % 16
    let x := me t
    atomBody f (.atop (f.op.toNat % 16) ty) (typeBits ty / 8) (fun l => dataWords x f.kb f.b.toNat l (typeRegs ty) % 2 ^ typeBits ty)
      (fun _ => 0) t) s

/-- `atcas`: compare and swap of 4 or 8 bytes. -/
def execAtcas (f : FmtA) (s : State) : Res :=
  issueOn (some 5) true (sigAtcasOf f) (fun t =>
    let ty := f.op.toNat / 16 % 16
    let x := me t
    atomBody f .cas (typeBits ty / 8) (fun l => dataWords x f.kb f.b.toNat l (typeRegs ty))
      (fun l => dataWords x f.kc f.c.toNat l (typeRegs ty)) t) s

/-- `atcas128`: compare and swap of 16 bytes. -/
def execAtcas128 (f : FmtA) (s : State) : Res :=
  issueOn (some 5) true (sigAtcas128Of f) (fun t =>
    let x := me t
    atomBody f .cas 16 (fun l => dataWords x f.kb f.b.toNat l 4) (fun l => dataWords x f.kc f.c.toNat l 4) t) s

/-! ## At the home -/

/-- A lane of an atomic is performed at its home as one event (R123). -/
def atomLane (s : State) (o : Nat) (r : LaneReq) : State :=
  let x := op s o
  let f (old : Nat) : Option Nat := match x.kind with
    | .atop oper ty => some (atomNew oper ty old r.data)
    | _ => if old = r.cmp then some r.data else none
  match rmw s r.addr x.size r.pound f with
  | (s1, .error b) => failLane s1 o r.lane (dataError b (pathDetail x))
  | (s1, .ok old) =>
    lanePerformed (touchHome s1 (coreOf s x.g) r.addr x.size true) o r.lane (if x.path.isSome then some old else none)

/-- Whether an operation is a per-lane atomic. -/
def isAtomic (x : Op) : Bool := match x.kind with
  | .atop _ _ => true
  | .cas => true
  | _ => false

/-- A lane of an atomic can be performed now. -/
def atomReady (s : State) (o lane : Nat) : Bool :=
  let x := op s o
  isAtomic x && x.lanes.any (fun r => r.lane == lane) && !heldLane (laneReq x lane) && laneReady s o (laneReq x lane)

/-- Perform a lane; an atomic that returns nothing is whole after its last. -/
def atomApply (s : State) (o lane : Nat) : State :=
  let s1 := atomLane s o (laneReq (op s o) lane)
  releaseHeld (if (op s o).path.isNone then settle s1 o else s1)

/-- A lane of an atomic waits for a held translation. -/
def atomHeld (s : State) (o lane : Nat) : Bool :=
  let x := op s o
  isAtomic x && !x.finished && !laneIn x.performed lane && x.lanes.any (fun r => r.lane == lane) && heldLane (laneReq x lane)

/-- A lane whose translation was held tries it again, unless it is held still (R404): it has its location now, or fails. -/
def atomRetry (s : State) (o lane : Nat) : State :=
  let x := op s o
  let r := laneReq x lane
  match atomXlat s (.access o lane) x.g true r.named x.size atomNeed with
  | (s0, .ok (a, pound)) =>
    modOp s0 o (fun x => { x with lanes := x.lanes.map (fun q => if q.lane = lane then { q with addr := a, pound } else q) })
  | (_, .wait s1) => s1
  | (_, .fail s1 e) =>
    let s2 := failLane s1 o lane (atomError e r.named (pathDetail x))
    releaseHeld (if x.path.isNone then settle s2 o else s2)

/-- `ATOMIC_AT_HOME`: a lane of an atomic that is not `.sc` is performed at its home; one whose translation was held has it first.
DESIGN CHOICE: notes/assumptions/109.md. -/
def execAtomicAtHome (o lane : Nat) (s : State) : Res :=
  .next (if (op s o).stamp.isSome then s
    else if atomHeld s o lane then (if isHeld s (.access o lane) then s else atomRetry s o lane)
    else if atomReady s o lane then atomApply s o lane else s)

/-! ## The SC order (R130 to R133) -/

/-- Cores and quay cores of the device. -/
def allCores : Nat := 1344
/-- One stamp precedes another: clock first, then core number. -/
def stampBefore (a b : Nat × Nat) : Bool := decide (a.1 < b.1) || (a.1 == b.1 && decide (a.2 < b.2))
/-- An SC operation is in transit until it has been applied. -/
def inTransit (x : Op) : Bool :=
  x.stamp.isSome && !x.finished && (match x.kind with
    | .scFence => true
    | .mcas => decide (x.stage < 100)
    | _ => !allDone x)
/-- The stamp of an SC operation. -/
def stampOf (x : Op) : Nat × Nat := x.stamp.getD (0, 0)

/-- `SC_FLOOR_PUBLISH`: a core publishes its floor, its clock or the lowest clock of an SC operation in transit, and raises its clock to
the largest floor received. -/
def execScFloorPublish (core : Nat) (s : State) : Res :=
  if allCores ≤ core then .next s
  else
    let transit := (s.ops.filter (fun x => inTransit x && coreOf s x.g == core)).map (fun x => (stampOf x).1)
    let floor := match transit with
      | [] => coreClock s core
      | k :: t => t.foldl min k
    let floors := mapSet 0 core floor s.sync.floors
    .next { s with sync := { s.sync with floors := floors,
                                         clocks := mapSet 0 core (floors.foldl (fun m p => max m p.2) (coreClock s core))
                                           s.sync.clocks } }

/-- Every core and quay core has published a floor at or above a clock (R132). -/
def floorsReach (s : State) (k : Nat) : Bool := (List.range allCores).all (fun c => decide (k ≤ mapGet 0 s.sync.floors c))

/-- An SC operation may still come to a home: it has a lane there, or does not know yet where its locations are. -/
def mayReach (s : State) (home : Nat) (y : Op) : Bool :=
  (y.kind == .mcas && y.stage == 0) || (waitingLanes y).any (fun r => heldLane r || (homesUnder s r.addr y.size).contains home)

/-- No SC operation with a lower stamp can still come to a home. -/
def firstAtHome (s : State) (st : Nat × Nat) (home : Nat) : Bool :=
  s.ops.all (fun y => !(inTransit y && stampBefore (stampOf y) st && mayReach s home y))

/-- `SC_APPLY_AT_HOME`: a home applies a lane of an SC atomic, in stamp order, once every floor has reached its clock. -/
def execScApplyAtHome (o lane : Nat) (s : State) : Res :=
  let x := op s o
  .next (if x.stamp.isNone then s
    else if atomHeld s o lane then (if isHeld s (.access o lane) then s else atomRetry s o lane)
    else if atomReady s o lane && floorsReach s (stampOf x).1 &&
        (homesUnder s (laneReq x lane).addr x.size).all (firstAtHome s (stampOf x)) then
      atomApply s o lane
    else s)

/-! ## `mcas` (R134, R244 to R247, R433, R470) -/

/-- Stage at which an `mcas` has its result. -/
def mcasDone : Nat := 100

/-- `mcas`: takes its stamp and starts; with no active lane it has no effect. -/
def execMcas (f : FmtA) (s : State) : Res :=
  issueOn (some 5) true (sigMcasOf f) (fun t =>
    let g := t.cur
    let x := me t
    if activeMask t g = 0 then
      let o : Op := { g := g, kind := .mcas, path := some 5, counted := true, stage := mcasDone }
      .next (completeOp (advance (addOp t o) g) t.ops.length)
    else
      let (t1, st) := takeStamp t g
      let a := (spair x f.a.toNat).toNat
      let o : Op :=
        { g := g, kind := .mcas, issuedAt := t1.clock, path := some 5, counted := true, size := 200, du := [f.d.toNat],
          handler := handlerOf x, order := 4, scope := 4, stamp := some st,
          lanes := [{ lane := 0, addr := locTeam (coreOf t g) ((teamOf t g).allocBase + a % 2 ^ 19), named := a, data := 0, cmp := 0 }] }
      .next (advance (addOp t1 o) g)) s

/-- An `mcas` ends: its locks are released and its result stands (R246, R433). -/
def mcasEnd (s : State) (o result : Nat) : State :=
  modOp { s with sync := { s.sync with locks := s.sync.locks.filter (fun p => p.2 != o) } } o (fun x =>
    { x with stage := mcasDone, result := result, performed := 0xFF })

/-- A word of `n` bytes of a parameter block. -/
def mcasWord (blk : List Byte) (at_ n : Nat) : Nat := bytesLE ((blk.drop at_).take n)
/-- Entry i of the parameter block (Table 12-5): lane i, with the expected and the new value. -/
def mcasEntry (blk : List Byte) (i : Nat) : LaneReq :=
  { lane := i, addr := 0, named := mcasWord blk (8 + 24 * i) 8, cmp := mcasWord blk (16 + 24 * i) 8,
    data := mcasWord blk (24 + 24 * i) 8 }

/-- The form of an entry's address: aligned, selector 0x0, 0x4 or 0x8, the last from a privileged queue (status 0x04). On a quay core
only 0x8 is accepted (R317). -/
def mcasFormOk (s : State) (g named : Nat) : Bool :=
  named % 8 == 0 && (match (atomLoc s g false named 8 atomNeed).2 with
    | .error .form => false
    | .error .hole => false
    | _ => true)

/-- Translate the entries, in order. The first that waits or fails ends the attempt: a waiting one, or status 0x05. -/
def mcasXlat (s : State) (g o : Nat) : List LaneReq → State × Except Bool (List LaneReq)
  | [] => (s, .ok [])
  | r :: t => match atomXlat s (.access o r.lane) g false r.named 8 atomNeed with
    | (s0, .ok (a, pound)) => match mcasXlat s0 g o t with
      | (s1, .ok rs) => (s1, .ok ({ r with addr := a, pound } :: rs))
      | e => e
    | (_, .wait s1) => (s1, .error true)
    | (_, .fail s1 _) => (s1, .error false)

/-- The block is read, once (R245): its bytes, or the status of a block that is not accepted.
DEDUCED: notes/assumptions/22.md. -/
def mcasRead (s : State) (o : Nat) : State × Except Nat (List Byte) :=
  let x := op s o
  let r := laneReq x 0
  let t := teamOf s x.g
  let off := r.named % 2 ^ 19
  let n := rd s r.addr 4
  if r.named / 2 ^ 60 ≠ 5 ∨ bitField r.named 19 41 ≠ 0 ∨ r.named % 8 ≠ 0 ∨ t.allocSize < off + 8 then (s, .error 2)
  else match checkRead s r.addr 8 with
    | (s1, some _) => (s1, .error 7)
    | (s1, none) =>
      if n < 2 ∨ 8 < n then (s1, .error 1)
      else if t.allocSize < off + 8 + 24 * n then (s1, .error 2)
      else match checkRead s1 r.addr (8 + 24 * n) with
        | (s2, some _) => (s2, .error 7)
        | (s2, none) => (touchHome s2 (coreOf s x.g) r.addr (8 + 24 * n) false, .ok (readBytes s2.mem r.addr (8 + 24 * n)))

/-- The block is checked (statuses 0x03 to 0x06): its entries with their locations, or the status; 256: an entry waits for a held
translation. -/
def mcasCheck (s : State) (o : Nat) (blk : List Byte) : State × Except Nat (List LaneReq) :=
  let g := (op s o).g
  let es := (List.range (mcasWord blk 0 4)).map (mcasEntry blk)
  if mcasWord blk 4 4 ≠ 0 then (s, .error 3)
  else if es.any (fun e => !mcasFormOk s g e.named) then (s, .error 4)
  else match mcasXlat s g o es with
    | (s1, .error true) => (s1, .error 256)
    | (s1, .error false) => (s1, .error 5)
    | (s1, .ok rs) =>
      if rs.any (fun p => rs.any (fun q => p.lane != q.lane && p.addr == q.addr)) then (s1, .error 6) else (s1, .ok rs)

/-- An `mcas` whose block has not been accepted yet goes on: it reads it, or tries its translations again. -/
def mcasStart (s : State) (o : Nat) : State :=
  match if (op s o).block = [] then mcasRead s o else (s, .ok (op s o).block) with
  | (s1, .error st) => mcasEnd s1 o (st * 2 ^ 24)
  | (s1, .ok blk) => match mcasCheck (modOp s1 o (fun x => { x with block := blk })) o blk with
    | (s2, .ok rs) => modOp s2 o (fun x => { x with stage := 1, lanes := rs, size := 8 })
    | (s2, .error st) => if st = 256 then s2 else mcasEnd s2 o (st * 2 ^ 24)

/-- No SC operation with a lower stamp can still be applied, and the group's earlier accesses have been performed (R245 step 3,
R126 item 4). -/
def mcasFirst (s : State) (o : Nat) : Bool :=
  let x := op s o
  floorsReach s (stampOf x).1 && s.ops.all (fun y => !(inTransit y && stampBefore (stampOf y) (stampOf x))) &&
    earlierDone s x.g o 4 true true

/-- `MCAS_ADMISSION`: the block is read and checked; then the `mcas` is admitted once its stamp is the lowest still to be applied. -/
def execMcasAdmission (o : Nat) (s : State) : Res :=
  let x := op s o
  if x.kind ≠ .mcas ∨ x.finished ∨ 2 ≤ x.stage then .next s
  else if x.stage = 0 ∧ x.block = [] ∧ !(mayPerform s o (laneReq x 0) && unlocked s o (laneReq x 0).addr 200) then .next s
  else
    let s1 := if x.stage = 0 then mcasStart s o else s
    .next (releaseHeld (if (op s1 o).stage = 1 ∧ mcasFirst s1 o then modOp s1 o (fun x => { x with stage := 2, askedAt := s1.clock }) else s1))

/-- Insert a key into an ascending list without repeats. -/
def insertKey (k : Nat) : List Nat → List Nat
  | [] => [k]
  | a :: t => if k < a then k :: a :: t else if k = a then a :: t else a :: insertKey k t
/-- The lock keys of an `mcas`, ascending (R245). -/
def mcasKeys (x : Op) : List Nat := x.lanes.foldl (fun ks r => insertKey (r.addr / 128 * 128) ks) []

/-- Check the words of an `mcas` in one line: whether one is uncorrectable. -/
def lineBad (s : State) (x : Op) (key : Nat) : State × Bool :=
  (x.lanes.filter (fun r => r.addr / 128 * 128 == key)).foldl (fun p r =>
    match storeCheck p.1 r.addr 8 false r.pound with
    | (s1, b) => (s1, p.2 || b.isSome)) (s, false)

/-- The commit: all words are compared, and written if all match, as one event; every line is released (R134, R245, R246). -/
def mcasCommit (s : State) (o : Nat) : State :=
  let x := op s o
  let differs := x.lanes.filter (fun r => rd s r.addr 8 != r.cmp)
  let ok := differs.isEmpty
  let mask := differs.foldl (fun m r => m + 2 ^ (8 + r.lane)) 0
  let s1 := mcasEnd s o (if ok then 1 else mask)
  let s2 := if ok then x.lanes.foldl (fun s r => writeLoc (storeCheck s r.addr 8 true r.pound).1 r.addr 8 r.data none) s1 else s1
  x.lanes.foldl (fun s r => touchHome s (coreOf s x.g) r.addr 8 ok) s2

/-- `MCAS_LOCK_GRANT`: the next line, in ascending key order, is locked; with the last grant the `mcas` commits. -/
def execMcasLockGrant (o : Nat) (s : State) : Res :=
  let x := op s o
  if x.kind ≠ .mcas ∨ x.finished ∨ x.stage < 2 ∨ mcasDone ≤ x.stage then .next s
  else match (mcasKeys x)[x.stage - 2]? with
    | none => .next s
    | some key =>
      if !unlocked s o key 128 then .next s
      else
        let s1 : State := { s with sync := { s.sync with locks := s.sync.locks ++ [(key, o)] } }
        match lineBad s1 x key with
        | (s2, true) => .next (releaseHeld (mcasEnd s2 o (7 * 2 ^ 24)))
        | (s2, false) =>
          let s3 := modOp s2 o (fun x => { x with stage := x.stage + 1, askedAt := s2.clock, records := 0 })
          .next (if x.stage - 1 = (mcasKeys x).length then releaseHeld (mcasCommit s3 o) else s3)

/-- `MCAS_RESULT`: when every line has been released, the result is written to sd; a nonzero status is logged (R246, R433). -/
def execMcasResult (o : Nat) (s : State) : Res :=
  let x := op s o
  if x.kind ≠ .mcas ∨ x.finished ∨ x.stage ≠ mcasDone then .next s
  else
    let st := x.result / 2 ^ 24
    let s1 := if st = 0 then s else logGroup s x.g (0x0B00 + st) 1 0 none
    .next (releaseHeld (completeOp (modGrp s1 x.g (fun y => x.du.foldl (fun y n => setSreg n (BitVec.ofNat 32 x.result) y) y)) o))

/-- Clocks a lock step may take (R247). -/
def lockBound (s : State) (key : Nat) : Nat :=
  if isScratch key then 1000 else match regionOf s.poundSize key with
    | .stack _ => 1000
    | _ => 2500

/-- `MCAS_LOCK_TIMEOUT`: a lock not granted within four times its bound is asked for once more; the second time the `mcas` ends with
status 0x07 (R470). -/
def execMcasLockTimeout (o : Nat) (s : State) : Res :=
  let x := op s o
  if x.kind ≠ .mcas ∨ x.finished ∨ x.stage < 2 ∨ mcasDone ≤ x.stage then .next s
  else if s.clock < x.askedAt + 4 * lockBound s ((mcasKeys x).getD (x.stage - 2) 0) then .next s
  else if x.records = 0 then .next (modOp s o (fun x => { x with records := 1, askedAt := s.clock }))
  else .next (releaseHeld (mcasEnd s o (7 * 2 ^ 24)))

/-! ## Buffered reductions (R135 to R137, R248, R249, R421, R430) -/

/-- Entries of an atomic buffer (R135). -/
def redbMax : Nat := 2048
/-- Entries in the buffer of a core's partition. -/
def redbCount (s : State) (core part : Nat) : Nat :=
  (s.sync.redb.filter (fun e => (team s e.team).core == core && e.partition == part)).length
/-- Entries of one team in that buffer. -/
def redbOf (s : State) (t part : Nat) : Nat := (s.sync.redb.filter (fun e => e.team == t && e.partition == part)).length

/-- The team to drain for a buffer found full: the group's own if it has an entry there, else the parked team of the core with the most
(R136, R358). -/
def drainFor (s : State) (g : Nat) : Option Nat :=
  let p := partitionOf s g
  let own := (grp s g).team
  if 0 < redbOf s own p then some own
  else
    ((List.range s.teams.length).filter (fun t => (team s t).phase == .parked && (team s t).core == coreOf s g &&
      decide (0 < redbOf s t p))).foldl (fun best t => match best with
        | none => some t
        | some b => if redbOf s b p < redbOf s t p then some t else some b) none

/-- Ask for a drain of a team (R249): it starts at once, with the entries present, unless one runs. -/
def askDrain (s : State) (t g : Nat) : State := modTeam s t (fun t => { t with drains := t.drains ++ [(g, s.sync.redbNo)] })

/-- Translate the lanes of a `redb`: its entries and its failures, or a wait for a held fault. -/
def redbLanes (s : State) (f : FmtA) (g : Nat) : List Nat → State × Option (List RedEntry × List (Nat × Deferred))
  | [] => (s, some ([], []))
  | l :: t =>
    let x := grp s g
    let ty := f.op.toNat / 16 % 16
    let named := addrA x f l
    match atomXlat s (.group g l) g true named (typeBits ty / 8) atomNeed with
    | (_, .wait s1) => (s1, none)
    | (_, .fail s1 e) => match redbLanes s1 f g t with
      | (s2, some (es, fs)) => (s2, some (es, (l, atomError e named 6) :: fs))
      | r => r
    | (s1, .ok (a, pound)) => match redbLanes s1 f g t with
      | (s2, some (es, fs)) =>
        (s2, some ({ team := x.team, partition := partitionOf s g, gid := x.gid, g := g, lane := l, oper := f.op.toNat % 16, ty := ty,
                     addr := a, pound, named := named, data := dataWords x f.kb f.b.toNat l (typeRegs ty) % 2 ^ typeBits ty } :: es, fs))
      | r => r

/-- Entries placed in an atomic buffer, numbered in the order of their placing. -/
def addRedb (s : State) (es : List RedEntry) : State :=
  { s with sync := { s.sync with redb := s.sync.redb ++ (es.zip (List.range es.length)).map (fun p => { p.1 with no := s.sync.redbNo + p.2 }),
                                 redbNo := s.sync.redbNo + es.length } }

/-- An instruction that waits at issue for a held translation has not issued: `t` is the state after the attempt. -/
def heldBack (s t : State) : State := { t with groups := s.groups, seq := s.seq, ops := s.ops }

/-- `redb`: one entry per active lane into the partition's atomic buffer. A buffer without room is drained first. -/
def execRedb (f : FmtA) (s : State) : Res :=
  issueOn none false (sigRedbOf f) (fun t =>
    let g := t.cur
    let n := (activeLanes t g).length
    if redbMax < redbCount t (coreOf t g) (partitionOf t g) + n then
      let s1 := block s g 9 0 n
      .next (match drainFor t g with
        | some d => askDrain s1 d g
        | none => s1)
    else match redbLanes t f g (activeLanes t g) with
      | (t1, none) => .next (heldBack s t1)
      | (t1, some (es, fs)) =>
        .next (fs.foldl (fun s p => raiseDeferred s g (handlerOf (me t)) p.2) (advance (addRedb t1 es) g))) s

/-- `redf`: asks for a drain of the team and waits for it. -/
def execRedf (f : FmtA) (s : State) : Res :=
  issueOn none false (sigRedfOf f) (fun t => .next (block (askDrain (advance t t.cur) (me t).team t.cur) t.cur 9 0 0)) s

/-- A team's entries in drain order: partition, `%groupid`, issue order, lane (R136). -/
def drainOrder (s : State) (t : Nat) : List RedEntry :=
  let es := s.sync.redb.filter (fun e => e.team == t)
  (List.range 4).flatMap (fun p => (List.range 256).flatMap (fun k => es.filter (fun e => e.partition == p && e.gid == k)))

/-- Perform one drained entry at its home; the error, if it is not applied. -/
def drainEntry (s : State) (e : RedEntry) : State × Option BadData :=
  match rmw s e.addr (typeBits e.ty / 8) e.pound (fun old => some (atomNew e.oper e.ty old e.data)) with
  | (s1, .error b) => (s1, some b)
  | (s1, .ok _) => (touchHome s1 (team s e.team).core e.addr (typeBits e.ty / 8) true, none)

/-- Perform a list of drained entries; the failures, in order. -/
def drainEntries : List RedEntry → State → State × List (RedEntry × BadData)
  | [], s => (s, [])
  | e :: t, s => match drainEntry s e with
    | (s1, some b) =>
      let (s2, fs) := drainEntries t s1
      (s2, (e, b) :: fs)
    | (s1, none) => drainEntries t s1

/-- An entry leaves its buffer. -/
def dropEntry (s : State) (e : RedEntry) : State := { s with sync := { s.sync with redb := s.sync.redb.filter (· != e) } }

/-- Drain every entry of a team. -/
def drainTeam (s : State) (t : Nat) : State × List (RedEntry × BadData) :=
  drainEntries (drainOrder s t) { s with sync := { s.sync with redb := s.sync.redb.filter (fun e => e.team != t) } }

/-- The error of a drained entry that is not applied (R421).
DEDUCED: notes/assumptions/24.md. -/
def drainError (e : RedEntry) (_ : BadData) : Deferred := { cause := 0x0A, detail := 4, addr := some e.named }

/-- Two entries touch a common byte. -/
def entriesMeet (a b : RedEntry) : Bool :=
  decide (a.addr < b.addr + typeBits b.ty / 8) && decide (b.addr < a.addr + typeBits a.ty / 8)

/-- An entry drained for group `g` can be performed: no `mcas` holds its line and, in the drain of a `redf`, which counts as a write, the
group's earlier accesses that must precede it have been performed (R126, R136). -/
def entryReady (s : State) (g : Nat) (e : RedEntry) : Bool :=
  let y : Op := { g, kind := .cas, size := typeBits e.ty / 8 }
  unlocked s noOp e.addr y.size && ((grp s g).wait.opnd != 0 ||
    clearBefore s s.ops.length y { lane := 0, addr := e.addr, named := e.named, data := 0, cmp := 0 })

/-- The first entry of a list, in the order of R136, that can be performed and follows none still to come at a location of its own. -/
def nextEntry (s : State) (g : Nat) : List RedEntry → List RedEntry → Option RedEntry
  | _, [] => none
  | before, e :: t => if entryReady s g e && !before.any (entriesMeet e) then some e else nextEntry s g (e :: before) t

/-- A drain of team `t` for group `g` has ended: the next one asked for begins, with the entries present then (R249). -/
def endDrain (s : State) (t g : Nat) : State :=
  modGrp (modTeam s t (fun x => { x with drainFailed := false, drains := match x.drains.drop 1 with
    | [] => []
    | (h, _) :: r => (h, s.sync.redbNo) :: r })) g (fun x => { x with drained := x.wait.code == 9 })

/-- `REDUCTION_DRAIN`: the drain of a team goes on by one entry, for the group that asked first, or ends; the group takes cause 0x0A for
the first failure, and each of the others has its record. -/
def execReductionDrain (t : Nat) (s : State) : Res :=
  match (team s t).drains with
  | [] => .next s
  | (g, no) :: _ =>
    let es := (drainOrder s t).filter (fun e => decide (e.no < no))
    match es, nextEntry s g [] es with
    | [], _ => .next (releaseHeld (endDrain s t g))
    | _, none => .next s
    | _, some e => match drainEntry (dropEntry s e) e with
      | (s1, none) => .next (releaseHeld s1)
      | (s1, some b) =>
        .next (releaseHeld (if (team s t).drainFailed then logGroupBy s1 g 0x010A 1 (drainError e b)
          else raiseDeferred (modTeam s1 t (fun x => { x with drainFailed := true })) g (handlerOf (grp s g)) (drainError e b)))

/-- `REDF_RELEASE`: a group blocked in `redf` or `redb` goes on once its drain has been performed, or, for a `redb` that could ask for
none, once its buffer has room. -/
def execRedfRelease (g : Nat) (s : State) : Res :=
  let x := grp s g
  let asked : Bool := s.teams.any (fun t => t.drains.any (fun p => p.1 == g))
  let room : Bool := decide (0 < x.wait.opnd) && !asked &&
    decide (redbCount s (coreOf s g) (partitionOf s g) + x.wait.opnd ≤ redbMax)
  .next (if x.wait.code = 9 ∧ onCore s g ∧ (x.drained ∨ room) then unblock (modGrp s g (fun x => { x with drained := false })) g else s)

/-! ## Wait-on-address (R250, R431, R468) -/

/-- `waita`: tests a word at its home and goes on, or arms an entry and waits for a write that makes the test true. Behind earlier accesses
of its group that must precede it, the test is held (R504). -/
def execWaita (f : FmtA) (s : State) : Res :=
  issueOn none true (sigWaitaOf f) (fun t =>
    let g := t.cur
    let x := me t
    let ty := f.op.toNat / 16 % 16
    let n := typeBits ty / 8
    let named := (spair x f.a.toNat).toNat
    match atomXlat t (.group g 0) g false named n { read := true, atom := true } with
    | (_, .wait t1) => .next (heldBack s t1)
    | (_, .fail t1 e) => .next (raiseDeferred (advance t1 g) g (handlerOf x) (atomError e named 5))
    | (t0, .ok (a, pound)) =>
      let r : LaneReq :=
        { lane := 0, addr := a, named, data := dataWords x true f.b.toNat 0 (typeRegs ty), cmp := dataWords x true f.c.toNat 0 (typeRegs ty),
          pound }
      let o : Op :=
        { g := g, kind := .watch (f.op.toNat % 16) ty, issuedAt := t0.clock, size := n, lanes := [r], du := [f.d.toNat],
          handler := handlerOf x }
      if !(unlocked t0 noOp a n && clearBefore t0 t0.ops.length o r) then .next (advance (addOp t0 o) g)
      else match storeCheck t0 a n false pound with
        | (t1, some b) => .next (raiseDeferred (advance t1 g) g (handlerOf x) (dataError b 5))
        | (t1, none) =>
          let t2 := touchHome t1 (coreOf t1 g) a n false
          match watchTest t2 (watchEntry t2 o r (f.op.toNat % 16) ty) with
          | (t3, some v) => .next (advance (modGrp t3 g (setSreg f.d.toNat v)) g)
          | (t3, none) => .next (block (advance t3 g) g 4 named (f.op.toNat % 16))) s

/-! ## Fences (R127, R251) -/

/-- Whether the accesses a fence of an order and scope waits for have been performed. -/
def fenceClear (s : State) (g order scope : Nat) : Bool := earlierDone s g s.ops.length scope true (order != 1)

/-- `fence`: orders the group's accesses; while one it orders is still to be performed the group is blocked. -/
def execFence (f : FmtA) (s : State) : Res :=
  issueOn none true (sigFenceOf f) (fun t =>
    let g := t.cur
    let order := f.order.toNat
    let scope := f.scope.toNat
    if order = 4 then
      let (t1, st) := takeStamp t g
      if scope = 0 then .next (advance t1 g)
      else
        .next (block (advance (addOp t1
          { g := g, kind := .scFence, issuedAt := t1.clock, handler := handlerOf (me t), stamp := some st }) g) g 10 0 (order + 16 * scope))
    else if scope = 0 ∨ fenceClear t g order scope then .next (advance t g)
    else .next (block (advance t g) g 10 0 (order + 16 * scope))) s

/-- The `.sc` fence a group waits in. -/
def scFenceOf (s : State) (g : Nat) : Option Nat :=
  (List.range s.ops.length).find? (fun o => (op s o).g == g && (op s o).kind == .scFence && !(op s o).finished)

/-- `FENCE_COMPLETE`: the group goes on once the accesses its fence orders have been performed and, for `.sc`, the fence has its place
in the SC order (R133, R251). -/
def execFenceComplete (g : Nat) (s : State) : Res :=
  let x := grp s g
  if x.wait.code ≠ 10 ∨ isParked s g ∨ !fenceClear s g (x.wait.opnd % 8) (x.wait.opnd / 16) then .next s
  else match scFenceOf s g with
    | none => .next (unblock s g)
    | some o =>
      let st := stampOf (op s o)
      if floorsReach s st.1 && s.ops.all (fun y => !(y.kind == .scFence && inTransit y && stampBefore (stampOf y) st)) then
        .next (unblock (completeOp s o) g)
      else .next s

end Sys2Proof.Machine
end

