-- ==== Sys2Proof/Machine/Engine.lean ====
section
/-!
DEFINITION. Ranges of bytes as engines reach them, which no page and no unit of storage divides (R262, R263, R464), and fields of
records in memory (R9).
-/
namespace Sys2Proof.Machine

/-- The number in `n` bytes of a record at an offset (R6). -/
def recField (b : List Byte) (off n : Nat) : Nat := bytesLE ((b.drop off).take n)

/-- A range cut at every multiple of 64: address and length of each piece. -/
def piecesFrom : Nat → Nat → Nat → List (Nat × Nat)
  | 0, _, _ => []
  | k + 1, a, n => if n = 0 then [] else (a, min n (64 - a % 64)) :: piecesFrom k (a + min n (64 - a % 64)) (n - min n (64 - a % 64))
/-- The pieces of `n` bytes from `a`. -/
def pieces (a n : Nat) : List (Nat × Nat) := piecesFrom (n / 64 + 2) a n

/-- A piece at its home. -/
structure Piece where
  /-- address as named -/
  named : Nat
  /-- location -/
  loc : Nat
  len : Nat
  /-- the pound may hold it (R108) -/
  pound : Bool
deriving DecidableEq, Repr

/-- Locate every piece of a list; the first that is refused, with its address. -/
def locateAll (sp : Space) (need : Need) : List (Nat × Nat) → State → State × Except (Nat × AccErr) (List Piece)
  | [], s => (s, .ok [])
  | (a, n) :: t, s => match locating s sp a n need with
    | (s1, .error e) => (s1, .error (a, e))
    | (s1, .ok (l, pound)) =>
      let r := locateAll sp need t s1
      (r.1, r.2.map (fun ps => { named := a, loc := l, len := n, pound } :: ps))

/-- Pieces at physical addresses. -/
def physPieces (a n : Nat) : List Piece := (pieces a n).map (fun p => { named := p.1, loc := p.1, len := p.2, pound := true })

/-- No piece lies under a line that an `mcas` holds (R245). -/
def piecesFree (s : State) (ps : List Piece) : Bool := ps.all (fun p => unlocked s noOp p.loc p.len)

/-- A range cut at every multiple of 8: the units that are single-copy atomic (R262). -/
def unitsFrom : Nat → Int → Nat → List (Int × Nat)
  | 0, _, _ => []
  | k + 1, a, n =>
    let m := min n (8 - (a % 8).toNat)
    if n = 0 then [] else (a, m) :: unitsFrom k (a + m) (n - m)
/-- The units of `n` bytes from an exact address. -/
def unitsAt (a : Int) (n : Nat) : List (Int × Nat) := unitsFrom (n / 8 + 2) a n

/-- Read pieces in order; the first piece that cannot be read ends it. -/
def readAll (s : State) : List Piece → State × Except (Nat × BadData) (List Byte)
  | [] => (s, .ok [])
  | p :: t => match storeCheck s p.loc p.len false p.pound with
    | (s1, some b) => (s1, .error (p.named, b))
    | (s1, none) =>
      let (s2, r) := readAll s1 t
      (s2, r.map (fun bs => readBytes s1.mem p.loc p.len ++ bs))

/-- Write bytes over pieces in order, setting full/empty bits (Table 5-3); the first piece that cannot be written ends it. -/
def writeAll (s : State) : List Piece → List Byte → State × Option (Nat × BadData)
  | [], _ => (s, none)
  | p :: t, bs => match storeCheck s p.loc p.len true p.pound with
    | (s1, some b) => (s1, some (p.named, b))
    | (s1, none) => writeAll (writeLocBytes s1 p.loc (bs.take p.len) (some true)) t (bs.drop p.len)

/-- Split a number into elements of `w` bits, lowest first (R66). -/
def unpack (w n x : Nat) : List Nat := (List.range n).map (fun i => bitField x (w * i) w)
/-- The bytes of packed elements of `w` bits (R66). -/
def packBytes (w : Nat) (xs : List Nat) : List Byte :=
  toBytesLE ((w * xs.length + 7) / 8) (xs.foldr (fun x acc => x % 2 ^ w + 2 ^ w * acc) 0)

end Sys2Proof.Machine
end

