-- ==== Sys2Proof/Machine/Header.lean ====
section
/-!
DEFINITION. Kernel headers and the choice of a grid's width (spec/07_instruction_formats.md, R161, R162, Tables 7-14 and 7-15;
spec/02_execution_model.md, R23, R24, R32, R33).
-/
namespace Sys2Proof.Machine

/-- Bytes of a kernel header. -/
def headerSize : Nat := 64

/-- Width of a code of Table 7-15. -/
def widthOfCode (c : Nat) : Nat := 8 * 2 ^ c
/-- Fixed bit, least and greatest width of a policy byte. -/
def policyFixed (p : Nat) : Bool := bitOf p 7
def policyMin (p : Nat) : Nat := widthOfCode (bitField p 2 2)
def policyMax (p : Nat) : Nat := widthOfCode (bitField p 0 2)
/-- Whether a header admits width `w`, as its fixed width or within its bounds (R319). -/
def admits (h : Header) (w : Nat) : Bool := decide (policyMin h.policy ≤ w) && decide (w ≤ policyMax h.policy)

/-- Role `i` of a header's bytes: lanes and budget, and the word itself. -/
def roleWord (b : List Byte) (i : Nat) : Nat := recField b (0x20 + 4 * i) 4

/-- The fields of a kernel header (Table 7-14). -/
def headerFields (b : List Byte) : Header :=
  { feTrap := bitOf (recField b 6 1) 0, policy := recField b 7 1, vregs := recField b 8 2, sregs := recField b 0xA 2,
    teamScratch := recField b 0xC 4, dieScratch := recField b 0x10 4, ztiles := recField b 0x14 1,
    roles := (List.range (recField b 0x15 1)).map (fun i =>
      { lanes := bitField (roleWord b i) 0 16, budget := bitField (roleWord b i) 16 8 + 1 }),
    trapen := recField b 0x16 2, handler := signed 32 (recField b 0x18 4), mstream := signed 32 (recField b 0x1C 4),
    quality := (List.range 3).map (fun i => signed 32 (recField b (0x30 + 4 * i) 4)), argwords := recField b 0x3C 2 }

/-- A reserved bit is set, or a field lies outside its own range: code 0x0502. -/
def headerFieldBad (b : List Byte) : Bool :=
  let h := headerFields b
  let size (n : Nat) : Bool := n == 0 || decide (256 < n)
  bitField (recField b 6 1) 1 7 != 0 || bitField h.policy 4 3 != 0 || size h.vregs || size h.sregs ||
    decide (393216 < h.teamScratch) || decide (64 < h.ztiles) || h.roles.length == 0 || decide (4 < h.roles.length) ||
    decide (64 ≤ h.trapen) || (List.range 4).any (fun i => bitField (roleWord b i) 24 8 != 0) ||
    (List.range h.roles.length).any (fun i => let n := bitField (roleWord b i) 0 16; decide (2048 < n) || (n == 0 && roleWord b i != 0)) ||
    decide (256 < h.argwords) || recField b 0x3E 2 != 0

/-- Fields are inconsistent with one another: code 0x0503. -/
def headerInconsistent (b : List Byte) : Bool :=
  let h := headerFields b
  decide (policyMax h.policy < policyMin h.policy) || (policyFixed h.policy && policyMin h.policy != policyMax h.policy) ||
    (List.range 4).any (fun i => if i < h.roles.length then roleWord b i == 0 else roleWord b i != 0) ||
    h.roles.any (fun r => decide (h.vregs < r.budget)) || decide (h.sregs < h.argwords)

/-- A header, or the code of Table 23-6 for which it is rejected (R162). -/
def parseHeader (b : List Byte) : Except Nat Header :=
  if recField b 0 4 ≠ 0x4B4D494E ∨ recField b 4 2 ≠ 1 then .error 0x0501
  else if headerFieldBad b then .error 0x0502
  else if headerInconsistent b then .error 0x0503
  else .ok (headerFields b)

/-- Groups of a role at width `w` (R32). -/
def roleGroups (w : Nat) (r : Role) : Nat := (r.lanes + w - 1) / w
/-- Groups of a team at width `w`. -/
def groupCount (h : Header) (w : Nat) : Nat := h.roles.foldl (fun n r => n + roleGroups w r) 0

/-- The groups of a team in number order (R32, R33): role, launched lanes and budget. -/
def groupPlan (h : Header) (w : Nat) : List (Nat × Nat × Nat) :=
  (List.range h.roles.length).flatMap (fun i =>
    let r := h.roles.getD i { lanes := 0, budget := 1 }
    (List.range (roleGroups w r)).map (fun j => (i, min w (r.lanes - w * j), r.budget)))

/-- The sum of the densities of a list, each active lanes over lanes issued, as numerator and denominator. -/
def densitySum : List (Nat × Nat) → Nat × Nat
  | [] => (0, 1)
  | (a, b) :: t =>
    let (n, d) := densitySum t
    (n * b + a * d, d * b)

/-- The width of Table 2-2 for the density history of an entry point, by the mean density H of its groups (R23). -/
def widthOfHistory (hist : List (Nat × Nat)) : Nat :=
  let h := densitySum hist
  let whole : Nat := h.2 * hist.length
  if hist.isEmpty then 32
  else if 85 * whole ≤ 100 * h.1 then 64
  else if 60 * whole ≤ 100 * h.1 then 32
  else if 35 * whole ≤ 100 * h.1 then 16
  else 8

/-- The width of a grid (R24); none: no width meets the limit of 32 groups. -/
def chooseWidth (h : Header) (hist : List (Nat × Nat)) : Option Nat :=
  let w0 := if policyFixed h.policy then policyMin h.policy else min (max (widthOfHistory hist) (policyMin h.policy)) (policyMax h.policy)
  ([8, 16, 32, 64].filter (fun w => decide (w0 ≤ w) && decide (w ≤ policyMax h.policy) && decide (groupCount h w ≤ 32))).head?

end Sys2Proof.Machine
end

