-- ==== Sys2Proof/Machine/Camtos.lean ====
section
/-!
DEFINITION. The Camtos ports: flits, credits, replay, forwarding, and remote commands at their origin and at their target
(spec/18_host_links_time.md, R365 to R369; spec/27_faults_engines_links.md, R483 to R486).
-/
namespace Sys2Proof.Machine

/-! ## Flits (R365) -/

/-- One bit of the CRC-32 of IEEE 802.3, low bit first. -/
def crcBits : Nat → Nat → Nat
  | 0, c => c
  | n + 1, c => crcBits n (if c % 2 = 1 then c / 2 ^^^ 0xEDB88320 else c / 2)
/-- The CRC-32 of a list of bytes. -/
def crc32 (bs : List Byte) : Nat := bs.foldl (fun c b => crcBits 8 (c ^^^ b.toNat)) 0xFFFFFFFF ^^^ 0xFFFFFFFF
/-- The CRC of a flit: over its header and payload. -/
def flitCrc (f : Nat) : Nat := crc32 (toBytesLE 60 f)
/-- Whether a flit's CRC is right. -/
def flitGood (f : Nat) : Bool := bitField f 480 32 == flitCrc f

/-- Flit kind: 0 command head, 1 command body, 2 response, 3 link control. -/
def flitKind (f : Nat) : Nat := bitField f 30 2
/-- Virtual channel. -/
def flitVc (f : Nat) : Nat := bitField f 12 2
/-- Sequence number. -/
def flitSeq (f : Nat) : Nat := bitField f 0 12
/-- `n` payload bytes at an offset. -/
def flitField (f off n : Nat) : Nat := bitField f (32 + 8 * off) (8 * n)
/-- The link tag of a body flit. -/
def bodyTag (f : Nat) : Nat := bitField f 14 16

/-- A head or response flit before it is sent: its sequence number and CRC are still zero. -/
def mkFlit (kind vc dest hops payload : Nat) : Nat := vc * 2 ^ 12 + hops * 2 ^ 22 + dest * 2 ^ 24 + kind * 2 ^ 30 + payload * 2 ^ 32
/-- A body flit before it is sent. -/
def mkBody (link data : Nat) : Nat := 2 * 2 ^ 12 + link * 2 ^ 14 + 2 ^ 30 + data * 2 ^ 32
/-- A command head's payload (Table 18-11). -/
def headPayload (oper source tag link len : Nat) (order : Bool) (addr data : Nat) : Nat :=
  oper + source * 2 ^ 8 + tag * 2 ^ 16 + link * 2 ^ 32 + len * 2 ^ 64 + (if order then 2 ^ 96 else 0) + addr * 2 ^ 128 + data * 2 ^ 192
/-- A flit with its sequence number and CRC. -/
def sealFlit (seq f : Nat) : Nat := f % 2 ^ 480 + seq + flitCrc (f % 2 ^ 480 + seq) * 2 ^ 480

/-! ## A port's sender (R365, R367) -/

/-- A port. -/
def portAt (s : State) (p : Nat) : Port := mapGet {} s.fabric.ports p
/-- Set a port. -/
def setPort (s : State) (p : Nat) (x : Port) : State := { s with fabric := { s.fabric with ports := mapSet {} p x s.fabric.ports } }

/-- Flits that a replay buffer holds. -/
def replayMax : Nat := 1024
/-- Flits that a receiver holds for each virtual channel. -/
def creditMax : Nat := 256

/-- The sender of a port sends one flit. -/
def sendFlit (now : Nat) (x : Port) (f : Nat) : Port :=
  let y := sealFlit x.txSeq f
  { x with txSeq := (x.txSeq + 1) % 4096, replay := x.replay ++ [y], wire := x.wire ++ [y],
           used := x.used.modify (flitVc f) (· + 1), sentAt := if x.replay = [] then now else x.sentAt }

/-- Send every waiting flit that has a credit and room in the replay buffer, in order on each virtual channel, a body after its head.
`held` lists the channels on which an earlier flit still waits. -/
def pumpList (now : Nat) (held : List Nat) : List Nat → Port → Port
  | [], x => { x with waiting := [] }
  | f :: t, x =>
    let vc := flitVc f
    if x.state = 0 ∧ x.replay.length < replayMax ∧ x.used.getD vc 0 < creditMax ∧ !held.contains vc ∧ (vc ≠ 2 ∨ !held.contains 0) then
      pumpList now held t (sendFlit now x f)
    else
      let y := pumpList now (vc :: held) t x
      { y with waiting := f :: y.waiting }
/-- Flits of a turn: 4 KiB of wire bytes, in whole flits (R369). -/
def turnFlits : Nat := 73
/-- The next command takes its turn, and goes behind the others with what it has left. -/
def takeTurn (x : Port) : Port :=
  match x.turns with
  | [] => x
  | (n, fs) :: t =>
    { x with waiting := x.waiting ++ fs.take turnFlits, turns := if fs.drop turnFlits = [] then t else t ++ [(n, fs.drop turnFlits)] }
/-- Send what can be sent, turn after turn. -/
def pumpTurns (now : Nat) : Nat → Port → Port
  | 0, x => pumpList now [] x.waiting x
  | k + 1, x =>
    let y := pumpList now [] x.waiting x
    if y.waiting = [] ∧ y.turns ≠ [] then pumpTurns now k (takeTurn y) else y
/-- Send what a port can send. -/
def pump (s : State) (p : Nat) : State := setPort s p (pumpTurns (timeOf s) (replayMax + 1) (portAt s p))
/-- Give flits to a port. -/
def enqueue (s : State) (p : Nat) (fs : List Nat) : State :=
  pump (setPort s p { portAt s p with waiting := (portAt s p).waiting ++ fs }) p
/-- Give the flits of a tow command to a port: behind those it still has there, or as the last to take a turn. -/
def enqueueTow (s : State) (p n : Nat) (fs : List Nat) : State :=
  let x := portAt s p
  let more (q : Nat × List Nat) : Nat × List Nat := if q.1 = n then (n, q.2 ++ fs) else q
  pump (setPort s p { x with turns := if x.turns.any (fun q => q.1 == n) then x.turns.map more else x.turns ++ [(n, fs)] }) p
/-- Send a link-control flit: type, sequence number, and every credit owed (Table 18-13). -/
def sendControl (s : State) (p ty seq : Nat) : State :=
  let x := portAt s p
  let credits := x.owed.getD 0 0 + x.owed.getD 1 0 * 2 ^ 16 + x.owed.getD 2 0 * 2 ^ 32
  setPort s p { x with owed := [0, 0, 0],
                       wire := x.wire ++ [sealFlit 0 (mkFlit 3 3 0 0 (ty + seq * 2 ^ 16 + credits * 2 ^ 32))] }

/-- The port that carries traffic for device `d`; 0xFF: none (R368). -/
def routeOf (s : State) (d : Nat) : Nat := mapGet 0 s.fabric.routes d
/-- Traffic for a device can leave: it has a port, and the port is neither down nor unconnected. -/
def routeUp (s : State) (d : Nat) : Bool := decide (routeOf s d < 16) && decide ((portAt s (routeOf s d)).state < 2)

/-- The least number a list does not hold. -/
def leastFree (l : List Nat) : Nat := ((List.range (l.length + 1)).find? (fun i => !l.contains i)).getD 0
/-- The link tag of a head or body flit that waits. -/
def waitingTag (f : Nat) : Option Nat :=
  if flitKind f = 0 then some (flitField f 4 2) else if flitKind f = 1 then some (bodyTag f) else none
/-- A link tag that no command on the link still uses. -/
def freeLink (s : State) (p : Nat) : Nat :=
  leastFree (((portAt s p).waiting ++ (portAt s p).turns.flatMap (·.2)).filterMap waitingTag ++
    s.fabric.inbounds.filterMap (fun i => i.forward.bind (fun q => if q.1 = p then some q.2 else none)))
/-- An origin tag that no command awaiting its response uses. -/
def freeTag (s : State) : Nat := leastFree ((s.fabric.remotes.filter (fun r => r.answered.isNone)).map (·.tag))
/-- A command for a port finds an origin tag and a link tag, of 16 bits each. -/
def tagsLeft (s : State) (p : Nat) : Bool := decide (freeTag s < 2 ^ 16) && decide (freeLink s p < 2 ^ 16)

/-- The body flits of a command: 56 bytes each, the last padded with zeros. -/
def bodyFlits (link : Nat) : Nat → List Byte → List Nat
  | 0, _ => []
  | n + 1, bs => if bs = [] then [] else mkBody link (bytesLE (bs.take 56)) :: bodyFlits link n (bs.drop 56)

/-- Send a command of tow `tow` to a device: its head and its bodies (R366). -/
def sendRemote (s : State) (tow device oper addr : Nat) (bs : List Byte) (silt : List (Nat × List Byte)) (mate : Option Nat) :
    State :=
  let p := routeOf s device
  let tag := freeTag s
  let link := freeLink s p
  let head := mkFlit 0 0 device 3
    (headPayload oper s.deviceId tag link bs.length (oper == 2) addr (bytesLE (bs.take 32)))
  let s1 := enqueueTow s p tow (head :: bodyFlits link (bs.length / 56 + 1) (bs.drop 32))
  { s1 with fabric := { s1.fabric with remotes := s1.fabric.remotes ++ [{ tow, port := p, tag, addr, len := bs.length, silt, mate }] } }

/-! ## The end of a remote command at its origin (R271, R464, R484, R488) -/

/-- A tow command. -/
def towOf (s : State) (n : Nat) : Tow := s.tows.getD n { oper := 0, g := 0, desc := 0, named := 0, landing := 0, before := 0, phase := .done }
/-- Change a tow command. -/
def modTow (s : State) (n : Nat) (f : Tow → Tow) : State := { s with tows := s.tows.modify n f }
/-- End a tow command's accesses with a status; the first status stands. -/
def stopTow (s : State) (n status : Nat) : State :=
  modTow s n (fun c => { c with status := if c.status = 0 then status else c.status, phase := if c.phase = .running then .finishing else c.phase })

/-- Write new silt words after their row has been performed at its target; a unit that cannot be written keeps its old words (R488). -/
def writeSilt (n : Nat) : List (Nat × List Byte) → State → State
  | [], s => s
  | (a, bs) :: t, s => match storeCheck s a bs.length true true with
    | (s1, some b) => writeSilt n t (stopTow (logAccErr s1 (some (towOf s1 n).g) a (.data b)) n 4)
    | (s1, none) => writeSilt n t (writeLocBytes s1 a bs (some true))

/-- A remote command of a tow ends with a status; a link failure is logged (0x0A04).
DEDUCED: notes/assumptions/33.md. -/
def endRemote (s : State) (r : Remote) (status : Nat) : State :=
  if status = 0 then writeSilt r.tow r.silt s
  else
    let s1 := if status = 5 then logGroup s (towOf s r.tow).g 0x0A04 1 r.port (some r.addr) else s
    stopTow s1 r.tow status

/-- A tow command awaits no response. -/
def remotesDone (s : State) (n : Nat) : Bool := s.fabric.remotes.all (fun r => r.tow != n || r.answered.isSome)

/-- A row is performed at its target: its scales and its elements have both been answered without error. -/
def rowPerformed (s : State) (r : Remote) : Bool :=
  r.answered == some 0 && (match r.mate with
    | none => true
    | some k => (s.fabric.remotes.getD k { tow := 0, port := 0, tag := 0, addr := 0, len := 0 }).answered == some 0)

/-- Write the silt of every row that has been performed. -/
def flushSilt (s : State) : State :=
  let ready := s.fabric.remotes.filter (fun r => r.silt != [] && rowPerformed s r)
  let s1 : State := { s with fabric := { s.fabric with remotes := s.fabric.remotes.map (fun r =>
    if rowPerformed s r then { r with silt := [] } else r) } }
  ready.foldl (fun s r => writeSilt r.tow r.silt s) s1

/-- Record the answer of the remote commands a test picks. -/
def answerAll (s : State) (pick : Remote → Bool) (status : Nat) : State :=
  let hit := s.fabric.remotes.filter (fun r => r.answered.isNone && pick r)
  let s1 : State := { s with fabric := { s.fabric with remotes := s.fabric.remotes.map (fun r =>
    if r.answered.isNone && pick r then { r with answered := some status } else r) } }
  flushSilt (hit.foldl (fun s r => endRemote s { r with silt := [] } status) s1)

/-! ## Commands at their target (R366, R368, R486) -/

/-- Whose addresses incoming commands name: virtual ones of the inbound context. -/
def inboundSpace (s : State) : Space := { ctx := s.fabric.inbound, privileged := false, team := 0, sel4 := false, sel5 := false, sel8 := false }

/-- A refused incoming command: log and status (R486). An address that leads to a hole is answered as a translation fault.
DEDUCED: notes/assumptions/30.md. -/
def refuseInbound (s : State) (named : Nat) : AccErr → State × Nat
  | .xlat r l => (logModule s 0x0910 1 8 0 (r * 256 + l) named, 3)
  | .data b => (logRecord s { seq := 0, time := 0, addr := b.addr, code := b.code, cls := 1, flags := 3, unitKind := b.kind, unit := b.unit,
                              detail := b.detail }, 4)
  | e => (logAccErr s none named e, 3)

/-- Write bytes at an address of this device for a source device: status and bytes performed. -/
def inboundWrite (s : State) (source : Nat) : List (Nat × Nat) → List Byte → State × Nat × Nat
  | [], _ => (s, 0, 0)
  | (a, n) :: t, bs => match locateAll (inboundSpace s) { write := true } [(a, n)] s with
    | (s0, .error (_, e)) => let (s1, st) := refuseInbound s0 a e; (s1, st, 0)
    | (s0, .ok ps) => match writeAll s0 ps (bs.take n) with
      | (s1, some (_, b)) => let (s2, st) := refuseInbound s1 a (.data b); (s2, st, 0)
      | (s1, none) => let (s2, st, k) := inboundWrite s1 source t (bs.drop n); (s2, st, n + k)

/-- The source's enable bit is set (R368). -/
def sourceEnabled (s : State) (d : Nat) : Bool := s.fabric.sources.getLsbD d
/-- A source that is not enabled, or that names a reserved operation: status 5 (R486). -/
def refuseSource (s : State) (source addr : Nat) : State := logModule s 0x0A05 1 8 0 source addr

/-- An n64 add at an address of this device: status. -/
def inboundAdd (s : State) (source addr v : Nat) : State × Nat :=
  if addr % 8 ≠ 0 then (refuseSource s source addr, 5)
  else match locating s (inboundSpace s) addr 8 atomNeed with
    | (s0, .error e) => refuseInbound s0 addr e
    | (s0, .ok (a, pound)) => match rmw s0 a 8 pound (fun old => some ((old + v) % 2 ^ 64)) with
      | (s1, .error b) => refuseInbound s1 addr (.data b)
      | (s1, .ok _) => (s1, 0)

/-- No line an incoming command of `n` bytes reaches is locked (R245). -/
def inboundFree (s : State) (addr n : Nat) : Bool := match (locateAll (inboundSpace s) {} (pieces addr n) s).2 with
  | .error _ => true
  | .ok ps => piecesFree s ps

/-- Send the response of a command to its source device (Table 18-12). -/
def respond (s : State) (dest tag status performed : Nat) : State :=
  if routeUp s dest then
    enqueue s (routeOf s dest) [mkFlit 2 1 dest 3 (status + s.deviceId * 2 ^ 8 + tag * 2 ^ 16 + performed * 2 ^ 32)]
  else s

/-! ## A port's receiver -/

/-- The flit at place `i` of a port's accepted flits, if it is the first of its virtual channel and of the kind. -/
def rxFlit (s : State) (p i kind : Nat) : Option Nat :=
  match (portAt s p).rx[i]? with
  | none => none
  | some f => if flitKind f = kind ∧ ((portAt s p).rx.take i).all (fun y => flitVc y != flitVc f) then some f else none
/-- Take an accepted flit out of the receiver; its credit is owed. -/
def takeRx (s : State) (p i : Nat) : State :=
  let x := portAt s p
  setPort s p { x with rx := x.rx.eraseIdx i, owed := x.owed.modify (flitVc (x.rx.getD i 0)) (· + 1) }

/-- Remember a command whose body is to come. -/
def addInbound (s : State) (b : Inbound) : State := { s with fabric := { s.fabric with inbounds := s.fabric.inbounds ++ [b] } }

/-- Bytes of a command's body after its head. -/
def bodyBytes (oper len : Nat) : Nat := if oper = 1 then len - 32 else 0

/-- A head that this module drops: the response is sent in the target's place, and the body is dropped as it comes (R368, R486). -/
def dropHead (s : State) (p f : Nat) : State :=
  let s1 := respond (logModule s 0x0A05 1 8 p (flitField f 1 1) (flitField f 16 8)) (flitField f 1 1) (flitField f 2 2) 5 0
  let n := bodyBytes (flitField f 0 1) (flitField f 8 4)
  if n = 0 then s1 else addInbound s1 { port := p, link := flitField f 4 2, left := n, status := 5, source := 256 }

/-- Forward a head on the entry of its destination, losing one hop (R366, R368).
DEDUCED: notes/assumptions/115.md. -/
def forwardHead (s : State) (p f : Nat) : State :=
  let dest := bitField f 24 6
  let hops := bitField f 22 2
  if hops = 0 ∨ !routeUp s dest then dropHead s p f
  else
    let q := routeOf s dest
    let link := freeLink s q
    let payload := f / 2 ^ 32 % 2 ^ 448
    let n := bodyBytes (flitField f 0 1) (flitField f 8 4)
    let s1 := enqueue s q [mkFlit 0 0 dest (hops - 1) (payload - flitField f 4 2 * 2 ^ 32 + link * 2 ^ 32)]
    if n = 0 then s1 else addInbound s1
      { port := p, link := flitField f 4 2, forward := some (q, link), source := flitField f 1 1, origin := flitField f 2 2, left := n }

/-- The head at place `i` of a port's receiver is forwarded; one with a hop left waits for a link tag on its outgoing link. -/
def forwardNext (s : State) (p i f : Nat) : State :=
  let q := routeOf s (bitField f 24 6)
  if bitField f 22 2 ≠ 0 ∧ routeUp s (bitField f 24 6) ∧ 2 ^ 16 ≤ freeLink s q then s else forwardHead (takeRx s p i) p f

/-- An earlier command of the same source is still to be performed here. -/
def sourceBusy (s : State) (source : Nat) : Bool := s.fabric.inbounds.any (fun i => i.source == source && i.forward.isNone)

/-- `CAMTOS_WRITE_COMMAND`: the head of a write is taken in: forwarded, or its first bytes are performed; the response follows the last
byte, or the failure. -/
def execCamtosWriteCommand (p i : Nat) (s : State) : Res :=
  match rxFlit s p i 0 with
  | none => .next s
  | some f =>
    let source := flitField f 1 1
    let tag := flitField f 2 2
    let len := flitField f 8 4
    let addr := flitField f 16 8
    let n := min len 32
    if flitField f 0 1 ≠ 1 then .next s
    else if bitField f 24 6 ≠ s.deviceId then .next (forwardNext s p i f)
    else if (bitOf (flitField f 12 1) 0 ∧ sourceBusy s source) ∨ !inboundFree s addr n then .next s
    else
      let s1 := takeRx s p i
      let (s2, status, k) := if sourceEnabled s1 source then
          inboundWrite s1 source (pieces addr n) (toBytesLE n (flitField f 24 32))
        else (refuseSource s1 source addr, 5, 0)
      let left := bodyBytes 1 len
      let s3 := if left = 0 ∨ status ≠ 0 then respond s2 source tag status k else s2
      .next (if left = 0 then s3 else addInbound s3
        { port := p, link := flitField f 4 2, source, origin := tag, addr := addr + n, left, performed := k, status })

/-- `CAMTOS_BODY_FLIT`: a body flit follows its head by its link tag, to the next link or into memory. -/
def execCamtosBodyFlit (p i : Nat) (s : State) : Res :=
  match rxFlit s p i 1 with
  | none => .next s
  | some f => match s.fabric.inbounds.findIdx? (fun b => b.port == p && b.link == bodyTag f) with
    | none => .next s
    | some k =>
      let b := s.fabric.inbounds.getD k { port := 0, link := 0, left := 0 }
      let n := min b.left 56
      let put (s : State) (b : Inbound) : State :=
        { s with fabric := { s.fabric with inbounds := if b.left = 0 then s.fabric.inbounds.eraseIdx k else s.fabric.inbounds.set k b } }
      let b1 : Inbound := { b with left := b.left - n, addr := b.addr + n }
      match b.forward with
      | some (q, link) => .next (enqueue (put (takeRx s p i) b1) q [mkBody link (f / 2 ^ 32 % 2 ^ 448)])
      | none =>
        if b.status ≠ 0 then .next (put (takeRx s p i) b1)
        else if !inboundFree s b.addr n then .next s
        else
          let (s1, status, m) := inboundWrite (takeRx s p i) b.source (pieces b.addr n) (toBytesLE n (f / 2 ^ 32))
          let b2 : Inbound := { b1 with status, performed := b.performed + m }
          .next (put (if b2.left = 0 ∨ status ≠ 0 then respond s1 b.source b.origin status b2.performed else s1) b2)

/-- `CAMTOS_ADD_COMMAND`: an n64 add is forwarded, or performed here and answered; with order bit 0 it follows every earlier command of
its source. -/
def execCamtosAddCommand (p i : Nat) (s : State) : Res :=
  match rxFlit s p i 0 with
  | none => .next s
  | some f =>
    let source := flitField f 1 1
    let addr := flitField f 16 8
    if flitField f 0 1 ≠ 2 then .next s
    else if bitField f 24 6 ≠ s.deviceId then .next (forwardNext s p i f)
    else if (bitOf (flitField f 12 1) 0 ∧ sourceBusy s source) ∨ !inboundFree s addr 8 then .next s
    else
      let s1 := takeRx s p i
      let (s2, status) := if sourceEnabled s1 source then inboundAdd s1 source addr (flitField f 24 8) else (refuseSource s1 source addr, 5)
      .next (respond s2 source (flitField f 2 2) status (if status = 0 then 8 else 0))

/-- `CAMTOS_RESERVED_OP`: a head with a reserved operation is forwarded, or refused here with status 0x05. -/
def execCamtosReservedOp (p i : Nat) (s : State) : Res :=
  match rxFlit s p i 0 with
  | none => .next s
  | some f =>
    if flitField f 0 1 = 1 ∨ flitField f 0 1 = 2 then .next s
    else if bitField f 24 6 ≠ s.deviceId then .next (forwardNext s p i f)
    else .next (dropHead (takeRx s p i) p f)

/-- `CAMTOS_RESPONSE`: a response is forwarded, or ends the command whose origin tag it carries. -/
def execCamtosResponse (p i : Nat) (s : State) : Res :=
  match rxFlit s p i 2 with
  | none => .next s
  | some f =>
    let s1 := takeRx s p i
    let dest := bitField f 24 6
    let hops := bitField f 22 2
    if dest = s.deviceId then .next (answerAll s1 (fun r => r.tag == flitField f 2 2) (flitField f 0 1))
    else if hops = 0 ∨ !routeUp s1 dest then .next (logModule s1 0x0A05 1 8 p dest 0)
    else .next (enqueue s1 (routeOf s1 dest) [mkFlit 2 1 dest (hops - 1) (f / 2 ^ 32 % 2 ^ 448)])

/-! ## Link events (R365 to R367, R483 to R485) -/

/-- Credits come back for a virtual channel. -/
def returnCredits (x : Port) (vc n : Nat) : Port := { x with used := x.used.modify vc (· - n) }

/-- Credits that a flit returns: in its header, for its own channel, or in the payload of a link-control flit, for every channel (R365, Table
18-13). -/
def flitCredits (x : Port) (f : Nat) : Port :=
  match flitKind f with
  | 1 => x
  | 3 => [0, 1, 2].foldl (fun x vc => returnCredits x vc (flitField f (4 + 2 * vc) 2)) x
  | _ => returnCredits x (flitVc f) (bitField f 14 8)

/-- Flits of a port that a failed CRC discards, with every later one; a negative acknowledgement asks for the replay (R367). -/
def crcFail (s : State) (p : Nat) : State := sendControl (setPort s p { portAt s p with discarding := true }) p 2 (portAt s p).rxSeq

/-- Flits of a replay buffer up to and including a sequence number. -/
def ackCount (x : Port) (seq : Nat) : Nat := match x.replay.findIdx? (fun f => flitSeq f == seq % 4096) with
  | none => 0
  | some k => k + 1

/-- Release the first `n` flits of a replay buffer. -/
def release (s : State) (p n : Nat) : State :=
  let x := portAt s p
  if n = 0 then s else pump (setPort s p { x with replay := x.replay.drop n, replays := 0, sentAt := timeOf s }) p

/-- `LINK_ACK`: every flit up to and including a sequence number is acknowledged. -/
def execLinkAck (p seq : Nat) (s : State) : Res := .next (release s p (ackCount (portAt s p) seq))

/-- Commands of other devices, by source and origin tag, that a port was to carry on and cannot: those whose head it still keeps, and those
whose body is still to come. -/
def strandedForwards (s : State) (p : Nat) : List (Nat × Nat) :=
  let x := portAt s p
  (((x.replay ++ x.waiting).filter (fun f => flitKind f == 0 && flitField f 1 1 != s.deviceId)).map
      (fun f => (flitField f 1 1, flitField f 2 2)) ++
    (s.fabric.inbounds.filter (fun i => i.forward.any (fun q => q.1 == p))).map (fun i => (i.source, i.origin))).eraseDups

/-- Commands of a port that goes down end with a link failure (R484); for one of another device this module answers as for one it drops, and
drops the rest of its body (R366).
DEDUCED: notes/assumptions/115.md. -/
def failPort (s : State) (p : Nat) : State :=
  let s1 := setPort s p { portAt s p with state := 2, lanes := 0, replay := [], waiting := [], turns := [], downAt := none }
  let s2 : State := { s1 with fabric := { s1.fabric with inbounds := s1.fabric.inbounds.map (fun i =>
    if i.forward.any (fun q => q.1 == p) then { i with forward := none, source := 256, status := 5 } else i) } }
  answerAll ((strandedForwards s p).foldl (fun s c => respond s c.1 c.2 5 0) s2) (fun r => r.port == p) 5

/-- A port needs retraining: at once, or, in host-assisted mode, after the driver's command (R483, R484). -/
def needRetrain (s : State) (p : Nat) : State :=
  let x := portAt s p
  if s.duty.getLsbD 2 then setPort s p { x with state := 2, lanes := 0, downAt := some (timeOf s) } else setPort s p { x with state := 1 }

/-- Replay from the oldest unacknowledged flit; after 8 replays the port retrains (R367). -/
def replayAll (s : State) (p : Nat) : State :=
  let x := portAt s p
  if x.replay = [] then s
  else if 8 ≤ x.replays then needRetrain s p
  else setPort s p { x with replays := x.replays + 1, wire := x.wire ++ x.replay, sentAt := timeOf s }

/-- A negative acknowledgement of a sequence number is taken in. -/
def nakTo (s : State) (p seq : Nat) : State :=
  let s1 := release s p (ackCount (portAt s p) ((seq + 4095) % 4096))
  if (portAt s p).state = 0 ∧ (portAt s1 p).replay.any (fun f => flitSeq f == seq % 4096) then replayAll s1 p else s1

/-- `LINK_NAK`: every flit before the named one is acknowledged, and the sender replays from it. -/
def execLinkNak (p seq : Nat) (s : State) : Res := .next (nakTo s p seq)

/-- A link-control flit is taken in: its credits, and its acknowledgement or negative acknowledgement (Table 18-13). -/
def takeControl (s : State) (p f : Nat) : State :=
  let s1 := pump (setPort s p (flitCredits (portAt s p) f)) p
  match flitField f 0 1 with
  | 1 => release s1 p (ackCount (portAt s1 p) (flitField f 2 2))
  | 2 => nakTo s1 p (flitField f 2 2)
  | _ => s1

/-- A flit arrives (R365 to R367). One that fails its CRC is discarded, and asks for the replay unless it is link control; one out of
sequence is discarded; the replay that delivers one after a failure is logged. Link control takes no place in the receiver. -/
def flitArrives (s : State) (p f : Nat) : State :=
  let x := portAt s p
  if x.state ≠ 0 then s
  else if flitKind f = 3 then (if flitGood f then takeControl s p f else s)
  else if !flitGood f then crcFail s p
  else if flitSeq f ≠ x.rxSeq then s
  else
    let s1 := if x.discarding then logModule s 0x0A01 0 8 p p 0 else s
    pump (setPort s1 p { flitCredits x f with rx := x.rx ++ [f % 2 ^ 480], rxSeq := (x.rxSeq + 1) % 4096, discarding := false }) p

/-- `LINK_CREDIT_UPDATE`: credits are returned for a virtual channel. -/
def execLinkCreditUpdate (p vc credits : Nat) (s : State) : Res := .next (pump (setPort s p (returnCredits (portAt s p) vc credits)) p)

/-- `FLIT_CRC_FAIL`: a flit that fails its CRC is discarded, and a negative acknowledgement is returned. -/
def execFlitCrcFail (p : Nat) (s : State) : Res := .next (if (portAt s p).state = 0 then crcFail s p else s)

/-- `LINK_CONTROL_PERIODIC`: a port acknowledges what it has accepted and returns the credits it owes. -/
def execLinkControlPeriodic (p : Nat) (s : State) : Res :=
  let x := portAt s p
  .next (if x.state ≠ 0 then s else if x.discarding then sendControl s p 2 x.rxSeq else sendControl s p 1 ((x.rxSeq + 4095) % 4096))

/-- `REPLAY_TIMEOUT`: the oldest unacknowledged flit has waited 1 µs. -/
def execReplayTimeout (p : Nat) (s : State) : Res :=
  let x := portAt s p
  .next (if x.state = 0 ∧ x.replay ≠ [] ∧ x.sentAt + 1000 ≤ timeOf s then replayAll s p else s)

/-- The lanes a port retrains with: 0 to 7, 0 to 3 or 4 to 7, which the event leaves open.
DESIGN CHOICE: notes/assumptions/31.md. -/
def trainedLanes (n : Nat) : Nat := match n % 3 with
  | 0 => 0xFF
  | 1 => 0x0F
  | _ => 0xF0

/-- `PORT_RETRAIN`: retraining ends: replay resumes from the first unacknowledged flit, or the port is down (R483, R484). -/
def execPortRetrain (p : Nat) (ok : Bool) (s : State) : Res :=
  let x := portAt s p
  if x.state ≠ 1 then .next s
  else if !ok then .next (failPort (logModule s 0x0A03 1 8 p p 0) p)
  else
    let lanes := trainedLanes (Config.freeBits s.free).toNat
    let s1 : State := { s with free := s.free + 1 }
    let s2 := setPort s1 p { x with state := 0, lanes, retrains := min (x.retrains + 1) 0xFFFF, replays := 0, downAt := none,
                                    wire := x.wire ++ x.replay, sentAt := timeOf s }
    .next (pump (logModule s2 0x0A02 0 8 p (p + lanes * 2 ^ 8) 0) p)

/-- `HOST_RETRAIN_TIMEOUT`: the commands of a port have waited 100 ms for a retrain command (R484). -/
def execHostRetrainTimeout (p : Nat) (s : State) : Res :=
  let x := portAt s p
  .next (match x.downAt with
    | some t => if x.state = 2 ∧ t + 100000000 ≤ timeOf s then failPort s p else s
    | none => s)

/-- A write of 0x80000000 + p to the retrain word starts retraining of port p if it is down; another is logged (R485). -/
def writeRetrain (s : State) (data : Word) : State :=
  let p := data.toNat % 2 ^ 31
  if data.toNat < 2 ^ 31 ∨ 16 ≤ p then s
  else if (portAt s p).state ≠ 2 then logModule s 0x0A06 4 8 p p 0
  else setPort s p { portAt s p with state := 1 }
/-- `RETRAIN_WORD_WRITE`: starts retraining of a port that is down. -/
def execRetrainWordWrite (data : Word) (s : State) : Res := .next (writeRetrain s data)

/-- `CAMTOS_PORT_CONNECT`: a port with a partner attached trains and is up (R485). -/
def execCamtosPortConnect (p : Nat) (s : State) : Res :=
  .next (if p < 16 ∧ (portAt s p).state = 3 then pump (setPort s p { portAt s p with state := 0, lanes := 0xFF }) p else s)

end Sys2Proof.Machine
end

