-- ==== Sys2Proof/Machine/Convert.lean ====
section
/-!
DEFINITION. Conversions and block-scaled formats: `cvt` (spec/11_isa_lanes_conversion.md, R222 to R225; spec/04_number_formats.md, R69
to R74 and R84).
-/
namespace Sys2Proof.Machine

/-! ## Formats by code (Tables 4-5 and 11-2) -/

/-- The floating format of a code: f32, bf16, f16, e4m3, e5m2, f64, or the element format of an MX code. -/
def fmtOfCode (k : Nat) : FloatFmt :=
  match k with
  | 0 => f32
  | 1 => bf16
  | 2 => f16
  | 3 => e4m3
  | 4 => e5m2
  | 5 => e4m3
  | 6 => e5m2
  | 7 => e2m1
  | _ => f64

/-- Whether `%fpctl` flushes a format (R81). -/
def ftzOfCode (fpctl : Word) (k : Nat) : Bool :=
  match k with
  | 0 => ftz32 fpctl
  | 1 => ftz16 fpctl
  | 2 => ftz16 fpctl
  | 0xE => ftz64 fpctl
  | _ => false

/-- Bits of one element of a code (Table 11-2). -/
def codeBits (k : Nat) : Nat :=
  match k with
  | 0 => 32
  | 1 => 16
  | 2 => 16
  | 3 => 8
  | 4 => 8
  | 5 => 8
  | 6 => 8
  | 7 => 4
  | 8 => 4
  | 9 => 8
  | 0xA => 8
  | 0xB => 4
  | 0xC => 4
  | 0xE => 64
  | _ => 32

/-- Whether an integer code is signed: i8, i4, i32. -/
def codeSigned (k : Nat) : Bool := k == 9 || k == 0xB || k == 0xD
/-- The bits of an integer element as a number. -/
def codeInt (k x : Nat) : Int := if codeSigned k then signed (codeBits k) x else (x % 2 ^ codeBits k : Nat)
/-- Limits of an integer code. -/
def codeLo (k : Nat) : Int := if codeSigned k then -(2 ^ (codeBits k - 1) : Nat) else 0
def codeHi (k : Nat) : Int := if codeSigned k then (2 ^ (codeBits k - 1) : Nat) - 1 else (2 ^ codeBits k : Nat) - 1

/-! ## Block-scaled values (R69 to R73) -/

/-- Decode an MX element under its scale (R72): scale 0xFF gives NaN and sets mxnan. -/
def mxDecode (f : FloatFmt) (x scale : Nat) : FVal × Nat :=
  if scale = 255 then (.nan, flagMxnan)
  else match fdecode f x with
    | .fin n m e => (.fin n m (e + scale - 127), 0)
    | v => (v, 0)

/-- floor(log2 |v|) of a finite nonzero value. -/
def flog2Floor : FVal → Int
  | .fin _ m e => e + Nat.log2 m
  | _ => 0

/-- The quotient v / 2^x rounded nearest-even to the element format with its exponent unbounded above, saturated (R73): the element's
value. -/
def mxElement (f : FloatFmt) (x : Int) : FVal → FVal
  | .fin n m e =>
    if m = 0 then .fin n 0 0
    else
      let q := max (e - x + Nat.log2 m) (fmtEmin f) - f.frac
      let y := if q ≤ e - x then m * 2 ^ (e - x - q).toNat else roundShift .rne n m (q - (e - x)).toNat
      let top : FVal := .fin n (fmtMaxSig f) (fmtEmax f - f.frac)
      if fcompare (.fin false (fmtMaxSig f) (fmtEmax f - f.frac)) (.fin false y q) < 0 then top else .fin n y q
  | v => v

/-- emax(elem) of R73. -/
def mxEmax (f : FloatFmt) : Int := fmtEmax f

/-- `mx_encode` of R73: the scale, the codes and the flags. -/
def mxEncode (f : FloatFmt) (vs : List FVal) : Nat × List Nat × Nat :=
  if vs.any (fun v => match v with
      | .fin _ _ _ => false
      | _ => true) then (255, vs.map (fun _ => 0), flagInvalid)
  else
    let logs := (vs.filter (fun v => match v with
      | .fin _ m _ => m != 0
      | _ => false)).map flog2Floor
    let x : Int := match logs with
      | [] => -127
      | a :: t => min (max (t.foldl max a - mxEmax f) (-127)) 127
    let qs := vs.map (mxElement f x)
    let inexact := (vs.zip qs).any (fun p => match p.1 with
      | .fin n m e => fcompare (.fin n m (e - x)) p.2 != 0
      | _ => false)
    ((x + 127).toNat, qs.map (fencode f), flagIf inexact flagInexact)

/-! ## `cvt` -/

/-- Source modifiers on a decoded value (R223). -/
def valMods (neg abs : Bool) (v : FVal) : FVal :=
  let u := match v with
    | .nan => .nan
    | .inf n => .inf (n && !abs)
    | .fin n m e => .fin (n && !abs) m e
  if neg then fneg u else u

/-- A value to a floating format (Table 4-9): an infinity to e4m3 is canonical NaN and invalid, or ±448 with `.sat` and no flag; with
`.sat` an overflow gives ±maxf in every mode (R79). -/
def toFloat (k : Nat) (mode : RMode) (ftz sat : Bool) (v : FVal) : Nat × Nat :=
  let f := fmtOfCode k
  match v with
  | .inf n =>
    if f.kind = 1 then (if sat then (fencode f (.fin n 14 5), 0) else (fmtNan f, flagInvalid)) else (fencode f (.inf n), 0)
  | v =>
    let (b, fl) := fdeliver f mode ftz v
    if sat ∧ fl &&& flagOverflow ≠ 0 then (fencode f (.fin (isNeg v) (fmtMaxSig f) (fmtEmax f - f.frac)), fl) else (b, fl)

/-- The element `cvt` reads in lane l: of its word, half, byte or nibble, or of its pair (Table 11-2). -/
def cvtElement (x : Group) (f : FmtT) (src dst l : Nat) : Nat :=
  let w := codeBits src
  if src = 0xE then (srcPair x f.ka f.a l).toNat
  else
    let i := if cvtUsesB src dst then (srcWord x f.kb f.b l).toNat % (32 / w) else 0
    bitField (srcWord x f.ka f.a l).toNat (w * i) w

/-- The floating value `cvt` converts in lane l, and the flags of decoding it (R224). -/
def cvtValue (x : Group) (f : FmtT) (src dst l : Nat) : FVal × Nat :=
  let e := cvtElement x f src dst l
  if cvtMx src then mxDecode (fmtOfCode src) e ((srcWord x f.kc f.c l).toNat % 256)
  else if src = 8 then (fdecode bf16 (bitField (sreg x (f.c.toNat + e / 2)).toNat (16 * (e % 2)) 16), 0)
  else (fread (fmtOfCode src) (ftzOfCode x.fpctl src) e, 0)

/-- The result of `cvt` in lane l for a destination that is not MX: bits and flags (R224). -/
def cvtLane (x : Group) (f : FmtT) (l : Nat) : Nat × Nat :=
  let dst := f.op.toNat / 16
  let src := f.op.toNat % 16
  let mode := modeFor x.fpctl f.rnd true
  if cvtInt src then
    let v := codeInt src (cvtElement x f src dst l)
    if cvtInt dst then
      (wrapTo (codeBits dst) (if f.sat then min (max v (codeLo dst)) (codeHi dst) else v), 0)
    else fdeliver (fmtOfCode dst) mode (ftzOfCode x.fpctl dst) (fofInt v)
  else
    let (u, fl0) := cvtValue x f src dst l
    let v := valMods f.na f.aa u
    let (b, fl) := if cvtInt dst then
        let (y, fl) := ftoInt mode (codeLo dst) (codeHi dst) v
        (wrapTo (codeBits dst) y, fl)
      else toFloat dst mode (ftzOfCode x.fpctl dst) f.sat v
    (b, fl0 ||| fl)

/-- Register offset and lane of element i of block k for an MX destination (R225). -/
def mxPlace (w k i : Nat) : Nat × Nat := if w ≤ 32 then (i / w, i % w) else (0, 32 * k + i)

/-- The values of block k: an inactive lane adds +0 (R225). -/
def mxValues (x : Group) (f : FmtT) (w : Nat) (act : DWord) (k : Nat) : List FVal :=
  (List.range 32).map (fun i =>
    let (r, l) := mxPlace w k i
    if laneIn act l then
      let src := f.op.toNat % 16
      valMods f.na f.aa (fread (fmtOfCode src) (ftzOfCode x.fpctl src) (bitField (vlane x (f.a.toNat + r) l).toNat 0 (codeBits src)))
    else .fin false 0 0)

/-- Write the codes of block k to the active lanes. -/
def mxWrite (f : FmtT) (w : Nat) (act : DWord) (k : Nat) (codes : List Nat) (x : Group) : Group :=
  (List.range 32).foldl (fun y i =>
    let (r, l) := mxPlace w k i
    if laneIn act l then setVlane (f.d.toNat + r) l (BitVec.ofNat 32 (codes.getD i 0)) y else y) x

/-- `cvt` with an MX destination (R225): whole blocks of 32 elements across lanes; the scales go to sc. -/
def cvtMxBlocks (t : State) (f : FmtT) : State :=
  let x := me t
  let w := widthOf t t.cur
  let act := activeMask t t.cur
  let elem := fmtOfCode (f.op.toNat / 16)
  let r0 := mxEncode elem (mxValues x f w act 0)
  let r1 := if w = 64 then mxEncode elem (mxValues x f w act 1) else (0, [], 0)
  let t1 := modMe t (fun y =>
    let y1 := mxWrite f w act 0 r0.2.1 y
    let y2 := if w = 64 then mxWrite f w act 1 r1.2.1 y1 else y1
    setSreg f.c.toNat (BitVec.ofNat 32 (r0.1 + 256 * r1.1)) y2)
  finishFlags t1 t.cur (r0.2.2 ||| r1.2.2)

/-- `cvt`: one element per active lane, or whole MX blocks. The f64 forms raise the return trap on a quay core (R319). -/
def execCvt (f : FmtT) (s : State) : Res :=
  issueOn none (f.op.toNat / 16 != 0xE && f.op.toNat % 16 != 0xE) (sigCvtOf (widthOf s s.cur) f) (fun t =>
    if cvtMx (f.op.toNat / 16) then .next (cvtMxBlocks t f)
    else finishF t f.d (if f.op.toNat / 16 = 0xE then 2 else 1) (cvtLane (me t) f)) s

end Sys2Proof.Machine
end

