-- ==== Sys2Proof/Machine/Sync.lean ====
section
/-!
DEFINITION. Flights, landings and path waits, with the events that end their waits (spec/12_isa_memory_sync.md, R252 to R258; R128,
R419, R420, R434, R435, R469, R504).
-/
namespace Sys2Proof.Machine

/-! ## Flight words (R252) -/

/-- Key of team flight `f` of team `t`. -/
def teamFlight (t f : Nat) : Nat := 16 * t + f
/-- Key of die flight `n` of die `d`. -/
def dieFlight (d n : Nat) : Nat := 2 ^ 40 + 4096 * d + n

/-- What a flight word names. -/
inductive FlightWord where
  /-- a flight, with the scope of its reach: 1 team, 4 device (R128) -/
  | flight (key scope : Nat)
  /-- a word R434 rejects -/
  | malformed
  /-- a die flight outside the grid's grant (R469) -/
  | ungranted
deriving DecidableEq, Repr

/-- Decode a flight word for a group.
DEDUCED: notes/assumptions/23.md. -/
def flightWord (s : State) (g : Nat) (w : Nat) : FlightWord :=
  let i := gridOf s g
  let n := w % 4096
  if bitOf w 31 then (if bitField w 4 27 ≠ 0 then .malformed else .flight (teamFlight (grp s g).team (w % 16)) 1)
  else if bitField w 14 17 ≠ 0 ∨ n < i.flightFirst ∨ i.flightFirst + i.flightCount ≤ n then .ungranted
  else .flight (dieFlight (bitField w 12 2) n) 4

/-- A flight instruction that R434 or R469 turns away: no change, and cause 0x0A with the flight word. -/
def flightError (t : State) (word detail : Nat) : Res :=
  .next (raiseDeferred (advance t t.cur) t.cur (handlerOf (me t)) { cause := 0x0A, detail, addr := some word })

/-- Run a flight instruction's effect on the flight its word names. -/
def onFlight (t : State) (word : Nat) (k : Nat → Nat → Res) : Res :=
  match flightWord t t.cur word with
  | .malformed => flightError t word 1
  | .ungranted => flightError t word 2
  | .flight key scope => k key scope

/-- Members a flight can have: 33 for a team flight, 65,535 for a die flight. -/
def memberMax (scope : Nat) : Nat := if scope = 1 then 33 else 65535

/-- An `fldrop` of the group at a flight is still held. -/
def dropHeld (s : State) (g k : Nat) : Bool := s.ops.any (fun x => x.g == g && !x.finished && x.kind == .drop k)
/-- The group's member of a flight, as its next instruction finds it: none once it has issued an `fldrop`. -/
def ownMember (s : State) (g k : Nat) : Option Member := if dropHeld s g k then none else memberOf (flight s k) (.group g)

/-- `flreg`: registers the group in a mode; sd := p. A signaller clears a broken mark (R420). It follows an `fldrop` that is still held. -/
def execFlreg (f : FmtE) (s : State) : Res :=
  issueOn none false (sigFlregOf f) (fun t =>
    let word := (opndA (me t) f).toNat
    let mode := (opndB (me t) f).toNat
    onFlight t word (fun k scope =>
      let F := flight t k
      let who := Party.group t.cur
      if dropHeld t t.cur k then .next s
      else if 2 < mode ∨ (memberOf F who).isSome ∨ memberMax scope ≤ F.members.length then flightError t word 1
      else
        let F1 : Flight := { F with members := F.members ++ [{ who := who, mode := mode }],
                                    broken := if mode ≠ 1 then none else F.broken }
        finishE (setFlight t k (flCheck F1)) f.d F.phase)) s

/-- `fldrop`: removes the group, with the arrival it made. It counts as an arrival (R285), and is held as one. -/
def execFldrop (f : FmtE) (s : State) : Res :=
  issueOn none false (sigFldropOf f) (fun t =>
    let word := (opndA (me t) f).toNat
    onFlight t word (fun k scope =>
      let g := t.cur
      if (ownMember t g k).isNone then flightError t word 1
      else if (scope = 1 → resultsIn t g t.ops.length) ∧ !arrivalHeld t g k t.ops.length then
        .next (advance (setFlight t k (dropMember (flight t k) (.group g))) g)
      else .next (advance (addOp t { g := g, kind := .drop k, issuedAt := t.clock, scope }) g))) s

/-- Block an arrival on its member's early bit, before it has effect: the wait is for phase p to pass (R64, R254). -/
def blockEarly (t : State) (word : Nat) (p : Word) : State :=
  modGrp (block t t.cur 1 word p.toNat) t.cur (fun x => { x with waitPc := x.pc, waitEarly := true })

/-- The effect of `flarr` on a flight where the group is a signalling member: the arrival, at once or held behind earlier accesses in
the flight's reach (R128, R504). -/
def flarrBody (f : FmtE) (word k scope : Nat) (t : State) : Res :=
  let g := t.cur
  if !arrivalClear t g k scope t.ops.length then
    .next (advance (addOp t { g := g, kind := .arrival k, issuedAt := t.clock, du := [f.d.toNat], scope }) g)
  else
    let F := flight t k
    if earlySet F (.group g) then .next (blockEarly t word F.phase)
    else finishE (setFlight t k (arrive F (.group g))) f.d F.phase

/-- `flarr`: a signalling member arrives. -/
def execFlarr (f : FmtE) (s : State) : Res :=
  issueOn none false (sigFlarrOf f) (fun t =>
    let word := (opndA (me t) f).toNat
    onFlight t word (fun k scope =>
      if ((ownMember t t.cur k).map signaller).getD false then flarrBody f word k scope t
      else flightError t word 1)) s

/-- Block in a wait on a flight for phase b to pass, with the pc past the instruction; where it stood is kept, for R420. -/
def flightBlock (t : State) (word : Nat) (b : Word) : State :=
  let x := me t
  modGrp (block (advance t t.cur) t.cur 1 word b.toNat) t.cur
    (fun y => { y with waitPc := x.pc, waitEarly := false, waitLoops := [x.lc0, x.lc1, x.lc2, x.lc3] })

/-- Wait on a flight for phase b to pass: at once, or blocked, or cause 0x0E on a broken flight. -/
def flightWait (t : State) (word k : Nat) (b : Word) : State :=
  if phasePassed (flight t k).phase b then advance t t.cur
  else match (flight t k).broken with
    | some st => takeTrap t t.cur 0x0E st none
    | none => flightBlock t word b

/-- `flwait`: a waiting member waits for phase b to pass. -/
def execFlwait (f : FmtE) (s : State) : Res :=
  issueOn none false (sigFlwaitOf f) (fun t =>
    let word := (opndA (me t) f).toNat
    onFlight t word (fun k _ =>
      if ((ownMember t t.cur k).map (fun m => m.mode != 0)).getD false then
        .next (flightWait t word k (opndB (me t) f))
      else flightError t word 1)) s

/-- The effect of `fladv`: arrive in q, sd := q + 1, wait for q to pass. -/
def fladvBody (f : FmtE) (word k : Nat) (t : State) : Res :=
  let F := flight t k
  if earlySet F (.group t.cur) then .next (blockEarly t word F.phase)
  else
    let t1 := modGrp (setFlight t k (arrive F (.group t.cur))) t.cur (setSreg f.d.toNat (F.phase + 1))
    .next (flightWait t1 word k F.phase)

/-- `fladv`: a signal-and-wait member arrives and waits on the same flight. Its arrival is held as that of `flarr` (R504); the group waits. -/
def execFladv (f : FmtE) (s : State) : Res :=
  issueOn none false (sigFladvOf f) (fun t =>
    let word := (opndA (me t) f).toNat
    onFlight t word (fun k scope =>
      if ((ownMember t t.cur k).map (fun m => m.mode == 2)).getD false then
        if arrivalClear t t.cur k scope t.ops.length then fladvBody f word k t
        else
          .next (flightBlock (addOp t { g := t.cur, kind := .advance k, issuedAt := t.clock, du := [f.d.toNat], scope }) word
            (flight t k).phase)
      else flightError t word 1)) s

/-- A group of a team on its core waits on a flight, after its instruction, and its own arrival is not held. -/
def waitsOn (s : State) (k g : Nat) : Bool :=
  let x := grp s g
  x.wait.code == 1 && !x.waitEarly && onCore s g &&
    !s.ops.any (fun o => o.g == g && !o.finished && o.kind == .advance k) &&
    (match flightWord s g x.wait.obj with
    | .flight key _ => key == k
    | _ => false)

/-- `FLIGHT_WAITERS_RELEASED`: every wait a flight's phase has completed is released, together (R254). -/
def execFlightWaitersReleased (k : Nat) (s : State) : Res :=
  .next ((List.range s.groups.length).foldl (fun t g =>
    if waitsOn s k g && phasePassed (flight s k).phase (BitVec.ofNat 32 (grp s g).wait.opnd) then unblock t g else t) s)

/-- The instruction a group's pc names, in the clause in use. -/
def instrAt (s : State) (g : Nat) : Option Instr := (wordAt (grp s g) (pcIndex (grp s g).pc)).bind decodeWord

/-- Run a body as group `g`, and give the turn back. -/
def asGroup (g : Nat) (body : State → Res) (s : State) : Res :=
  match body { s with cur := g } with
  | .next t => .next { t with cur := s.cur }
  | r => r

/-- `EARLY_ARRIVAL_RELEASE`: an arrival held on its early bit proceeds when the phase has advanced. -/
def execEarlyArrivalRelease (g : Nat) (s : State) : Res :=
  let x := grp s g
  if x.wait.code = 1 ∧ x.waitEarly then
    match flightWord s g x.wait.obj with
    | .flight k scope =>
      if !phasePassed (flight s k).phase (BitVec.ofNat 32 x.wait.opnd) ∨ !onCore s g then .next s
      else match instrAt s g with
        | some (.flarr f) => asGroup g (flarrBody f x.wait.obj k scope) (unblock s g)
        | some (.fladv f) => asGroup g (fladvBody f x.wait.obj k) (unblock s g)
        | _ => .next (unblock s g)
    | _ => .next (unblock s g)
  else .next (releaseHeld s)

/-! ## Landings (R255 to R257, R435) -/

/-- A landing offset that is not a multiple of 16, or whose 16 bytes pass the allocation. -/
def landingBad (s : State) (g off : Nat) : Bool := off % 16 != 0 || decide ((teamOf s g).allocSize < off + 16)

/-- Location of the landing at an offset of the group's team. -/
def landingLoc (s : State) (g off : Nat) : Nat := locTeam (coreOf s g) ((teamOf s g).allocBase + off)

/-- Issue `binit` or `bxp`: ordered as a write of the landing's words, and posted. -/
def landingBody (f : FmtE) (init : Bool) (t : State) : Res :=
  let g := t.cur
  let off := (opndA (me t) f).toNat
  if landingBad t g off then .next (takeTrap t g 8 0 (some (5 * 2 ^ 60 + off)))
  else
    .next (advance (addOp t
      { g := g, kind := .landing init, issuedAt := t.clock, size := 16, handler := handlerOf (me t),
        lanes := [{ lane := 0, addr := landingLoc t g off, named := 5 * 2 ^ 60 + off, data := (opndB (me t) f).toNat, cmp := 0 }] }) g)

/-- `binit`: expected := b, arrived := 0, phase := 0. -/
def execBinit (f : FmtE) (s : State) : Res := issueOn none false (sigBinitOf f) (landingBody f true) s
/-- `bxp`: expected rises by b. -/
def execBxp (f : FmtE) (s : State) : Res := issueOn none false (sigBxpOf f) (landingBody f false) s

/-- The landing at a location has the awaited phase, and no earlier write of the group to it is still to be performed. -/
def landingReady (s : State) (g loc bit : Nat) : Bool := landingPhase s loc == bit && rangeQuiet s g loc 16

/-- A landing's phase is read at its bank. -/
def readLanding (s : State) (g loc : Nat) : State := touchHome s (coreOf s g) (loc + 8) 4 false

/-- `bwait`: waits until the landing's phase is b[0]. -/
def execBwait (f : FmtE) (s : State) : Res :=
  issueOn none false (sigBwaitOf f) (fun t =>
    let g := t.cur
    let off := (opndA (me t) f).toNat
    let bit := (opndB (me t) f).toNat % 2
    if landingBad t g off then .next (takeTrap t g 8 0 (some (5 * 2 ^ 60 + off)))
    else if landingReady t g (landingLoc t g off) bit then
      .next (advance (readLanding t g (landingLoc t g off)) g)
    else .next (block (advance t g) g 2 (5 * 2 ^ 60 + off) bit)) s

/-- `BWAIT_RELEASE`: a `bwait` completes when its landing has the awaited phase. -/
def execBwaitRelease (g : Nat) (s : State) : Res :=
  let x := grp s g
  .next (if x.wait.code = 2 ∧ onCore s g ∧
      landingReady s g (landingLoc s g (x.wait.obj % 2 ^ 19)) x.wait.opnd then
    unblock (readLanding s g (landingLoc s g (x.wait.obj % 2 ^ 19))) g
  else s)

/-! ## Path waits (R55, R258) -/

/-- `waitp`: waits until a path counter is at or below a threshold. -/
def execWaitp (f : FmtE) (s : State) : Res :=
  issueOn none true (sigWaitpOf f) (fun t =>
    let g := t.cur
    let p := f.op.toNat % 8
    let n := (opndA (me t) f).toNat
    if counter (me t).counters p ≤ n then .next (advance t g) else .next (block (advance t g) g 5 p n)) s

/-- `PATH_WAIT_RELEASE`: a wait on a path counter completes when the counter is at or below its threshold. -/
def execPathWaitRelease (g : Nat) (s : State) : Res :=
  let x := grp s g
  .next (if x.wait.code = 5 ∧ onCore s g ∧ counter x.counters x.wait.obj ≤ x.wait.opnd then unblock s g else s)

end Sys2Proof.Machine
end

