-- ==== Sys2Proof/Machine/Tow.lean ====
section
/-!
DEFINITION. Tow commands: issue, the descriptor, and the rows of `tcopy`, `tfill`, `txform`, `tremote` and `tflush`
(spec/13_isa_tow.md, R259 to R272; R129, R404, R438, R464, R465, R487, R488, R504).

A command is a number of jobs, each with ranges to read and ranges to write, of at most 8 bytes. Each `TOW_COMMAND_START` or
`TXFORM_EXECUTION` performs one range, which the model's counter of open values picks, so that a command's accesses are unordered (R262).
-/
namespace Sys2Proof.Machine

/-- Bytes of a command's descriptor. -/
def towSize (oper : Nat) : Nat := if oper = 0x91 ∨ oper = 0x92 then 128 else 64

/-- Scope of the acquire of an engine instruction, if it has one. -/
def acqOf (f : FmtE) : Option Nat := if f.acq then some f.acqScope.toNat else none
/-- Scope of its release. -/
def relOf (f : FmtE) : Option Nat := if f.rel then some f.relScope.toNat else none

/-! ## The descriptor (R264, Tables 13-4 to 13-7, Table 25-4) -/

/-- Fields of a descriptor. -/
def tfield (c : Tow) (off n : Nat) : Nat := recField c.bytes off n
/-- A signed dword of a descriptor. -/
def tsigned (c : Tow) (off : Nat) : Int := signed 64 (tfield c off 8)
def tControl (c : Tow) : Nat := tfield c 0x10 4
def tRows (c : Tow) : Nat := tfield c 0x14 4
def tLength (c : Tow) : Nat := tfield c 0x18 4
def tMode (c : Tow) : Nat := tControl c % 4
def tFin (c : Tow) : Nat := bitField (tControl c) 16 4
def tFout (c : Tow) : Nat := bitField (tControl c) 20 4
def tSilt (c : Tow) : Bool := bitOf (tControl c) 11
def tDone (c : Tow) : Bool := bitOf (tControl c) 10
def tDevice (c : Tow) : Nat := bitField (tControl c) 2 6
/-- `txform`'s sources. -/
def tSources (c : Tow) : Nat := bitField (tControl c) 24 4 + 1

/-- An MX code of Table 4-5. -/
def isMx (k : Nat) : Bool := k == 5 || k == 6 || k == 7

/-- Bytes of a row of `n` elements of a code. -/
def rowBytes (k n : Nat) : Nat := (n * codeBits k + 7) / 8

/-- Elements of a `tremote` row are sent through the sluice. -/
def sluiceOn (c : Tow) : Bool := c.oper == 0x92 && tFout c != 0
/-- The MX code of a sluice mode. -/
def sluiceCode (c : Tow) : Nat := tFout c + 4
/-- Blocks of a sluiced row. -/
def sluiceBlocks (c : Tow) : Nat := (tLength c + 31) / 32
/-- Element bytes of one sluiced block. -/
def blockBytes (c : Tow) : Nat := 4 * codeBits (sluiceCode c)

/-- The count of Table 13-3. -/
def towCount (c : Tow) : Nat :=
  let n := tLength c
  tRows c *
    (if c.oper = 0x91 then rowBytes (tFout c) n + (if isMx (tFout c) then n / 32 else 0)
     else if sluiceOn c then n * (if tFin c = 0 then 4 else 2)
     else n)

/-- Whether the control word breaks Table 13-5 for its command. -/
def controlBad (c : Tow) : Bool :=
  let w := tControl c
  bitField w 28 4 != 0 || bitField w 8 2 != 0 ||
    (match c.oper with
      | 0x90 => bitField w 2 26 != 0 || tMode c == 1
      | 0x91 => bitField w 0 12 != 0 || decide (8 < tSources c) || decide (7 < tFout c) || !(decide (tFin c ≤ 0xA) || tFin c == 0xD) ||
          decide (4 < bitField w 13 3)
      | 0x92 => bitField w 24 4 != 0 || bitField w 12 4 != 0 || tMode c != 0 || decide (3 < tFout c) ||
          (if tFout c = 0 then tFin c != 0 || tSilt c else decide (1 < tFin c))
      | _ => w != 0)

/-- Every check of Table 25-4 that the descriptor alone decides, in the order of its fields: the offset and whether it fails.
DEDUCED: notes/assumptions/29.md. -/
def towChecks (c : Tow) : List (Nat × Bool) :=
  let isX : Bool := c.oper == 0x91
  let isR : Bool := c.oper == 0x92
  let isFill : Bool := c.oper == 0x94
  let isFlush : Bool := c.oper == 0x93
  let badSize (n : Nat) : Bool := n == 0 || decide (2 ^ 24 < n)
  [(0x08, isFlush && tfield c 0x08 8 != 0),
   (0x10, controlBad c),
   (0x14, badSize (tRows c) || decide (2 ^ 31 < towCount c)),
   (0x18, badSize (tLength c) || (isX && (isMx (tFin c) || isMx (tFout c)) && tLength c % 32 != 0)),
   (0x20, isFill && tfield c 0x20 8 != 0),
   (0x28, isFlush && tfield c 0x28 8 != 0),
   (0x30, !(c.oper == 0x90 && decide (2 ≤ tMode c)) && tfield c 0x30 8 != 0),
   (0x38, tfield c 0x38 8 != 0),
   (0x40, (isX && !isMx (tFin c) && tFin c != 8 && tfield c 0x40 8 != 0) || (isR && !sluiceOn c && tfield c 0x40 8 != 0)),
   (0x48, (isX && !isMx (tFout c) && tfield c 0x48 8 != 0) || (isR && !sluiceOn c && tfield c 0x48 8 != 0)),
   (0x50, isR && tfield c 0x50 8 % 8 != 0),
   (0x60, isR && tfield c 0x60 32 != 0),
   (0x68, isX && tfield c 0x68 24 != 0)]

/-! ## Issue (R259, R260, R438) -/

/-- Commands a core's tow queue holds. -/
def towQueueMax : Nat := 128
/-- Commands of a core that have a place in its queue and have not started.
DEDUCED: notes/assumptions/26.md. -/
def towQueued (s : State) (core : Nat) : Nat :=
  (s.tows.filter (fun c => c.oper != 0xFE && (c.phase == .reading || c.phase == .queued) && coreOf s c.g == core)).length

/-- The operation that reads a command's descriptor: an access of the group that follows its earlier accesses to those bytes (R129). -/
def descriptorOp (t : State) (c : Tow) (n size : Nat) : Op :=
  { g := c.g, kind := .descriptor n, issuedAt := t.clock, size, handler := handlerOf (grp t c.g),
    lanes := [{ lane := 0, addr := c.desc, named := c.named, data := 0, cmp := 0 }] }

/-- Place a command: its number is the length of the list before. -/
def addTow (t : State) (c : Tow) : State := { t with tows := t.tows ++ [c] }

/-- The descriptor of command `n` has been read, or cannot be (R260 steps 1 and 2): it is accepted, and then in the phase `next`; it is
rejected; or its data is bad. -/
def acceptTow (s : State) (n : Nat) (next : CommandPhase) : Except (Nat × BadData) (List Byte) → State
  | .error (a, b) => modTow (logAccErr s (some (towOf s n).g) a (.data b)) n (fun c => { c with status := 4, phase := .finishing })
  | .ok bs =>
    let s1 := modTow s n (fun c => { c with bytes := bs })
    match (towChecks (towOf s1 n)).find? (·.2) with
    | some (off, _) =>
      modTow (logGroup s1 (towOf s1 n).g 0x0918 1 off (some (towOf s1 n).named)) n (fun c => { c with status := 1, phase := .finishing })
    | none => modTow s1 n (fun c => { c with phase := next })

/-- Read the bytes of a descriptor, whole. -/
def readWhole (s : State) (c : Tow) (size : Nat) : State × Except (Nat × BadData) (List Byte) :=
  let r := readAll s ((pieces c.desc size).map (fun p => { named := c.named + (p.1 - c.desc), loc := p.1, len := p.2, pound := false }))
  (touchHome r.1 (coreOf s c.g) c.desc size false, r.2)

/-- The effect of a tow instruction (R260): the descriptor is read and checked, and the command takes its place in the queue; where there is
none the group waits for it. A read behind earlier accesses of the group to those bytes is held with the command in its place (R504). -/
def towBody (oper : Nat) (f : FmtE) (t : State) : Res :=
  let g := t.cur
  let off := (sreg (me t) f.a.toNat).toNat
  let land := (sreg (me t) f.b.toNat).toNat
  let c : Tow := { oper, g, desc := locTeam (coreOf t g) ((teamOf t g).allocBase + off), named := 5 * 2 ^ 60 + off,
                   landing := landingLoc t g land, acq := acqOf f, rel := relOf f, before := t.ops.length }
  let n := t.tows.length
  let o := descriptorOp t c n (towSize oper)
  let full : Bool := decide (towQueueMax ≤ towQueued t (coreOf t g))
  if off % 64 ≠ 0 ∨ (teamOf t g).allocSize < off + towSize oper then .next (takeTrap t g 8 0 (some (5 * 2 ^ 60 + off)))
  else if landingBad t g land then .next (takeTrap t g 8 0 (some (5 * 2 ^ 60 + land)))
  else if clearBefore t t.ops.length o (laneReq o 0) && unlocked t noOp c.desc o.size then
    let r := readWhole t c o.size
    let t1 := acceptTow (addTow r.1 c) n (if full then .waiting else .queued) r.2
    .next (if (towOf t1 n).phase = .waiting then block t1 g 11 (5 * 2 ^ 60 + off) oper else advance t1 g)
  else if full then .next (block t g 11 (5 * 2 ^ 60 + off) oper)
  else .next (advance (addOp (addTow t c) o) g)

/-- `tcopy`: copies. -/
def execTcopy (f : FmtE) (s : State) : Res := issueOn none false (sigTcopyOf f) (towBody 0x90 f) s
/-- `txform`: sums, scales and converts on a quay die. -/
def execTxform (f : FmtE) (s : State) : Res := issueOn none false (sigTxformOf f) (towBody 0x91 f) s
/-- `tremote`: sends to another device, through a sluice. -/
def execTremote (f : FmtE) (s : State) : Res := issueOn none false (sigTremoteOf f) (towBody 0x92 f) s
/-- `tflush`: writes back a range. -/
def execTflush (f : FmtE) (s : State) : Res := issueOn none false (sigTflushOf f) (towBody 0x93 f) s
/-- `tfill`: writes a pattern. -/
def execTfill (f : FmtE) (s : State) : Res := issueOn none false (sigTfillOf f) (towBody 0x94 f) s

/-- The body of a blocked tow instruction. -/
def towInstr : Instr → Option (State → Res)
  | .tcopy f => some (towBody 0x90 f)
  | .txform f => some (towBody 0x91 f)
  | .tremote f => some (towBody 0x92 f)
  | .tflush f => some (towBody 0x93 f)
  | .tfill f => some (towBody 0x94 f)
  | _ => none

/-- The command with which a group waits for a place in its core's queue. -/
def waitingTow (s : State) (g : Nat) : Option Nat := s.tows.findIdx? (fun c => c.g == g && c.phase == .waiting)

/-- `TOW_QUEUE_SLOT`: a tow instruction that waits for a place is placed when one is free. -/
def execTowQueueSlot (g : Nat) (s : State) : Res :=
  if (grp s g).wait.code ≠ 11 ∨ !onCore s g ∨ towQueueMax ≤ towQueued s (coreOf s g) then .next s
  else match waitingTow s g with
    | some n => .next (advance (unblock (modTow s n (fun c => { c with phase := .queued })) g) g)
    | none => match (instrAt s g).bind towInstr with
      | some body => asGroup g body (unblock s g)
      | none => .next (unblock s g)

/-! ## Addresses (R264, R464) -/

/-- Whose addresses a command names: `tremote` takes selectors 0x0 and 0x4 only for its local ones (R263, R269). -/
def towSpace (s : State) (c : Tow) : Space :=
  let i := gridOf s c.g
  { ctx := i.ctx, privileged := i.privileged, team := (grp s c.g).team, sel5 := c.oper != 0x92, sel8 := c.oper != 0x92 }

/-- Address of row `r` of an array. -/
def rowAt (base : Nat) (stride : Int) (r : Nat) : Int := (base : Int) + (r : Int) * stride

/-- The `n` bytes from an exact address lie in the space of their base (R89, R264). -/
def rangeOk (s : State) (sp : Space) (base : Nat) (a : Int) (n : Nat) : Bool :=
  decide (0 ≤ a) && decide (a < 2 ^ 64) && a.toNat / 2 ^ 60 == base / 2 ^ 60 &&
    (if base / 2 ^ 60 = 0 then decide (a.toNat % 2 ^ 60 + n ≤ 2 ^ 57) && sp.sel0 else
      match locate s sp a.toNat n {} with
      | .error .form => false
      | .error .hole => false
      | _ => true)

/-- The location of one byte of a command, if its address leads to one. -/
def byteLoc (s : State) (c : Tow) (a : Nat) : Option Nat := match locate s (towSpace s c) a 1 {} with
  | .ok (l, _) => some l
  | .error _ => none

/-- A remote address: selector 0x0 on the target (R269). -/
def remoteOk (a : Int) (n : Nat) : Bool := decide (0 ≤ a) && decide (a + n ≤ 2 ^ 57)

/-- An array a command names: base, address of each row, bytes of each, and whether it lies on the target device. -/
structure Span where
  base : Nat
  addr : Int
  len : Nat
  remote : Bool := false
deriving Repr

/-- The spans of row `r`, but for those that an index gives. -/
def spansOf (c : Tow) (r : Nat) : List Span :=
  let src := tfield c 0x00 8
  let dst := tfield c 0x08 8
  let n := tLength c
  let from_ (len : Nat) : Span := { base := src, addr := rowAt src (tsigned c 0x20) r, len }
  let to_ (len : Nat) : Span := { base := dst, addr := rowAt dst (tsigned c 0x28) r, len }
  match c.oper with
  | 0x90 => (if tMode c = 0 then [] else [{ base := tfield c 0x30 8, addr := rowAt (tfield c 0x30 8) 4 r, len := 4 }]) ++
      (if tMode c = 2 then [] else [from_ n]) ++ (if tMode c = 3 then [] else [to_ n])
  | 0x91 =>
    (List.range (tSources c)).flatMap (fun (j : Nat) =>
      ({ base := src, addr := rowAt src (tsigned c 0x20) r + (j : Int) * tsigned c 0x58, len := rowBytes (tFin c) n } : Span) ::
        (if isMx (tFin c) then [{ base := tfield c 0x40 8,
                                  addr := rowAt (tfield c 0x40 8) (n / 32 : Nat) r + (j : Int) * tsigned c 0x60, len := n / 32 }] else [])) ++
    (if tFin c = 8 then [{ base := tfield c 0x40 8, addr := tfield c 0x40 8, len := 32 }] else []) ++ [to_ (rowBytes (tFout c) n)] ++
    (if isMx (tFout c) then [{ base := tfield c 0x48 8, addr := rowAt (tfield c 0x48 8) (n / 32 : Nat) r, len := n / 32 }] else [])
  | 0x92 =>
    if sluiceOn c then
      [from_ (n * (if tFin c = 0 then 4 else 2)), { to_ (sluiceBlocks c * blockBytes c) with remote := true },
       { base := tfield c 0x48 8, addr := rowAt (tfield c 0x48 8) (sluiceBlocks c : Nat) r, len := sluiceBlocks c, remote := true }] ++
      (if tSilt c then [{ base := tfield c 0x40 8, addr := rowAt (tfield c 0x40 8) (tsigned c 0x58) r, len := 4 * n }] else []) ++
      (if tDone c then [{ base := tfield c 0x50 8, addr := tfield c 0x50 8, len := 8, remote := true }] else [])
    else
      [from_ n, { to_ n with remote := true }] ++
      (if tDone c then [{ base := tfield c 0x50 8, addr := tfield c 0x50 8, len := 8, remote := true }] else [])
  | 0x93 => [from_ n]
  | _ => [to_ n]

/-- Whether a span's form and range are accepted. -/
def spanOk (s : State) (c : Tow) (p : Span) : Bool :=
  if p.remote then remoteOk p.addr p.len else rangeOk s (towSpace s c) p.base p.addr p.len

/-- The first span of a command that R464 refuses before its first access. -/
def badSpan (s : State) (c : Tow) : Option Span :=
  ((List.range (tRows c)).findSome? (fun r => (spansOf c r).find? (fun p => !spanOk s c p)))

/-! ## Ends and errors -/

/-- A command fails at an address: status and log (R464, Table 26-1). -/
def failTow (s : State) (n named : Nat) (e : AccErr) (log : Bool) : State :=
  let s1 := if log then logAccErr s (some (towOf s n).g) named e else s
  stopTow s1 n e.status
/-- A descriptor field is rejected (R438). -/
def rejectTow (s : State) (n off : Nat) : State :=
  stopTow (logGroup s (towOf s n).g 0x0918 1 off (some (towOf s n).named)) n 1

/-- What an address of a command comes to. -/
inductive Reach (α : Type) where
  | ok (s : State) (a : α)
  /-- the command stops or waits in this state -/
  | stop (s : State)
deriving Repr

/-- Locate a range for a command; a translation fault is held or ends the command (R263, R404). -/
def reachTow (s : State) (n : Nat) (need : Need) (a : Int) (len : Nat) : Reach (List Piece) :=
  let c := towOf s n
  match locateAll (towSpace s c) need (pieces a.toNat len) s with
  | (s0, .ok ps) => .ok s0 ps
  | (s0, .error (at_, e)) =>
    let was := s.held.any (fun h => h.who == .tow n)
    match tryXlat s0 (.tow n) (some c.g) at_ (.error e : Except AccErr Unit) with
    | .ok _ => .stop s0
    | .wait s1 => .stop s1
    | .fail s1 e1 => .stop (failTow s1 n at_ e1 (!was))

/-- The accesses of command `n` to pieces are performed at their homes (R131). -/
def touchTow (s : State) (n : Nat) (ps : List Piece) (write : Bool) : State :=
  ps.foldl (fun s p => touchHome s (coreOf s (towOf s n).g) p.loc p.len write) s

/-- Read pieces for a command, and go on with their bytes. -/
def readTow (s : State) (n : Nat) (ps : List Piece) (k : State → List Byte → State) : State :=
  match readAll s ps with
  | (s1, .error (a, b)) => failTow s1 n a (.data b) true
  | (s1, .ok bs) => k (touchTow s1 n ps false) bs
/-- Write pieces for a command, and go on. -/
def writeTow (s : State) (n : Nat) (ps : List Piece) (bs : List Byte) (k : State → State) : State :=
  match writeAll s ps bs with
  | (s1, some (a, b)) => failTow s1 n a (.data b) true
  | (s1, none) => k (touchTow s1 n ps true)

/-- The row is performed: the next one follows, or none is left. -/
def nextRow (s : State) (n : Nat) : State :=
  modTow s n (fun c => { c with row := c.row + 1, phase := if c.phase = .running ∧ tRows c ≤ c.row + 1 then .finishing else c.phase })

/-! ## `tflush` (R272) -/

/-- Write back the pound sector that holds an LPDDR6 address, if it is dirty, and mark it clean (R110, R463): its LPDDR6 units are written
whole. -/
def flushSector (s : State) (a : Nat) : State × Option BadData :=
  let (k, i, t) := poundPlace s.poundSize a
  let key := 2 ^ 24 * k + i
  let (s, tagBad) := checkUnit s (tagUnit key)
  let r := mapGet 0 s.tags key
  let data := poundData s.poundSize k i
  let sector := a / 2048 * 2048
  let lost (code at_ : Nat) : BadData := { code, kind := 4, unit := k, detail := i, addr := badAddr at_ }
  if !tagOk r ∨ tagBad.isSome then (s, some (lost 0x090A a))
  else if tagState r ≠ 3 ∨ r % 256 ≠ t then (s, none)
  else match checkUnits s (unitsUnder data 2048) with
    | (s1, some b) => (s1, some (lost 0x090C (sector + (b.addr - badAddr data))))
    | (s1, none) =>
      let s2 := (unitsUnder sector 2048).foldl (fun s u => setBad s u .sound) s1
      ({ s2 with tags := mapSet 0 key (tagRecord 1 t) s2.tags }, none)

/-- Flush the sectors of a list of pieces; a sector that cannot be written back sets status 0x04, and the walk goes on (R465). -/
def flushPieces (n : Nat) : List Piece → State → State
  | [], s => s
  | p :: t, s => match if 0 < s.poundSize then regionOf s.poundSize p.loc else .hole with
    | .lpddr _ => match flushSector s p.loc with
      | (s1, some b) =>
        let s2 := logAccErr s1 (some (towOf s1 n).g) p.named (.data b)
        flushPieces n t (modTow s2 n (fun c => { c with status := if c.status = 0 then 4 else c.status }))
      | (s1, none) => flushPieces n t s1
    | _ => flushPieces n t s

/-- An operation has no access to one of the pieces still to come, nor one that may still turn out to be: of an `mcas` whose block has not
been read, or of a lane whose translation is held. -/
def quietFor (x : Op) (ps : List Piece) : Bool :=
  x.finished || (!(x.kind == .mcas && x.stage == 0) && (waitingLanes x).all (fun r =>
    !heldLane r && ps.all (fun p => decide (p.loc + p.len ≤ r.addr) || decide (r.addr + x.size ≤ p.loc))))
/-- Every access the group issued before the command to one of the pieces has been performed, and every `redb` entry of it drained. -/
def piecesQuiet (s : State) (c : Tow) (ps : List Piece) : Bool :=
  (List.range c.before).all (fun o => (op s o).g != c.g || quietFor (op s o) ps)

/-- A row of `tflush`: earlier writes of the group to it come first; a page needs a valid leaf only (R272). -/
def tflushRow (s : State) (n : Nat) : State :=
  let c := towOf s n
  match reachTow s n {} (rowAt (tfield c 0 8) (tsigned c 0x20) c.row) (tLength c) with
  | .stop t => t
  | .ok s1 ps => if !piecesQuiet s c ps then s1 else nextRow (flushPieces n ps s1) n

/-! ## The arithmetic of `txform` (R267, R268) -/

/-- The stack whose executor runs a `txform`: the one source 0's first byte lies in, or local stack 0. -/
def executorOf (s : State) (c : Tow) (first : Nat) : Nat :=
  match if isScratch first then .host else regionOf s.poundSize first with
  | .stack k => k
  | .lpddr _ => (poundPlace s.poundSize first).1
  | _ => 6 * dieOfCore (coreOf s c.g)

/-- A piece in memory lies in no arena of the command's context on the executor's die (R115, R466).
DEDUCED: notes/assumptions/28.md. -/
def outOfArena (s : State) (c : Tow) (k : Nat) (write : Bool) (p : Piece) : Bool :=
  !isScratch p.loc && !arenaOk s k (gridOf s c.g).ctx p.loc p.len (!write) write

/-- The elements of a row, decoded (R72, R74): `bl` elements to a scale; `codebook` holds 16 bf16 entries. -/
def decodeRow (fin n bl : Nat) (bs scales codebook : List Byte) : List (FVal × Nat) :=
  let x := bytesLE bs
  (List.range n).map (fun i =>
    let e := bitField x (codeBits fin * i) (codeBits fin)
    if isMx fin then mxDecode (fmtOfCode fin) e (scales.getD (i / bl) 0).toNat
    else if fin = 8 then (fdecode bf16 (recField codebook (2 * e) 2), 0)
    else if fin = 9 ∨ fin = 0xA ∨ fin = 0xB ∨ fin = 0xC ∨ fin = 0xD then (fofInt (codeInt fin e), 0)
    else (fdecode (fmtOfCode fin) e, 0))

/-- The exact sum of one element of every source, with its flags; NaN where one is NaN or where +∞ and −∞ are both among them. Such a sum
is an invalid event whatever else it holds, in any order.
DESIGN CHOICE: notes/assumptions/132.md. -/
def sumTerms (mode : RMode) (es : List (FVal × Nat)) : FVal × Nat :=
  let r : FVal × Nat := match es with
    | [] => (.fin false 0 0, 0)
    | e :: t => t.foldl (fun a e => ((fadd mode a.1 e.1).1, a.2 ||| e.2)) e
  (r.1, r.2 ||| (if es.any (fun e => e.1 == .inf false) && es.any (fun e => e.1 == .inf true) then flagInvalid else 0))

/-- The blocks of 32 of a row, MX-encoded: scales, codes and flags (R73). -/
def encodeRow (k : Nat) : Nat → List FVal → List Nat × List Nat × Nat
  | 0, _ => ([], [], 0)
  | b + 1, vs =>
    let (x, codes, fl) := mxEncode (fmtOfCode k) (vs.take 32)
    let (xs, cs, fl1) := encodeRow k b (vs.drop 32)
    (x :: xs, codes ++ cs, fl ||| fl1)

/-- Elements after s · v + β: destination bytes, scale bytes and flags (R268); `rows` holds the decoded elements of each source. -/
def xformOut (c : Tow) (rows : List (List (FVal × Nat))) : List Byte × List Byte × Nat :=
  let mode := rmodeOf (bitField (tControl c) 13 3)
  let s := fdecode f32 (tfield c 0x50 4)
  let beta := fdecode f32 (tfield c 0x54 4)
  let m := (rows.headD []).length
  let sums := (List.range m).map (fun i => sumTerms mode (rows.map (fun r => r.getD i (.nan, 0))))
  let es := sums.map (fun v => let r := ffma mode s v.1 beta; (r.1, v.2 ||| r.2))
  let fl := es.foldl (fun a e => a ||| e.2) 0
  let k := tFout c
  if isMx k then
    let (xs, codes, fl1) := encodeRow k (m / 32) (es.map (·.1))
    (packBytes (codeBits k) codes, packBytes 8 xs, fl ||| fl1)
  else
    let outs := es.map (fun e => toFloat k mode false (bitOf (tControl c) 12) e.1)
    (packBytes (codeBits k) (outs.map (·.1)), [], outs.foldl (fun a o => a ||| o.2) fl)

/-! ## The sluice (R270, R487) -/

/-- One block of the sluice (R270): the sums u, the scale, the codes, the new silt words and the flags. `vs` and `silts` hold the real
elements and their silt. -/
def sluiceBlock (k : Nat) (vs silts : List FVal) : Nat × List Nat × List Nat × Nat :=
  let sums := (List.range vs.length).map (fun i =>
    fdeliver f32 .rne false (fadd .rne (vs.getD i .nan) (silts.getD i (.fin false 0 0))).1)
  let us := sums.map (fun p => fdecode f32 p.1)
  let (x, codes, fl) := mxEncode (fmtOfCode k) (us ++ List.replicate (32 - vs.length) (.fin false 0 0))
  let news := (List.range vs.length).map (fun i =>
    if x = 255 then (0, 0)
    else
      let q := (mxDecode (fmtOfCode k) (codes.getD i 0) x).1
      fdeliver f32 .rne false (fadd .rne (us.getD i .nan) (fneg q)).1)
  (x, codes, news.map (·.1), (sums ++ news).foldl (fun a p => a ||| p.2) fl)

/-- Write bytes on the target device: through local homes when it is this module (R269), else through its port. The silt words given
are written once it has been performed. -/
def remoteWrite (s : State) (n addr : Nat) (bs : List Byte) (silt : List (Nat × List Byte)) (mate : Option Nat) : State :=
  let c := towOf s n
  let d := tDevice c
  if bs = [] then s
  else if d = s.deviceId then
    let (s1, status, _) := if sourceEnabled s d then inboundWrite s d (pieces addr bs.length) bs else (refuseSource s d addr, 5, 0)
    endRemote s1 { tow := n, port := 0xFF, tag := 0, addr, len := bs.length, silt := silt } status
  else if !routeUp s d then endRemote s { tow := n, port := routeOf s d, tag := 0, addr, len := bs.length } 5
  else sendRemote s n d 1 addr bs silt mate

/-! ## Jobs (R262, R264 to R271) -/

/-- What a job reads and then writes: ranges of at most 8 bytes. -/
structure Job where
  reads : List (Int × Nat)
  writes : List (Int × Nat)
deriving DecidableEq, Repr

/-- Blocks of 32 elements of a row. -/
def rowBlocks (c : Tow) : Nat := (tLength c + 31) / 32
/-- Elements of block `b`. -/
def blockElems (c : Tow) (b : Nat) : Nat := min 32 (tLength c - 32 * b)
/-- Job numbers that a row takes: one for each byte at which a job could start, or each block of a `txform`; a row of a `tremote` is one. -/
def jobsOfRow (c : Tow) : Nat := match c.oper with
  | 0x91 => rowBlocks c
  | 0x92 => 1
  | _ => tLength c

/-- The number that row `r` has in the array of an index: the index read of it, if it takes one and that has been read. -/
def rowIndex (c : Tow) (r : Nat) : Option Nat :=
  if c.oper ≠ 0x90 ∨ tMode c = 0 then some r else (c.indexes.find? (fun p => p.1 == r)).map (·.2)
/-- Source and destination of row `r` of a `tcopy` whose index is `i` (R265). -/
def copyAddrs (c : Tow) (r i : Nat) : Int × Int :=
  (rowAt (tfield c 0x00 8) (tsigned c 0x20) (if tMode c = 2 then i else r),
   rowAt (tfield c 0x08 8) (tsigned c 0x28) (if tMode c = 3 then i else r))

/-- The length of the unit that starts `off` bytes into a range of `n` bytes, if one starts there: units end at multiples of 8, where both
addresses of it are aligned alike; otherwise every byte is one (R262). -/
def unitLen (a b : Int) (off n : Nat) : Option Nat :=
  if n ≤ off then none
  else if (a - b) % 8 ≠ 0 then some 1
  else if off = 0 ∨ (a + off) % 8 = 0 then some (min (n - off) (8 - ((a + off) % 8).toNat))
  else none

/-- The ranges of a block of a `txform` row: the elements of each source, with its scale, and the codebook (R268). -/
def xformReads (c : Tow) (r b : Nat) : List (Int × Nat) :=
  let fin := tFin c
  (List.range (tSources c)).flatMap (fun (j : Nat) =>
    (rowAt (tfield c 0x00 8) (tsigned c 0x20) r + (j : Int) * tsigned c 0x58 + (4 * codeBits fin * b : Nat), rowBytes fin (blockElems c b)) ::
      (if isMx fin then [(rowAt (tfield c 0x40 8) (tLength c / 32 : Nat) r + (j : Int) * tsigned c 0x60 + (b : Int), 1)] else [])) ++
  (if fin = 8 then [((tfield c 0x40 8 : Int), 32)] else [])
/-- The ranges that such a block writes: its elements, and its scale. -/
def xformWrites (c : Tow) (r b : Nat) : List (Int × Nat) :=
  let k := tFout c
  (rowAt (tfield c 0x08 8) (tsigned c 0x28) r + (4 * codeBits k * b : Nat), rowBytes k (blockElems c b)) ::
    (if isMx k then [(rowAt (tfield c 0x48 8) (tLength c / 32 : Nat) r + (b : Int), 1)] else [])
/-- The ranges of block `b` of a sluiced row of a `tremote`: source elements, and silt words. -/
def sluiceReads (c : Tow) (r b : Nat) : List (Int × Nat) :=
  let w := if tFin c = 0 then 4 else 2
  (rowAt (tfield c 0x00 8) (tsigned c 0x20) r + (32 * b * w : Nat), blockElems c b * w) ::
    (if tSilt c then [(rowAt (tfield c 0x40 8) (tsigned c 0x58) r + (128 * b : Nat), 4 * blockElems c b)] else [])

/-- Ranges cut into units. -/
def cutUnits (l : List (Int × Nat)) : List (Int × Nat) := l.flatMap (fun p => unitsAt p.1 p.2)

/-- Job number `j` of a command, if there is one of that number; of a gather or scatter, once the index of its row has been read. -/
def jobAt (c : Tow) (j : Nat) : Option Job :=
  let k := jobsOfRow c
  let r := j / k
  let off := j % k
  match c.oper with
  | 0x90 => (rowIndex c r).bind (fun i =>
      let p := copyAddrs c r i
      (unitLen p.1 p.2 off k).map (fun n => { reads := [(p.1 + off, n)], writes := [(p.2 + off, n)] }))
  | 0x94 =>
    let b := rowAt (tfield c 0x08 8) (tsigned c 0x28) r
    (unitLen b b off k).map (fun n => { reads := [], writes := [(b + off, n)] })
  | 0x91 => some { reads := cutUnits (xformReads c r off), writes := cutUnits (xformWrites c r off) }
  | _ =>
    some { reads := if sluiceOn c then (List.range (rowBlocks c)).flatMap (fun b => cutUnits (sluiceReads c r b))
                    else unitsAt (rowAt (tfield c 0x00 8) (tsigned c 0x20) r) (tLength c),
           writes := [] }

/-- Cut a list of bytes into parts of given lengths. -/
def cutBytes : List Nat → List Byte → List (List Byte)
  | [], _ => []
  | n :: t, bs => bs.take n :: cutBytes t (bs.drop n)

/-- The decoded elements of each source of a block, from the bytes of its ranges. -/
def xformIn (c : Tow) (m : Nat) (parts : List (List Byte)) : List (List (FVal × Nat)) :=
  let fin := tFin c
  (List.range (tSources c)).map (fun j =>
    if isMx fin then decodeRow fin m 32 (parts.getD (2 * j) []) (parts.getD (2 * j + 1) []) []
    else decodeRow fin m 32 (parts.getD j []) [] (parts.getD (tSources c) []))

/-- What job `j` writes, its ranges joined in order, from what it has read, joined in order; with its flags. -/
def jobOut (c : Tow) (j : Nat) (bs : List Byte) : List Byte × Nat :=
  let k := jobsOfRow c
  match c.oper with
  | 0x90 => (bs, 0)
  | 0x94 => ((List.range 8).map (fun q => BitVec.ofNat 8 (bitField (tfield c 0 8) (8 * ((j % k + q) % 8)) 8)), 0)
  | _ =>
    let y := xformOut c (xformIn c (blockElems c (j % k)) (cutBytes ((xformReads c (j / k) (j % k)).map (·.2)) bs))
    (y.1 ++ y.2.1, y.2.2)

/-- The bytes job `j` has read, in order. -/
def jobBytes (c : Tow) (j : Nat) (job : Job) : List Byte :=
  (List.range job.reads.length).flatMap (fun k => ((c.brought.find? (fun p => p.1 == (j, k))).map (·.2)).getD [])
/-- What range `k` of job `j` is to hold. -/
def writeBytesOf (c : Tow) (j k : Nat) (job : Job) : List Byte :=
  (((jobOut c j (jobBytes c j job)).1.drop ((job.writes.take k).map (·.2)).sum)).take (job.writes.getD k (0, 0)).2

/-- One access of a command. -/
inductive TowAccess where
  /-- the index of a row -/
  | index (row : Nat)
  /-- range `k` that job `j` reads -/
  | read (j k : Nat) (a : Int) (len : Nat)
  /-- range `k` that it writes -/
  | write (j k : Nat) (a : Int) (len : Nat)
  /-- a row of a `tremote`, which has been read -/
  | send (row : Nat)
deriving DecidableEq, Repr

/-- A range that a job writes touches a byte of range `p`. -/
def rangesMeet (s : State) (c : Tow) (p q : Int × Nat) : Bool :=
  match byteLoc s c p.1.toNat, byteLoc s c q.1.toNat with
  | some a, some b => decide (a < b + q.2) && decide (b < a + p.2)
  | _, _ => false
/-- Every lower job that writes a byte of a range has written it (R262). -/
def lastToWrite (s : State) (c : Tow) (j : Nat) (p : Int × Nat) : Bool :=
  (List.range j).all (fun i => c.finished.contains i || (match jobAt c i with
    | some job => (List.range job.writes.length).all (fun k => c.wrote.contains (i, k) || !rangesMeet s c p (job.writes.getD k (0, 0)))
    | none => !(tMode c == 3 && c.oper == 0x90 && (rowIndex c (i / jobsOfRow c)).isNone)))

/-- The unit of storage at `u`, or its copy in the pound, cannot be read. -/
def unreadable (s : State) (u : Nat) : Bool :=
  let (k, i, _) := poundPlace s.poundSize u
  badAt s u == .lasting || (match if 0 < s.poundSize then regionOf s.poundSize u else .hole with
    | .lpddr _ => badAt s (poundData s.poundSize k i + u % 2048) == .lasting
    | _ => false)
/-- The ranges a command writes that touch `n` bytes at location `u`: job and number of each, and the range. -/
def rangesAt (s : State) (c : Tow) (u n : Nat) : List (Nat × Nat × Int × Nat) :=
  (List.range (tRows c * jobsOfRow c)).flatMap (fun j => match jobAt c j with
    | some job => ((List.range job.writes.length).map (fun k => (j, k, job.writes.getD k (0, 0)))).filter (fun p =>
        match byteLoc s c p.2.2.1.toNat with
        | some a => decide (a < u + n) && decide (u < a + p.2.2.2)
        | none => false)
    | none => [])
/-- A command writes every byte of the unit at `u`, and has written none of it. -/
def coversUnit (s : State) (c : Tow) (u : Nat) : Bool :=
  (List.range (unitBytes u)).all (fun i => !(rangesAt s c (u + i) 1).isEmpty) &&
    (rangesAt s c u (unitBytes u)).all (fun p => !c.wrote.contains (p.1, p.2.1) && !c.finished.contains p.1)
/-- An unreadable unit of which a range is only a part. -/
def partOfLost (s : State) (c : Tow) (p : Int × Nat) : Option Nat :=
  if s.bad.isEmpty then none
  else (byteLoc s c p.1.toNat).bind (fun a =>
    (unitsUnder a p.2).find? (fun u => unreadable s u && !(decide (a ≤ u) && decide (u + unitBytes u ≤ a + p.2))))
/-- Job `j` has read all it reads. -/
def jobRead (c : Tow) (j : Nat) : Bool := match jobAt c j with
  | some job => (List.range job.reads.length).all (fun k => c.brought.any (fun p => p.1 == (j, k)))
  | none => false
/-- A range is not part of an unreadable unit that the command is still to read the bytes of: such a unit is replaced whole, in one
access, and so cured (R405, R461, R463). DEDUCED: notes/assumptions/140.md. -/
def unitReady (s : State) (c : Tow) (p : Int × Nat) : Bool := match partOfLost s c p with
  | none => true
  | some u => (List.range (tRows c)).all (fun r => (rowIndex c r).isSome) &&
      (!coversUnit s c u || (rangesAt s c u (unitBytes u)).all (fun q => jobRead c q.1))

/-- The element of a list that a number picks. -/
def pickOf {α : Type} (f : Nat) (l : List α) : Option α := l[f % l.length]?

/-- An access of job `j` that can come next. A `tremote` reads its rows in order, and the blocks of a row in order (R488). -/
def jobAccess (s : State) (c : Tow) (f j : Nat) : Option TowAccess :=
  let r := j / jobsOfRow c
  if c.finished.contains j then none
  else if (rowIndex c r).isNone then (if j % jobsOfRow c = 0 then some (.index r) else none)
  else (jobAt c j).bind (fun job =>
    let toRead := (List.range job.reads.length).filter (fun k => !c.brought.any (fun p => p.1 == (j, k)))
    let toWrite := (List.range job.writes.length).filter (fun k =>
      !c.wrote.contains (j, k) && lastToWrite s c j (job.writes.getD k (0, 0)) && unitReady s c (job.writes.getD k (0, 0)))
    let reading (k : Nat) : TowAccess := .read j k (job.reads.getD k (0, 0)).1 (job.reads.getD k (0, 0)).2
    if c.oper = 0x92 then (if r = c.row then some ((toRead.head?.map reading).getD (.send r)) else none)
    else match pickOf f toRead with
      | some k => some (reading k)
      | none => (pickOf f toWrite).map (fun k => .write j k (job.writes.getD k (0, 0)).1 (job.writes.getD k (0, 0)).2))

/-- The next access of a command, which `f` picks; none when every job is done. -/
def towNext (s : State) (c : Tow) (f : Nat) : Option TowAccess :=
  let total := tRows c * jobsOfRow c
  (List.range total).findSome? (fun i => jobAccess s c f ((f + i) % total))

/-- Job `j` of a command is done. -/
def endJob (j fl : Nat) (c : Tow) : Tow :=
  { c with finished := c.finished ++ [j], brought := c.brought.filter (fun p => p.1.1 != j), wrote := c.wrote.filter (fun p => p.1 != j),
           flags := c.flags ||| fl }

/-- A range of a job has been written; with the last the job is done. -/
def noteWrite (j k : Nat) (job : Job) (c : Tow) : Tow :=
  let c1 : Tow := { c with wrote := c.wrote ++ [(j, k)] }
  if (List.range job.writes.length).all (fun i => c1.wrote.contains (j, i)) then endJob j (jobOut c j (jobBytes c j job)).2 c1 else c1

/-- Send blocks of row `r` of a sluiced `tremote`, the first `nb` of it; its silt is written when they have been performed (R464). -/
def sendBlocks (s : State) (n r nb : Nat) (job : Job) : State :=
  let c := towOf s n
  let parts := cutBytes ((List.range (rowBlocks c)).flatMap (fun b => (sluiceReads c r b).map (·.2))) (jobBytes c r job)
  let per := if tSilt c then 2 else 1
  let ys := (List.range nb).map (fun b =>
    let w := if tFin c = 0 then 4 else 2
    let m := blockElems c b
    sluiceBlock (sluiceCode c) ((unpack (8 * w) m (bytesLE (parts.getD (per * b) []))).map (fdecode (fmtOfCode (tFin c))))
      (if tSilt c then (unpack 32 m (bytesLE (parts.getD (2 * b + 1) []))).map (fdecode f32) else []))
  let dst := (rowAt (tfield c 0x08 8) (tsigned c 0x28) r).toNat
  let scales := (rowAt (tfield c 0x48 8) (rowBlocks c : Nat) r).toNat
  let places := (cutUnits ((List.range nb).flatMap (fun b => (sluiceReads c r b).drop 1))).map (fun p => ((byteLoc s c p.1.toNat).getD 0, p.2))
  let words := packBytes 32 (ys.flatMap (fun y => y.2.2.1))
  let silt := if tSilt c then (places.map (·.1)).zip (cutBytes (places.map (·.2)) words) else []
  let s1 := modTow s n (fun c => { c with flags := ys.foldl (fun a y => a ||| y.2.2.2) c.flags })
  let s2 := remoteWrite s1 n dst (packBytes (codeBits (sluiceCode c)) (ys.flatMap (fun y => y.2.1))) [] none
  if tDevice c = s.deviceId ∧ (towOf s2 n).status ≠ (towOf s1 n).status then s2
  else remoteWrite s2 n scales (packBytes 8 (ys.map (·.1))) silt (if tDevice c = s.deviceId then none else some s1.fabric.remotes.length)

/-- A command for another device finds no port: a link failure (R484). -/
def noRoute (s : State) (n : Nat) : State :=
  let c := towOf s n
  stopTow (logGroup s c.g 0x0A04 1 (routeOf s (tDevice c)) (some (tfield c 0x08 8))) n 5
/-- The device of a command can be reached. -/
def reachable (s : State) (c : Tow) : Bool := tDevice c == s.deviceId || routeUp s (tDevice c)

/-- Send a row that has been read (R269 to R271). It waits for the tags of its commands, and its silt must be writable. -/
def sendRow (s : State) (n r : Nat) : State :=
  let c := towOf s n
  let job := (jobAt c r).getD { reads := [], writes := [] }
  let ended (s : State) : State := nextRow (modTow s n (endJob r 0)) n
  if !reachable s c then noRoute s n
  else if tDevice c ≠ s.deviceId ∧ !tagsLeft s (routeOf s (tDevice c)) then s
  else if !sluiceOn c then
    ended (remoteWrite s n (rowAt (tfield c 0x08 8) (tsigned c 0x28) r).toNat (jobBytes c r job) [] none)
  else match if tSilt c then reachTow s n { read := true, write := true } (rowAt (tfield c 0x40 8) (tsigned c 0x58) r) (4 * tLength c)
      else .ok s [] with
    | .stop t => t
    | .ok s1 _ => ended (sendBlocks s1 n r (rowBlocks c) job)

/-- Blocks of a row all of whose ranges stand before range `k` of it. -/
def blocksBefore (c : Tow) (r k : Nat) : Nat :=
  ((List.range (rowBlocks c)).takeWhile (fun b =>
    decide (((List.range (b + 1)).flatMap (fun i => cutUnits (sluiceReads c r i))).length ≤ k))).length

/-- The arena check of a `txform`'s executor, on its own die (R115, R466). -/
def refusedPiece (s : State) (c : Tow) (write : Bool) (ps : List Piece) : Option Piece :=
  if c.oper = 0x91 then ps.find? (outOfArena s c (executorOf s c ((byteLoc s c (tfield c 0 8)).getD 0)) write) else none

/-- Reach a range for an access: located, in an arena where that is checked, and under no lock. -/
def towReach (s : State) (n : Nat) (write : Bool) (a : Int) (len : Nat) : Reach (List Piece) :=
  match reachTow s n { read := !write, write } a len with
  | .stop t => .stop t
  | .ok s1 ps => match refusedPiece s1 (towOf s n) write ps with
    | some p => .stop (stopTow (logGroup s1 (towOf s n).g 0x0914 1 0 (some (badAddr p.loc))) n 2)
    | none => if piecesFree s1 ps then .ok s1 ps else .stop s1

/-- Read the index of row `r` of a gather or scatter; the row's range is checked then (R464). -/
def readIndex (s : State) (n r : Nat) : State :=
  let c := towOf s n
  match towReach s n false (rowAt (tfield c 0x30 8) 4 r) 4 with
  | .stop t => t
  | .ok s1 ps => readTow s1 n ps (fun s bs =>
      let p := copyAddrs c r (bytesLE bs)
      if !rangeOk s (towSpace s c) (tfield c 0x00 8) p.1 (tLength c) then failTow s n (wrapTo 64 p.1) .form true
      else if !rangeOk s (towSpace s c) (tfield c 0x08 8) p.2 (tLength c) then failTow s n (wrapTo 64 p.2) .form true
      else modTow s n (fun c => { c with indexes := c.indexes ++ [(r, bytesLE bs)] }))

/-- Read range `k` of job `j`. When it cannot be read, the blocks of a sluiced row before it are sent (R488). -/
def readRange (s : State) (n j k : Nat) (a : Int) (len : Nat) : State :=
  let c := towOf s n
  match towReach s n false a len with
  | .stop t => t
  | .ok s1 ps => match readAll s1 ps with
    | (s2, .error (at_, b)) =>
      let s3 := failTow s2 n at_ (.data b) true
      let nb := blocksBefore c j k
      if sluiceOn c ∧ 0 < nb ∧ reachable s3 c then sendBlocks s3 n j nb ((jobAt c j).getD { reads := [], writes := [] }) else s3
    | (s2, .ok bs) => modTow (touchTow s2 n ps false) n (fun c => { c with brought := c.brought ++ [((j, k), bs)] })

/-- Reach every range of a list that is to be written: its job and number, and its pieces. -/
def reachRanges (n : Nat) : List (Nat × Nat × Int × Nat) → State → Reach (List (Nat × Nat × List Piece))
  | [], s => .ok s []
  | q :: t, s => match towReach s n true q.2.2.1 q.2.2.2 with
    | .stop s1 => .stop s1
    | .ok s1 ps => match reachRanges n t s1 with
      | .stop s2 => .stop s2
      | .ok s2 l => .ok s2 ((q.1, q.2.1, ps) :: l)

/-- Write the unit at `u` whole: all ranges of the command in it, in the order of their jobs (R262). -/
def writeUnit (s : State) (n u : Nat) : State :=
  let c := towOf s n
  let jobOf (j : Nat) : Job := (jobAt c j).getD { reads := [], writes := [] }
  match reachRanges n (rangesAt s c u (unitBytes u)) s with
  | .stop t => t
  | .ok s1 l =>
    let first := (l.flatMap (·.2.2)).headD { named := 0, loc := u, len := 0, pound := false }
    match storeCheck s1 u (unitBytes u) true first.pound with
    | (s2, some b) => failTow s2 n first.named (.data b) true
    | (s2, none) => l.foldl (fun s q =>
        writeTow s n q.2.2 (writeBytesOf c q.1 q.2.1 (jobOf q.1)) (fun s => modTow s n (noteWrite q.1 q.2.1 (jobOf q.1)))) s2

/-- Write range `k` of job `j`. A scatter into host memory is rejected (R265). -/
def writeRange (s : State) (n j k : Nat) (a : Int) (len : Nat) : State :=
  let c := towOf s n
  let job := (jobAt c j).getD { reads := [], writes := [] }
  match towReach s n true a len with
  | .stop t => t
  | .ok s1 ps =>
    if c.oper = 0x90 ∧ tMode c = 3 ∧ ps.any (fun q => regionOf s.poundSize q.loc == .host) then rejectTow s1 n 0x08
    else match (partOfLost s1 c (a, len)).filter (coversUnit s1 c) with
    | some u => writeUnit s1 n u
    | none => writeTow s1 n ps (writeBytesOf c j k job) (fun s => modTow s n (noteWrite j k job))

/-- A running command makes one access; with none left it is finishing. -/
def towAccess (s : State) (n : Nat) : State :=
  let t := passFree s 1
  match towNext s (towOf s n) (freeNat s) with
  | none => modTow t n (fun c => { c with phase := .finishing })
  | some (.index r) => readIndex t n r
  | some (.read j k a len) => readRange t n j k a len
  | some (.write j k a len) => writeRange t n j k a len
  | some (.send r) => sendRow t n r

/-! ## Events -/

/-- Commands that a port has admitted (R369). -/
def admitted (s : State) (p : Nat) : Nat :=
  (s.tows.filter (fun c => c.oper == 0x92 && (c.phase == .running || c.phase == .finishing) && tDevice c != s.deviceId &&
    routeOf s (tDevice c) == p)).length

/-- Read a command's descriptor, where the read was held behind the group's earlier accesses to those bytes (R129, R504).
DEDUCED: notes/assumptions/32.md. -/
def readDescriptor (s : State) (n : Nat) : State :=
  match s.ops.findIdx? (fun x => x.kind == .descriptor n && !x.finished) with
  | none => s
  | some o =>
    if !laneReady s o (laneReq (op s o) 0) then s
    else
      let r := readWhole s (towOf s n) (op s o).size
      settle (lanePerformed (acceptTow r.1 n .queued r.2) o 0 none) o

/-- Whether the acquire of a command allows its accesses (R129). -/
def towAcquired (s : State) (c : Tow) : Bool := match c.acq with
  | none => true
  | some scope => earlierDone s c.g c.before scope true true
/-- A `tremote` for another device is admitted by its port: fewer than 8 are, and none that reached the port before it waits (R369). -/
def portAdmits (s : State) (n : Nat) : Bool :=
  let c := towOf s n
  let p := routeOf s (tDevice c)
  tDevice c == s.deviceId || (decide (admitted s p < 8) && (s.tows.take n).all (fun d =>
    !(d.oper == 0x92 && d.phase == .queued && tDevice d != s.deviceId && routeOf s (tDevice d) == p && towAcquired s d)))

/-- Take a queued command, once its acquire allows: the checks of R464. -/
def startTow (s : State) (n : Nat) : State :=
  let c := towOf s n
  if !towAcquired s c ∨ (c.oper = 0x92 ∧ !portAdmits s n) then s
  else
    let s1 := modTow s n (fun c => { c with phase := .running })
    match badSpan s1 c with
    | some p => failTow s1 n (wrapTo 64 p.addr) .form true
    | none =>
      if c.oper = 0x90 ∧ tMode c = 3 ∧ (byteLoc s1 c (tfield c 8 8)).any (fun a => regionOf s1.poundSize a == .host) then
        rejectTow s1 n 0x08
      else if c.oper = 0x92 ∧ !reachable s1 c then noRoute s1 n
      else s1

/-- `TOW_COMMAND_START`: a descriptor whose read was held is read; a queued command is taken; a running one makes its next access. -/
def execTowCommandStart (n : Nat) (s : State) : Res :=
  let c := towOf s n
  if c.oper = 0xFE ∨ isHeld s (.tow n) then .next s
  else .next (releaseHeld (match c.phase with
    | .reading => readDescriptor s n
    | .queued => startTow s n
    | .running => match c.oper with
      | 0x91 => s
      | 0x93 => tflushRow s n
      | _ => towAccess s n
    | _ => s))

/-- `TXFORM_EXECUTION`: the executor of a running `txform` makes its next access.
DESIGN CHOICE: notes/assumptions/27.md. -/
def execTxformExecution (n : Nat) (s : State) : Res :=
  let c := towOf s n
  .next (if c.oper = 0x91 ∧ c.phase = .running ∧ !isHeld s (.tow n) then releaseHeld (towAccess s n) else s)

/-- Bytes a `tremote` has its completion word raised by: elements and scales (R271). -/
def doneBytes (c : Tow) : Nat :=
  tRows c * (if sluiceOn c then sluiceBlocks c * (blockBytes c + 1) else tLength c)

/-- The completion-word add of a `tremote` whose writes have all been performed (R271).
DEDUCED: notes/assumptions/34.md. -/
def sendAdd (s : State) (n : Nat) : State :=
  let c := towOf s n
  let d := tDevice c
  let addr := tfield c 0x50 8
  let s0 := modTow s n (fun c => { c with added := true })
  if d = s.deviceId then
    let (s1, status) := if sourceEnabled s0 d then inboundAdd s0 d addr (doneBytes c) else (refuseSource s0 d addr, 5)
    endRemote s1 { tow := n, port := 0xFF, tag := 0, addr, len := 8 } status
  else if !routeUp s0 d then endRemote s0 { tow := n, port := routeOf s0 d, tag := 0, addr, len := 8 } 5
  else sendRemote s0 n d 2 addr (toBytesLE 8 (doneBytes c)) [] none

/-- Write a command's status word (Table 13-2), which sets its word full (R261). -/
def writeStatus (s : State) (n : Nat) : State :=
  let c := towOf s n
  let a := c.desc + 0x1C
  match storeCheck s a 4 true (c.oper == 0xFE) with
  | (s1, some b) => logAccErr s1 (some c.g) a (.data b)
  | (s1, none) => touchHome (writeLoc s1 a 4 (c.status * 2 ^ 24 + c.flags) (some true)) (coreOf s c.g) a 4 true

/-- Every `binit` and `bxp` that the group issued before a command has been performed at the command's landing: its count is not lost
(R256, R436). -/
def landingSettled (s : State) (c : Tow) : Bool :=
  (List.range c.before).all (fun o =>
    let x := op s o
    x.g != c.g || x.finished || (match x.kind with
      | .landing _ => (waitingLanes x).all (fun r => decide (r.addr + 16 ≤ c.landing) || decide (c.landing + 16 ≤ r.addr))
      | _ => true))

/-- `TOW_COMMAND_COMPLETE`: with every write performed and acknowledged, the completion word is raised, the status word is written and
the landing is counted, in that order. -/
def execTowCommandComplete (n : Nat) (s : State) : Res :=
  let c := towOf s n
  if c.oper = 0xFE ∨ c.phase ≠ .finishing ∨ !remotesDone s n ∨ !landingSettled s c then .next s
  else
    let s1 := if c.oper = 0x92 ∧ c.status = 0 ∧ tDone c ∧ !c.added then sendAdd s n else s
    if !remotesDone s1 n then .next s1
    else
      .next (releaseHeld (modTow (landingCount (writeStatus s1 n) (coreOf s c.g) c.landing (towCount c)) n (fun c => { c with phase := .done })))

end Sys2Proof.Machine
end

