-- ==== Sys2Proof/Machine/Rays.lean ====
section
/-!
DEFINITION. Rays: `trace`, admission, the exact tests, top steps, basins, turns of the traversal units, and hit records
(spec/15_rays_and_quay.md, R294 to R309; R443, R476 to R478).

A barge taken into a traversal unit is run to the end of its treelet, or to its next candidate for the any-hit program, in one event.
-/
namespace Sys2Proof.Machine

/-! ## Exact tests (R303) -/

/-- The exact integer of a finite f32 value in units of 2^-149. -/
def unitsOf (v : FVal) : Option Int := match v with
  | .fin neg m e => some (finInt neg m e (-149))
  | _ => none

/-- A ratio of integers with a positive denominator. -/
def ratio (n d : Int) : Limit := if d < 0 then .at (-n) d.natAbs else .at n d.natAbs

/-- a < b. -/
def limitLt : Limit → Limit → Bool
  | .low, .low => false
  | .low, _ => true
  | _, .low => false
  | .high, _ => false
  | _, .high => true
  | .at n d, .at m e => decide (n * e < m * d)

/-- The greater and the lesser of two limits. -/
def limitMax (a b : Limit) : Limit := if limitLt a b then b else a
def limitMin (a b : Limit) : Limit := if limitLt b a then b else a

/-- An f32 distance as a limit; NaN does not arise. -/
def limitOf (v : FVal) : Limit := match v with
  | .nan => .low
  | .inf neg => if neg then .low else .high
  | .fin neg m e => .at (finInt neg m e (-149)) (2 ^ 149)

/-- (m − o) / d for a finite, nonzero d: none when m is NaN. -/
def planeAt (m o d : FVal) : Option Limit :=
  match m, unitsOf o, unitsOf d with
  | .inf neg, _, some x => some (if neg == decide (x < 0) then .high else .low)
  | _, some y, some x => (unitsOf m).map (fun w => ratio (w - y) x)
  | _, _, _ => none

/-- The interval of t for one axis: none when it is empty. -/
def axisSpan (o d mn mx : FVal) : Option (Limit × Limit) :=
  let through : Bool := match d with
    | .fin _ m _ => m == 0
    | _ => true
  if through then
    if !isNan mn ∧ !isNan mx ∧ fcompare mn o ≤ 0 ∧ fcompare o mx ≤ 0 then some (.low, .high) else none
  else match planeAt mn o d, planeAt mx o d with
    | some a, some b => some (limitMin a b, limitMax a b)
    | _, _ => none

/-- A ray as a search sees it: origin and direction, limits, and the visits of its nodes' boxes. -/
structure RayView where
  o : List FVal
  d : List FVal
  tmin : FVal
  tmax : FVal
deriving Repr

/-- The entry value of a box of six bounds, when the child is entered.
DEDUCED: notes/assumptions/39.md. -/
def boxEntry (r : RayView) (bounds : List FVal) : Option Limit :=
  let at_ (l : List FVal) (i : Nat) : FVal := l.getD i .nan
  match axisSpan (at_ r.o 0) (at_ r.d 0) (at_ bounds 0) (at_ bounds 3), axisSpan (at_ r.o 1) (at_ r.d 1) (at_ bounds 1) (at_ bounds 4),
      axisSpan (at_ r.o 2) (at_ r.d 2) (at_ bounds 2) (at_ bounds 5) with
  | some x, some y, some z =>
    let e := limitMax (limitMax x.1 y.1) (limitMax z.1 (limitOf r.tmin))
    let out := limitMin (limitMin x.2 y.2) z.2
    if !limitLt out e ∧ !limitLt out (limitOf r.tmin) ∧ limitLt e (limitOf r.tmax) then some e else none
  | _, _, _ => none

/-- A vector of exact integers. -/
structure Vec where
  x : Int
  y : Int
  z : Int
deriving DecidableEq, Repr

def vecSub (a b : Vec) : Vec := { x := a.x - b.x, y := a.y - b.y, z := a.z - b.z }
def vecDot (a b : Vec) : Int := a.x * b.x + a.y * b.y + a.z * b.z
def vecCross (a b : Vec) : Vec :=
  { x := a.y * b.z - a.z * b.y, y := a.z * b.x - a.x * b.z, z := a.x * b.y - a.y * b.x }
/-- Three finite f32 values as a vector in units of 2^-149. -/
def vecOf (l : List FVal) : Option Vec := match l.map unitsOf with
  | [some x, some y, some z] => some { x, y, z }
  | _ => none

/-- n / d as a value that rounds as the exact quotient does; zero is +0. -/
def quotient (n d : Int) : FVal := if n = 0 then .fin false 0 0 else (fdiv (fofInt n) (fofInt d)).1

/-- round_rne of n / d for a nonnegative quotient. -/
def roundRatio (n d : Int) : Nat :=
  let (a, b) := (n.natAbs, d.natAbs)
  let q := a / b
  let r := a % b
  if 2 * r < b then q else if b < 2 * r then q + 1 else q + q % 2

/-- What the exact triangle test finds: t' in f32, u and v packed, and whether it is front-facing. -/
structure TriHit where
  t : Nat
  uv : Nat
  front : Bool
deriving DecidableEq, Repr

/-- The triangle test on three vertices. -/
def triTest (r : RayView) (v0 v1 v2 : List FVal) : Option TriHit :=
  match vecOf r.o, vecOf r.d, vecOf v0, vecOf v1, vecOf v2 with
  | some o, some d, some p0, some p1, some p2 =>
    let e1 := vecSub p1 p0
    let e2 := vecSub p2 p0
    let s := vecSub o p0
    let n := vecCross e1 e2
    let den := vecDot d n
    let u := vecDot d (vecCross s e2)
    let v := vecDot d (vecCross e1 s)
    let sgn : Int := if den < 0 then -1 else 1
    if den = 0 ∨ u * sgn < 0 ∨ v * sgn < 0 ∨ den * sgn < (u + v) * sgn then none
    else
      some { t := (fdeliver f32 .rne false (quotient (-vecDot s n) den)).1,
             uv := roundRatio (u * 65535) den + 2 ^ 16 * roundRatio (v * 65535) den, front := decide (den < 0) }
  | _, _, _, _, _ => none

/-- One row of M times a vector, rounded once: R303. `w` says whether the last column is added. -/
def matRow (row : List Nat) (v : List FVal) (w : Bool) : Nat :=
  let m := row.map (fdecode f32)
  let terms := ((m.take 3).zip v).map (fun p => (fmul p.1 p.2).1)
  let all := if w then terms ++ m.drop 3 else terms
  (fdeliver f32 .rne false ((all.drop 1).foldl (fun a b => (fadd .rne a b).1) (all.headD .nan))).1

/-- The object-space ray of a world ray (R303), origin then direction; empty when it misses the instance. -/
def objectRay (m o d : List Nat) : List Nat :=
  let row (i : Nat) : List Nat := (m.drop (4 * i)).take 4
  let oo := (List.range 3).map (fun i => matRow (row i) (o.map (fdecode f32)) true)
  let od := (List.range 3).map (fun i => matRow (row i) (d.map (fdecode f32)) false)
  let finite (x : Nat) : Bool := (unitsOf (fdecode f32 x)).isSome
  if od.all (fun x => x % 2 ^ 31 == 0) || od.any (fun x => isNan (fdecode f32 x)) || !oo.all finite then [] else oo ++ od

/-! ## Reading the structure (R295 to R297, R476) -/

/-- Barge number `b`. -/
def bargeAt (s : State) (b : Nat) : Barge := s.quay.barges.getD b { trace := 0, lane := 0, ray := [], tmax := 0, stack := 0, place := .landed }
/-- Change a barge. -/
def modBarge (s : State) (b : Nat) (f : Barge → Barge) : State := { s with quay := { s.quay with barges := s.quay.barges.modify b f } }
/-- Trace number `t`. -/
def traceAt (s : State) (t : Nat) : Trace :=
  s.quay.traces.getD t { op := 2 ^ 64, area := 0, root := 0, ctx := 0, stack := 0, flags := 0, mask := 0, count := 0 }
/-- The numbers of the barges that satisfy a test. -/
def bargesWith (s : State) (p : Barge → Bool) : List Nat :=
  (List.range s.quay.barges.length).filter (fun b => p (bargeAt s b))

/-- A piece of a barge's search: it may end the barge with a status and the address that failed. -/
abbrev Search (α : Type) := ExceptT (Nat × Nat) (StateM (State × Barge)) α

/-- The origin core of a barge. -/
def bargeCore (s : State) (b : Barge) : Nat := coreOf s (op s (traceAt s b.trace).op).g

/-- What stands for a status when a word that a search reads is held by an `mcas`, so that it must wait (R134). -/
def wordHeld : Nat := 256

/-- Read `n` bytes of the structure on the barge's stack: an arena check precedes every read (R476). -/
def structRead (ctx a n : Nat) : Search (List Byte) := do
  let (s, b) ← get
  if !arenaOk s b.stack ctx a n true false || !physOk s.poundSize a n then throw (4, a)
  else if !unlocked s noOp a n then throw (wordHeld, a)
  else match storeCheck s a n false true with
    | (s1, some e) => do
      set (s1, b)
      throw (5, e.addr % 2 ^ 52)
    | (s1, none) => do
      set (touchHome s1 (bargeCore s1 b) a n false, b)
      return readBytes s1.mem a n

/-- The directory's fields (Table 15-2). -/
structure Directory where
  nt : Nat
  ni : Nat
  tt : Nat
  it : Nat
  ahk : Nat
  ahd : Nat
  top : List Nat
deriving Repr

/-- Read a directory. A field outside its range or a nonzero reserved field is a malformed structure (R9, R306). -/
def readDirectory (ctx a : Nat) : Search Directory := do
  let b ← structRead ctx a 256
  let nt := recField b 0 4
  let ni := recField b 4 4
  if a % 4096 ≠ 0 ∨ nt < 2 ∨ 32768 < nt ∨ ni < 1 ∨ 32768 < ni ∨ recField b 0x28 8 ≠ 0 ∨ recField b 0xF0 16 ≠ 0 then throw (3, a)
  else
    return { nt, ni, tt := recField b 8 8, it := recField b 0x10 8, ahk := recField b 0x18 8, ahd := recField b 0x20 8,
             top := (List.range 24).map (fun k => recField b (0x30 + 8 * k) 8) }

/-- Count a node visit: visit 65,537 ends the barge (R306). -/
def countVisit (a : Nat) : Search Unit := do
  let (s, b) ← get
  if 65536 ≤ b.visits then throw (3, a) else set (s, { b with visits := b.visits + 1 })

/-- Insert an entered child by ascending entry value; ties keep child order (R304). -/
def insertChild (c : Limit × RayWork) : List (Limit × RayWork) → List (Limit × RayWork)
  | [] => [c]
  | x :: t => if limitLt c.1 x.1 then c :: x :: t else x :: insertChild c t

/-- What the references of a treelet's nodes may name: its nodes, and its triangles or, in treelet 0, the instances. -/
structure RefBounds where
  top : Bool
  nodes : Nat
  items : Nat
deriving DecidableEq, Repr

/-- A child reference as work (R296); none: an empty child. An index outside its bounds is malformed where it is read (R306). -/
def childWork (z : RefBounds) (ref : Nat) (e : Limit) : Except Unit (Option RayWork) :=
  let low := bitField ref 0 30
  match bitField ref 30 2 with
  | 0 => if low = 0 then .ok none else .error ()
  | 1 => if low < z.nodes then .ok (some (.node low e)) else .error ()
  | 2 => if z.top ∨ z.items < low / 16 + low % 16 + 1 then .error () else .ok (some (.leaf (low / 16) (low % 16 + 1) e))
  | _ => if z.top ∧ low < z.items then .ok (some (.link low e)) else .error ()

/-- The entered children of a node's bytes, nearest first. -/
def entered (z : RefBounds) (r : RayView) (b : List Byte) : Nat → Except Unit (List (Limit × RayWork))
  | 0 => .ok []
  | n + 1 => do
    let below ← entered z r b n
    match ← childWork z (recField b (0x60 + 4 * n) 4) .low with
    | none => return below
    | some _ =>
      match boxEntry r ((List.range 6).map (fun j => fdecode f32 (recField b (24 * n + 4 * j) 4))) with
      | none => return below
      | some e => match ← childWork z (recField b (0x60 + 4 * n) 4) e with
        | none => return below
        | some w => return insertChild (e, w) below

/-- Visit a node of a treelet: its entered children. -/
def visitNode (ctx base index : Nat) (z : RefBounds) (r : RayView) : Search (List RayWork) := do
  let a := base + 128 * index
  countVisit a
  let b ← structRead ctx a 128
  if recField b 0x70 16 ≠ 0 then throw (3, a)
  else match entered z r b 4 with
    | .error _ => throw (3, a)
    | .ok l => return l.map (·.2)

/-! ## Top steps (R305, R306) -/

/-- The ray of a list of f32 words: origin, direction, tmin, and a limit. -/
def rayView (o d : List Nat) (tmin tmax : Nat) : RayView :=
  { o := o.map (fdecode f32), d := d.map (fdecode f32), tmin := fdecode f32 tmin, tmax := fdecode f32 tmax }
/-- The world ray of a barge under a limit. -/
def worldRay (b : Barge) (tmax : Nat) : RayView := rayView (b.ray.take 3) ((b.ray.drop 3).take 3) (b.ray.getD 6 0) tmax

/-- Work items one search can reach: each of 65,536 nodes has four children, and a leaf has sixteen triangles. -/
def workBound : Nat := 2 ^ 23

/-- Search treelet 0 for the next instance after the links passed: its link's place in the order, its index, and its 64 bytes. -/
def nextInstance (ctx mask base nodes : Nat) (dir : Directory) (r : RayView) :
    Nat → Nat → List RayWork → Search (Option (Nat × Nat × List Byte))
  | 0, _, _ => return none
  | _, _, [] => return none
  | n + 1, pos, .node i _ :: rest => do
    let kids ← visitNode ctx base i { top := true, nodes, items := dir.ni } r
    nextInstance ctx mask base nodes dir r n pos (kids ++ rest)
  | n + 1, pos, .link i e :: rest => do
    let (_, b) ← get
    if pos < b.links then nextInstance ctx mask base nodes dir r n (pos + 1) rest
    else if 32767 ≤ pos then throw (3, base)
    else if !limitLt e (limitOf (fdecode f32 b.tmax)) then nextInstance ctx mask base nodes dir r n (pos + 1) rest
    else
      let x ← structRead ctx (dir.it + 64 * i) 64
      if recField x 0x39 7 ≠ 0 then throw (3, dir.it + 64 * i)
      else if recField x 0x38 1 &&& mask = 0 then nextInstance ctx mask base nodes dir r n (pos + 1) rest
      else return some (pos, i, x)
  | n + 1, pos, _ :: rest => nextInstance ctx mask base nodes dir r n pos rest

/-- The stack whose DRAM holds a physical address. -/
def stackOf (s : State) (a : Nat) : Option Nat := match regionOf s.poundSize a with
  | .stack k => some k
  | _ => none

/-- Hand the barge to the basin of an instance's treelet (R305): the instance, its treelet's entry, the arena check and then the check
that the treelet lies in one stack (R306). -/
def handOver (ctx : Nat) (dir : Directory) (pos i : Nat) (x : List Byte) : Search Unit := do
  let t := recField x 0x30 4
  if t = 0 ∨ dir.nt ≤ t then throw (3, dir.it + 64 * i)
  else
    let y ← structRead ctx (dir.tt + 16 * t) 16
    let base := recField y 0 8
    let nodes := recField y 8 4
    let tris := recField y 12 4
    if nodes = 0 ∨ 2 ^ 24 < nodes ∨ 2 ^ 26 < tris ∨ base % 128 ≠ 0 then throw (3, dir.tt + 16 * t)
    else
      let (s, b) ← get
      let size := 128 * nodes + 64 * tris
      let k := (stackOf s base).getD b.stack
      if !arenaOk s k ctx base size true false then throw (4, base)
      else if (stackOf s base).isNone ∨ stackOf s (base + size - 1) ≠ stackOf s base then throw (3, base)
      else
        let m := (List.range 12).map (fun i => recField x (4 * i) 4)
        set (s, { b with links := pos + 1, root := i, treelet := t, base, nodes, tris, instId := recField x 0x34 4, stack := k, place := .moving,
                         obj := objectRay m (b.ray.take 3) ((b.ray.drop 3).take 3), unit := none })

/-- A ray ends with the record built from its barge: a hit or a miss. -/
def rayEnds (b : Barge) : Barge := { b with place := .ended, unit := none, work := [], status := if b.best.isSome then 0 else 1 }

/-- A top step of a barge. -/
def topSearch (tr : Trace) : Search Unit := do
  let dir ← readDirectory tr.ctx tr.dir
  let y ← structRead tr.ctx dir.tt 16
  let nodes := recField y 8 4
  let (s0, b0) ← get
  set (s0, { b0 with ahk := dir.ahk, ahd := dir.ahd, root := 0xFFFFFFFF })
  let base := dir.top.getD b0.stack 0
  if nodes = 0 ∨ 2 ^ 24 < nodes then throw (3, dir.tt)
  else if base % 128 ≠ 0 then throw (3, base)
  else
    let r := worldRay b0 (b0.ray.getD 7 0)
    let kids ← visitNode tr.ctx base 0 { top := true, nodes, items := dir.ni } r
    match ← nextInstance tr.ctx tr.mask base nodes dir r workBound 0 kids with
    | none => modify (fun p => (p.1, rayEnds p.2))
    | some (pos, i, x) => handOver tr.ctx dir pos i x

/-- Run a piece of search for barge `b`; an error ends the barge with its status. None: a word it reads is held by an `mcas` (R134), and it
runs later. -/
def runSearch (s : State) (b : Nat) (x : Search Unit) : Option State :=
  match (x.run).run (s, bargeAt s b) with
  | (.ok _, s1, b1) => some (modBarge s1 b (fun _ => b1))
  | (.error (st, a), s1, b1) =>
    if st = wordHeld then none
    else some (modBarge s1 b (fun _ => { b1 with place := .ended, unit := none, work := [], status := st, failed := a }))

/-- A top step of barge `b`. -/
def topStep (s : State) (b : Nat) : Option State := runSearch s b (topSearch (traceAt s (bargeAt s b).trace))

/-! ## Searching a treelet (R303, R304) -/

/-- How a search of a treelet comes to rest. -/
inductive SearchEnd where
  /-- the treelet is searched -/
  | finished
  /-- the ray ends -/
  | rayOver
  /-- a candidate goes to the any-hit program -/
  | candidate
deriving DecidableEq, Repr

/-- A candidate is accepted (R304). -/
def acceptHit (h : Hit) (b : Barge) : Barge := { b with tmax := h.t, best := some h, cand := none }

/-- A triangle of the treelet. -/
def visitTriangle (tr : Trace) (j : Nat) : Search (Option SearchEnd) := do
  let (_, b0) ← get
  let a := b0.base + 128 * b0.nodes + 64 * j
  let x ← structRead tr.ctx a 64
  let fl := recField x 0x28 4
  if 1 < fl ∨ recField x 0x2C 20 ≠ 0 then throw (3, a)
  else
    let (s, b) ← get
    let r := rayView (b.obj.take 3) (b.obj.drop 3) (b.ray.getD 6 0) b.tmax
    let vert (i : Nat) : List FVal := (List.range 3).map (fun k => fdecode f32 (recField x (12 * i + 4 * k) 4))
    match triTest r (vert 0) (vert 1) (vert 2) with
    | none => return none
    | some h =>
      let t := fdecode f32 h.t
      if fcompare t r.tmin < 0 ∨ 0 ≤ fcompare t r.tmax ∨ bitOf tr.flags (if h.front then 3 else 2) then return none
      else
        let hit : Hit := { t := h.t, uv := h.uv, prim := recField x 0x24 4, inst := b.instId }
        if fl = 1 ∧ !bitOf tr.flags 0 ∧ b.ahk ≠ 0 then do
          set (s, { b with cand := some hit })
          return some .candidate
        else do
          set (s, acceptHit hit b)
          return (if bitOf tr.flags 1 then some .rayOver else none)

/-- Visit a node of the barge's treelet with its object-space ray. -/
def visitLeafNode (tr : Trace) (i : Nat) : Search (List RayWork) := do
  let (_, b) ← get
  visitNode tr.ctx b.base i { top := false, nodes := b.nodes, items := b.tris }
    (rayView (b.obj.take 3) (b.obj.drop 3) (b.ray.getD 6 0) b.tmax)

/-- Take up the work that is left in a treelet. -/
def searchOn (tr : Trace) : Nat → Search SearchEnd
  | 0 => return .finished
  | n + 1 => do
    let (s, b) ← get
    match b.work with
    | [] => return .finished
    | w :: rest =>
      set (s, { b with work := rest })
      let near (e : Limit) : Bool := limitLt e (limitOf (fdecode f32 b.tmax))
      match w with
      | .node i e =>
        if near e then
          let kids ← visitLeafNode tr i
          modify (fun p => (p.1, { p.2 with work := kids ++ p.2.work }))
        searchOn tr n
      | .leaf first count e =>
        if near e then
          modify (fun p => (p.1, { p.2 with work := (List.range count).map (fun i => RayWork.tri (first + i)) ++ p.2.work }))
        searchOn tr n
      | .tri j => do
        match ← visitTriangle tr j with
        | some r => return r
        | none => searchOn tr n
      | .link _ _ => searchOn tr n

/-- What a search leaves of its barge: an ended ray, or one that waits for a decision. A searched treelet leaves it as it is. -/
def searchPart (tr : Trace) (first : Bool) : Search Unit := do
  if first then
    let kids ← visitLeafNode tr 0
    modify (fun p => (p.1, { p.2 with work := kids }))
  match ← searchOn tr workBound with
  | .finished => modify (fun p => (p.1, { p.2 with place := .top }))
  | .rayOver => modify (fun p => (p.1, rayEnds p.2))
  | .candidate => modify (fun p => (p.1, { p.2 with place := .candidate }))

/-- Go on with a barge in its treelet, and through its next top step once the treelet is searched (R308). -/
def goOn (s : State) (b : Nat) (first : Bool) : Option State :=
  (runSearch s b (searchPart (traceAt s (bargeAt s b).trace) first)).bind (fun s1 =>
    if (bargeAt s1 b).place = .top then topStep s1 b else some s1)

/-! ## `trace` (R298 to R302, R443) -/

/-- Rays a core's return slots can hold. -/
def raySlots : Nat := 4096
/-- The return slots of a core that are held (R302). -/
def heldSlots (s : State) (core : Nat) : List Nat :=
  (s.quay.barges.filter (fun b => b.place != .landed && bargeCore s b == core)).filterMap (·.slot)
/-- How many. -/
def raySlotsHeld (s : State) (core : Nat) : Nat := (heldSlots s core).length

/-- Groups of a core that wait for return slots. -/
def slotWaiters (s : State) (core : Nat) : List Nat :=
  (List.range s.groups.length).filter (fun g => (grp s g).wait.code == 12 && coreOf s g == core && onCore s g)

/-- A ray that R300 calls invalid. -/
def rayInvalid (ray : List Nat) : Bool :=
  ray.any (fun x => isNan (fdecode f32 x)) || (ray.take 3).any (fun x => (unitsOf (fdecode f32 x)).isNone) ||
    ((ray.drop 3).take 3).all (fun x => x % 2 ^ 31 == 0)

/-- The root record is aligned, stands in memory, and lies in an arena that grants both accesses (R294, R443). -/
def rootOk (s : State) (stack ctx root : Nat) : Bool :=
  root % 32 == 0 && arenaOk s stack ctx root 32 true true && physOk s.poundSize root 32

/-- The record area of a request passes its team's allocation or is misaligned (R443). -/
def areaBad (t : State) (off align rs : Nat) : Bool :=
  let ls := activeLanes t t.cur
  off % align != 0 || (!ls.isEmpty && decide ((teamOf t t.cur).allocSize < off + rs * (ls.getLastD 0 + 1)))

/-- Cause 0x08 for a record area. -/
def areaTrap (t : State) (off : Nat) : Res := .next (takeTrap t t.cur 8 0 (some (5 * 2 ^ 60 + off)))

/-- A request enters the path `qy` with a record for each active lane (R299); with none it is whole at once. -/
def addRequest (t : State) : State :=
  let g := t.cur
  let n := (activeLanes t g).length
  let s1 := addOp t { g := g, kind := .records, issuedAt := t.clock, path := some 3, counted := true,
                      handler := handlerOf (me t), records := n }
  if n = 0 then completeOp s1 t.ops.length else s1

/-- The effect of `trace`; `served` says that it is its turn for return slots.
DEDUCED: notes/assumptions/40.md. -/
def traceBody (served : Bool) (f : FmtE) (t : State) : Res :=
  let g := t.cur
  let x := me t
  let off := (sreg x f.d.toNat).toNat
  let root := (spair x f.b.toNat).toNat
  let c := (sreg x f.c.toNat).toNat
  let core := coreOf t g
  let stack := stackOverCore core
  let ctx := (gridOf t g).ctx
  let ls := activeLanes t g
  let ray (l : Nat) : List Nat := (List.range 8).map (fun i => (vlane x (f.a.toNat + i) l).toNat)
  let bad := if c / 2 ^ 16 ≠ 0 ∨ bitField c 4 4 ≠ 0 then 3 else if rootOk t stack ctx root then 0 else 4
  let valid := if bad = 0 then ls.filter (fun l => !rayInvalid (ray l)) else []
  if areaBad t off 32 32 then areaTrap t off
  else if valid ≠ [] ∧ (raySlots < raySlotsHeld t core + valid.length ∨ (!served ∧ slotWaiters t core ≠ [])) then
    .next (block t g 12 root valid.length)
  else
    let tr : Trace :=
      { op := t.ops.length, area := landingLoc t g off, root, ctx, stack, flags := c % 16, mask := bitField c 8 8, count := valid.length,
        acq := acqOf f }
    let free := (List.range raySlots).filter (fun i => !(heldSlots t core).contains i)
    let mk (l : Nat) : Barge :=
      { trace := t.quay.traces.length, lane := l, ray := ray l, tmax := (ray l).getD 7 0, stack,
        slot := (valid.idxOf? l).bind (fun i => free[i]?), place := if valid.contains l then .formed else .ended,
        status := if bad ≠ 0 then bad else 2, failed := if bad = 0 then 0 else root }
    let s1 := addRequest t
    .next (advance { s1 with quay := { s1.quay with traces := s1.quay.traces ++ [tr], barges := s1.quay.barges ++ ls.map mk } } g)

/-- `trace`: sends a ray of each active lane into an acceleration structure. -/
def execTrace (f : FmtE) (s : State) : Res := issueOn (some 3) false (sigTraceOf f) (traceBody false f) s

/-- `RETURN_SLOTS_GRANTED`: the `trace` that has waited longest on its core takes its slots (R302). -/
def execReturnSlotsGranted (g : Nat) (s : State) : Res :=
  let core := coreOf s g
  if (grp s g).wait.code ≠ 12 ∨ leastBy (fun h => (grp s h).lastIssue) (slotWaiters s core) ≠ some g ∨
      raySlots < raySlotsHeld s core + (grp s g).wait.opnd then .next s
  else match instrAt s g with
    | some (.trace f) => asGroup g (traceBody true f) (unblock s g)
    | _ => .next (unblock s g)

/-- Earlier accesses that an acquire orders before an engine's reads have been performed (R129). -/
def acquired (s : State) (g before : Nat) (acq : Option Nat) : Bool := match acq with
  | none => true
  | some sc => earlierDone s g before sc true true

/-- Location of the counter of a parity in a root record (Table 15-1). -/
def counterOf (root gen : Nat) : Nat := root + 0x10 + 8 * (gen % 2)

/-- Change every barge of a trace that stands formed. -/
def modFormed (s : State) (t : Nat) (f : Barge → Barge) : State :=
  { s with quay := { s.quay with barges := s.quay.barges.map (fun b => if b.trace = t ∧ b.place = .formed then f b else b) } }

/-- `TRACE_ADMISSION`: one event at the root record reads its generation and directory and counts the barges (R294, R300). -/
def execTraceAdmission (trace : Nat) (s : State) : Res :=
  let tr := traceAt s trace
  let g := (op s tr.op).g
  if bargesWith s (fun b => b.trace == trace && b.place == .formed) = [] ∨ !acquired s g tr.op tr.acq ∨ !unlocked s noOp tr.root 32 then
    .next s
  else match storeCheck s tr.root 32 false true with
    | (s1, some e) => .next (modFormed s1 trace (fun b => { b with place := .ended, status := 5, failed := e.addr % 2 ^ 52 }))
    | (s1, none) =>
      let gen := rd s1 tr.root 8
      match rmw s1 (counterOf tr.root gen) 8 true (fun v => some ((v + tr.count) % 2 ^ 64)) with
      | (s2, .error e) => .next (modFormed s2 trace (fun b => { b with place := .ended, status := 5, failed := e.addr % 2 ^ 52 }))
      | (s2, .ok _) =>
        let dir := rd s1 (tr.root + 8) 8
        let s2 := touchHome (touchHome s2 (coreOf s g) tr.root 32 false) (coreOf s g) (counterOf tr.root gen) 8 true
        let s3 : State := { s2 with quay := { s2.quay with traces := s2.quay.traces.modify trace (fun x => { x with gen := some gen, dir }) } }
        .next (modFormed s3 trace (fun b => { b with place := .top }))

/-- `TOP_STEP`: a barge that has come from a compute die takes its top step. -/
def execTopStep (barge : Nat) (s : State) : Res :=
  .next (if (bargeAt s barge).place = .top then (topStep s barge).getD s else s)

/-! ## Basins and turns (R307 to R309, R478) -/

/-- Barges a stack's SRAM holds. -/
def sramBarges : Nat := 4096
/-- Barges in the basins of a stack. -/
def inBasins (s : State) (k : Nat) : List Nat := bargesWith s (fun b => b.place == .basin && b.stack == k)

/-- The areas that Porman reserves in a stack's DRAM, one after another, in units of 32 KiB: barge spill (R478), return index (R478), spilled
quay-core state (R318), and on the first stack of each die the spill of its holding store (R482).
DESIGN CHOICE: notes/assumptions/91.md. -/
def reservedSizes : List Nat := [9216, 576, 32768, 8192]
/-- Address of area `what` of stack `k`. -/
def reservedBase (s : State) (what k : Nat) : Nat :=
  k * 2 ^ 36 + 32768 * (mapGet 0 s.bar.reserved k + (reservedSizes.take what).foldl (· + ·) 0)
/-- Address of spill slot i (R478). -/
def spillSlot (s : State) (k i : Nat) : Nat := reservedBase s 0 k + 64 * i
/-- Address of its entry in the return index: in the channel after the slot's, of the stack's 64 (R106, R478). -/
def spillIndex (s : State) (k i : Nat) : Nat :=
  let j := i / 8
  reservedBase s 1 k + 512 * (64 * (j / 1024) + (j + 1) % 64) + 32 * (j / 64 % 16) + 4 * (i % 8)

/-- The return-slot word of a barge (Table 15-5). -/
def slotWord (s : State) (b : Barge) : Nat := b.slot.getD 0 * 2 ^ 11 + bargeCore s b
/-- The 64 bytes of a barge (Table 15-5). -/
def bargeBytes (s : State) (b : Barge) : List Byte :=
  let tr := traceAt s b.trace
  let h := b.best.getD { t := 0, uv := 0, prim := 0xFFFFFFFF, inst := 0xFFFFFFFF }
  (b.ray.take 7 ++ [b.tmax]).flatMap (toBytesLE 4) ++
    toBytesLE 8 (tr.flags * 2 ^ 52 + bitField tr.dir 12 40 * 2 ^ 12 + tr.mask * 2 ^ 4 + tr.gen.getD 0 % 2) ++
    [b.root, b.visits * 2 ^ 15 + b.links, slotWord s b, h.prim, h.inst, h.uv].flatMap (toBytesLE 4)

/-- A barge is written to spill slot `i` of its stack, and its return-slot word to the return index (R307, R478). -/
def spillBarge (s : State) (b : Barge) (i : Nat) : State :=
  let s1 := writeLocBytes (checkWrite s (spillSlot s b.stack i) 64).1 (spillSlot s b.stack i) (bargeBytes s b) none
  writeLocBytes (checkWrite s1 (spillIndex s b.stack i) 4).1 (spillIndex s b.stack i) (toBytesLE 4 (slotWord s b)) none

/-- The lowest number that is not in a list. -/
def lowestFree (used : List Nat) : Nat := ((List.range (used.length + 1)).find? (fun i => !used.contains i)).getD 0

/-- `BARGE_ARRIVAL`: a barge enters the basin of its treelet, in the spill area when the SRAM is full. -/
def execBargeArrival (barge : Nat) (s : State) : Res :=
  let b := bargeAt s barge
  if b.place ≠ .moving then .next s
  else
    let k := b.stack
    let there := (inBasins s k).map (bargeAt s)
    let full := sramBarges ≤ (there.filter (fun x => x.spill.isNone)).length
    let n := mapGet 0 s.quay.arrivals k
    let i := lowestFree (there.filterMap (·.spill))
    if full ∧ !unlocked s noOp (spillSlot s k i) 64 ∨ full ∧ !unlocked s noOp (spillIndex s k i) 4 then .next s
    else
      let s1 : State := { s with quay := { s.quay with arrivals := mapSet 0 k (n + 1) s.quay.arrivals } }
      .next (modBarge (if full then spillBarge s1 b i else s1) barge (fun b =>
        { b with place := .basin, arrived := n, turn := mapGet 0 s.quay.turns k, spill := if full then some i else none }))

/-- Two barges on one stack are in, or from, one basin: one treelet of one generation of a structure. -/
def sameBasin (s : State) (a b : Barge) : Bool :=
  let x := traceAt s a.trace
  let y := traceAt s b.trace
  a.stack == b.stack && a.treelet == b.treelet && x.root == y.root && x.gen == y.gen && x.dir == y.dir

/-- Sort barge numbers by arrival. -/
def insertArrived (s : State) (b : Nat) : List Nat → List Nat
  | [] => [b]
  | x :: t => if (bargeAt s b).arrived < (bargeAt s x).arrived then b :: x :: t else x :: insertArrived s b t
def byArrival (s : State) (l : List Nat) : List Nat := l.foldr (insertArrived s) []

/-- The barges of a barge's basin, oldest first. -/
def basinOf (s : State) (b : Nat) : List Nat :=
  byArrival s ((inBasins s (bargeAt s b).stack).filter (fun x => sameBasin s (bargeAt s x) (bargeAt s b)))

/-- Barges that a traversal unit of stack k holds. -/
def inUnits (s : State) (k : Nat) : List Nat := bargesWith s (fun b => b.unit.isSome && b.stack == k)
/-- A traversal unit of stack k that holds no barge. -/
def freeUnit (s : State) (k : Nat) : Option Nat :=
  [0, 1].find? (fun u => (inUnits s k).all (fun b => (bargeAt s b).unit != some u))

/-- The oldest barge of the basin a unit of stack k takes next (R308): of the basins the other unit does not hold, one whose oldest barge
has waited 16 turns, the first to arrive; otherwise the fullest, then the lower treelet, then the older generation. -/
def chooseBasin (s : State) (k : Nat) : Option Nat :=
  let heads := (inBasins s k).filter (fun b => (basinOf s b).head? == some b &&
    (inUnits s k).all (fun x => !sameBasin s (bargeAt s x) (bargeAt s b)))
  let aged := heads.filter (fun b => decide ((bargeAt s b).turn + 16 ≤ mapGet 0 s.quay.turns k))
  match leastBy (fun b => (bargeAt s b).arrived) aged with
  | some b => some b
  | none => leastBy (fun b =>
      ((2 ^ 32 - (basinOf s b).length) * 2 ^ 32 + (bargeAt s b).treelet) * 2 ^ 64 + (traceAt s (bargeAt s b).trace).gen.getD 0) heads

/-- A barge refilled from an unreadable spill slot (R478). -/
def spillLost (s : State) (b k i : Nat) : State :=
  match checkRead s (spillIndex s k i) 4 with
  | (s1, some _) => modBarge (logModule s1 0x0C22 5 6 k k (2 ^ 63 + spillSlot s k i)) b (fun x => { x with place := .lost, unit := none })
  | (s1, none) => modBarge s1 b (fun x => { x with place := .ended, unit := none, status := 5, unread := true, failed := spillSlot s k i })

/-- Refill a barge from its spill slot, if it has one: whether it could be read. -/
def refill (s : State) (k : Nat) (x : Barge) : State × Bool := match x.spill with
  | none => (s, true)
  | some i => match checkRead s (spillSlot s k i) 64 with
    | (s1, e) => (s1, e.isNone)

/-- A unit takes a barge and runs it; none: a word it reads is held by an `mcas`. -/
def takeBarge (k u : Nat) (s : State) (b : Nat) : Option State :=
  let x := bargeAt s b
  match refill s k x with
  | (s0, false) => some (spillLost s0 b k (x.spill.getD 0))
  | (s0, true) =>
    let s1 := modBarge s0 b (fun x => { x with unit := some u, spill := none, place := .top })
    if x.obj = [] then topStep s1 b else goOn s1 b true

/-- A unit takes a list of barges and runs each. -/
def takeBarges (k u : Nat) : List Nat → State → Option State
  | [], s => some s
  | b :: t, s => (takeBarge k u s b).bind (takeBarges k u t)

/-- `TRAVERSAL_TURN`: a free unit of a stack takes up to 512 barges of the basin of R308, which is this treelet's, and runs each. Top steps of
barges that have come from compute dies go ahead of it. -/
def execTraversalTurn (stack treelet : Nat) (s : State) : Res :=
  match freeUnit s stack, chooseBasin s stack with
  | some u, some b =>
    if (bargeAt s b).treelet ≠ treelet ∨ bargesWith s (fun b => b.place == .top && b.stack == stack) ≠ [] then .next s
    else
      let s1 : State := { s with quay := { s.quay with turns := mapSet 0 stack (mapGet 0 s.quay.turns stack + 1) s.quay.turns } }
      .next ((takeBarges stack u ((basinOf s b).take 512) s1).getD s)
  | _, _ => .next s

/-! ## Hit records (R302, R477, Table 15-6) -/

/-- The 32 bytes of a record. -/
def hitRecord (s : State) (b : Barge) : List Byte :=
  let none32 := 0xFFFFFFFF
  let miss : Hit := { t := if b.status = 2 ∨ b.unread then 0x7FC00000 else 0x7F800000, uv := 0, prim := none32, inst := none32 }
  let h := if b.status = 0 then b.best.getD miss else miss
  toBytesLE 4 h.t ++ toBytesLE 4 h.uv ++ toBytesLE 4 h.prim ++ toBytesLE 4 h.inst ++ toBytesLE 4 b.status ++
    toBytesLE 4 (if b.unread then 0 else b.visits) ++ toBytesLE 8 (if b.status = 2 then 0 else (traceAt s b.trace).dir)

/-- One log record for each status from 0x02 to 0x06 among the records of a trace. -/
def logStatuses (s : State) (t : Nat) : State :=
  [2, 3, 4, 5, 6].foldl (fun s st =>
    match bargesWith s (fun b => b.trace == t && b.status == st) with
    | [] => s
    | b :: rest =>
      logGroup s (op s (traceAt s t).op).g (0x0C00 + st) 1 (rest.length + 1)
        (if st = 2 then none else some (2 ^ 63 + (bargeAt s b).failed % 2 ^ 52))) s

/-- A record of a request has landed: after the last one, `done` follows. -/
def countRecord (s : State) (o : Nat) (done : State → State) : State :=
  let s1 := modOp s o (fun x => { x with records := x.records - 1 })
  if (op s1 o).records = 0 then done s1 else s1

/-- After the last record of a trace: its counter falls by k, its statuses are logged, and `qy` falls. -/
def traceDone (s : State) (t : Nat) : State :=
  let tr := traceAt s t
  let s1 := match tr.gen with
    | none => s
    | some gen => match rmw s (counterOf tr.root gen) 8 true (fun v => some ((v + 2 ^ 64 - tr.count % 2 ^ 64) % 2 ^ 64)) with
      | (s1, .error e) => logAccErr s1 (some (op s tr.op).g) (counterOf tr.root gen) (.data e)
      | (s1, .ok _) => touchHome s1 (coreOf s (op s tr.op).g) (counterOf tr.root gen) 8 true
  completeOp (logStatuses s1 t) tr.op

/-- `HIT_RECORD_LANDING`: a record lands as one line event, and its return slot is free. -/
def execHitRecordLanding (barge : Nat) (s : State) : Res :=
  let b := bargeAt s barge
  let tr := traceAt s b.trace
  let loc := tr.area + 32 * b.lane
  if b.place ≠ .ended ∨ !unlocked s noOp loc 32 ∨ !unlocked s noOp tr.root 32 then .next s
  else
    let s1 := touchHome (writeLocBytes (checkWrite s loc 32).1 loc (hitRecord s b) (some true)) (bargeCore s b) loc 32 true
    .next (countRecord (modBarge s1 barge (fun x => { x with place := .landed })) tr.op (fun s => traceDone s b.trace))

end Sys2Proof.Machine
end

