-- ==== Sys2Proof/Machine/Called.lean ====
section
/-!
DEFINITION. Rasterisation, called units and ordering tokens (spec/16_raster_and_coprocessors.md, R322 to R335; R441, R442, R444, R481,
R482).
-/
namespace Sys2Proof.Machine

/-! ## `rast` (R323 to R325, R442) -/

/-- The no-tile value of a tile word. -/
def noTile : Nat := 0xFFFFFFFF

/-- The part of S in one dimension: least and greatest sample, from a scissor range and three coordinates in units of 2^-149. -/
def rastSpan (lo hi : Nat) (a b c : Int) : Int × Int :=
  let one : Int := 2 ^ 149
  (max (lo : Int) (min a (min b c) / one), min ((hi : Int) - 1) (-(-(max a (max b c)) / one) - 1))

/-- A triangle under evaluation: its vertices in units of 2^-149, the rectangle S and whether S is empty. -/
structure RastTri where
  v0 : Vec
  v1 : Vec
  v2 : Vec
  x0 : Nat
  x1 : Nat
  y0 : Nat
  y1 : Nat
  isEmpty : Bool
deriving DecidableEq, Repr

/-- The edge function from a to b at a point (R324). -/
def edgeAt (a b : Vec) (px py : Int) : Int := (b.x - a.x) * (py - a.y) - (b.y - a.y) * (px - a.x)
/-- A, the area. -/
def rastArea (r : RastTri) : Int := edgeAt r.v1 r.v2 0 0 + edgeAt r.v2 r.v0 0 0 + edgeAt r.v0 r.v1 0 0
/-- The sign of an integer. -/
def signOf (a : Int) : Int := if a < 0 then -1 else if a = 0 then 0 else 1
/-- An edge is top-left, for the sign of the area. -/
def topLeft (sg : Int) (a b : Vec) : Bool :=
  decide (sg * (b.y - a.y) < 0) || (b.y == a.y && decide (0 < sg * (b.x - a.x)))

/-- The edge functions at the centre of a sample. -/
def edgesAt (r : RastTri) (x y : Nat) : Int × Int × Int :=
  let px : Int := (2 * x + 1) * 2 ^ 148
  let py : Int := (2 * y + 1) * 2 ^ 148
  (edgeAt r.v1 r.v2 px py, edgeAt r.v2 r.v0 px py, edgeAt r.v0 r.v1 px py)

/-- Whether a sample is covered. -/
def rastCovered (r : RastTri) (x y : Nat) : Bool :=
  let sg := signOf (rastArea r)
  let (e0, e1, e2) := edgesAt r x y
  let inside (e : Int) (a b : Vec) : Bool := decide (0 < sg * e) || (e == 0 && topLeft sg a b)
  inside e0 r.v1 r.v2 && inside e1 r.v2 r.v0 && inside e2 r.v0 r.v1

/-- A value in f32, rounded once. -/
def toF32 (v : FVal) : Nat := (fdeliver f32 .rne false v).1

/-- The results for a covered sample: x, y, b1, b2, z. -/
def rastResults (r : RastTri) (x y : Nat) : List Nat :=
  let a := rastArea r
  let (e0, e1, e2) := edgesAt r x y
  [x, y, toF32 (quotient e1 a), toF32 (quotient e2 a), toF32 (quotient (e0 * r.v0.z + e1 * r.v1.z + e2 * r.v2.z) (a * 2 ^ 149))]

/-- The position after a sample of the walk (R325). -/
def rastNext (r : RastTri) (x y : Nat) : Option (Nat × Nat) :=
  if x + 1 ≤ r.x1 ∧ (x + 1) % 8 ≠ 0 then some (x + 1, y)
  else if y + 1 ≤ r.y1 ∧ (y + 1) % 8 ≠ 0 then some (max r.x0 (x / 8 * 8), y + 1)
  else if (x / 8 + 1) * 8 ≤ r.x1 then some ((x / 8 + 1) * 8, max r.y0 (y / 8 * 8))
  else if (y / 8 + 1) * 8 ≤ r.y1 then some (r.x0, (y / 8 + 1) * 8)
  else none

/-- What a walk has found: the next position, and the covered samples, latest first. -/
structure RastWalk where
  pos : Option (Nat × Nat)
  hits : List (Nat × Nat) := []
  entered : Nat := 1
deriving DecidableEq, Repr

/-- The walk of one issue: one tile with coverage, 16 tiles at most, until every live lane has a sample. -/
def rastWalk (r : RastTri) (lanes : Nat) : Nat → RastWalk → RastWalk
  | 0, w => w
  | n + 1, w =>
    match w.pos with
    | none => w
    | some (x, y) =>
      if lanes ≤ w.hits.length then w
      else
        let hits := if rastCovered r x y then (x, y) :: w.hits else w.hits
        match rastNext r x y with
        | none => { w with pos := none, hits }
        | some (x2, y2) =>
          if x2 / 8 = x / 8 ∧ y2 / 8 = y / 8 then rastWalk r lanes n { w with pos := some (x2, y2), hits }
          else if hits ≠ [] ∨ w.entered = 16 then { w with pos := some (x2, y2), hits }
          else rastWalk r lanes n { pos := some (x2, y2), hits, entered := w.entered + 1 }

/-- Samples an issue can examine: 64 in each of 16 tiles. -/
def rastBound : Nat := 1024

/-- The triangle that nine f32 words and a scissor give; none when a value is NaN or infinite. -/
def rastTri (vals : List Nat) (s0 s1 : Nat) : Option RastTri :=
  let vert (i : Nat) : Option Vec := vecOf (((vals.drop (3 * i)).take 3).map (fdecode f32))
  match vert 0, vert 1, vert 2 with
  | some v0, some v1, some v2 =>
    let (x0, x1) := rastSpan (bitField s0 0 16) (bitField s1 0 16) v0.x v1.x v2.x
    let (y0, y1) := rastSpan (bitField s0 16 16) (bitField s1 16 16) v0.y v1.y v2.y
    some { v0, v1, v2, x0 := x0.toNat, x1 := x1.toNat, y0 := y0.toNat, y1 := y1.toNat, isEmpty := decide (x1 < x0) || decide (y1 < y0) }
  | _, _, _ => none

/-- The position a continuation word in state 0b01 names. -/
def rastPosition (t : Nat) : Nat × Nat :=
  (8 * bitField t 0 12 + bitField t 24 3, 8 * bitField t 12 12 + bitField t 27 3)

/-- The continuation word after an issue (Table 16-2). -/
def rastContinuation : Option (Nat × Nat) → Nat
  | none => 0xC0000000
  | some (x, y) => 0x40000000 + (8 * (y % 8) + x % 8) * 2 ^ 24 + (y / 8) * 2 ^ 12 + x / 8

/-- The tile word of a sample. -/
def tileOf (p : Nat × Nat) : Nat := p.1 / 8 + (p.2 / 8) * 2 ^ 16

/-- Mark vn written and mapped (R49); one whose fill has failed then reads zero (R415). -/
def markReg (x : Group) (n : Nat) : Group :=
  { x with vregs := if backed x n && regIn x.fillFailed n then mapClear (64 * n) 64 x.vregs else x.vregs,
           written := x.written ||| regSet [n], mapped := x.mapped ||| regSet [n], fillFailed := x.fillFailed &&& ~~~ regSet [n] }

/-- Put the results of each covered sample into its lane, and mark the five registers written (R49). -/
def rastWrite (r : RastTri) (d : Nat) (hits : List (Nat × Nat × Nat)) (x : Group) : Group :=
  hits.foldl (fun x h => ((List.range 5).zip (rastResults r h.2.1 h.2.2)).foldl (fun x p =>
    setVlane (d + p.1) h.1 (BitVec.ofNat 32 p.2) x) x) (((List.range 5).map (d + ·)).foldl markReg x)

/-- The deferred error of a unit instruction with bad arguments: cause 0x0A, detail 0x01. -/
def deferBad (t : State) : Res := .next (raiseDeferred (advance t t.cur) t.cur (handlerOf (me t)) { cause := 0x0A, detail := 1, addr := none })

/-- A triangle that an issue returns as done without examining a position: one without area, or culled (R325). -/
def rastDone (cull : Nat) (r : RastTri) : Bool :=
  let a := rastArea r
  a == 0 || (cull == 1 && decide (a < 0)) || (cull == 2 && decide (0 < a))

/-- A scissor whose minimum is not below its maximum (R442). -/
def scissorEmpty (s0 s1 : Nat) : Bool :=
  decide (bitField s1 0 16 ≤ bitField s0 0 16) || decide (bitField s1 16 16 ≤ bitField s0 16 16)

/-- The first position of a triangle's walk; an empty S has none. -/
def rastFirst (r : RastTri) : Option (Nat × Nat) := if r.isEmpty then none else some (r.x0, r.y0)

/-- The walk of a triangle from a position, if there is one, and what it writes. -/
def rastIssue (f : FmtE) (r : RastTri) (pos : Option (Nat × Nat)) (t : State) : Res :=
  let g := t.cur
  let d := f.d.toNat
  let five := (List.range 5).map (d + ·)
  let fresh := regSet (five.filter (fun n => !regIn (me t).mapped n))
  match makeRoom g (regSet five) fresh 32768 t with
  | (t1, false) => .next t1
  | (t1, true) =>
    let ls := lanesOf (me t1).live 64
    let w := rastWalk r ls.length rastBound { pos }
    let hits := w.hits.reverse
    let tile := ((w.hits.head?).map tileOf).getD noTile
    .next (advance (modGrp t1 g (fun x =>
      let x1 := rastWrite r d (ls.zip hits) x
      setSreg (f.c.toNat + 1) (BitVec.ofNat 32 tile) (setSreg f.c.toNat (BitVec.ofNat 32 (rastContinuation w.pos))
        { x1 with exec := maskOf (ls.take hits.length) }))) g)

/-- The effect of `rast`, with the checks in the order of R442.
DEDUCED: notes/assumptions/41.md. -/
def rastBody (f : FmtE) (t : State) : Res :=
  let x := me t
  let k := (sreg x f.c.toNat).toNat
  let s0 := (sreg x f.b.toNat).toNat
  let s1 := (sreg x (f.b.toNat + 1)).toNat
  let state := bitField k 30 2
  let finished : Res := .next (advance (modMe t (fun x =>
    setSreg (f.c.toNat + 1) (BitVec.ofNat 32 noTile) (setSreg f.c.toNat 0xC0000000 { x with exec := 0 }))) t.cur)
  if state = 2 ∨ (state = 0 ∧ k ≠ 0) ∨ 32768 < bitField s1 0 16 ∨ 32768 < bitField s1 16 16 then deferBad t
  else if state = 3 then finished
  else match rastTri ((List.range 9).map (fun i => (sreg x (f.a.toNat + i)).toNat)) s0 s1 with
    | none => finished
    | some r =>
      let p := rastPosition k
      if rastDone f.op.toNat r then finished
      else if state = 0 ∨ scissorEmpty s0 s1 then rastIssue f r (rastFirst r) t
      else if !r.isEmpty ∧ r.x0 ≤ p.1 ∧ p.1 ≤ r.x1 ∧ r.y0 ≤ p.2 ∧ p.2 ≤ r.y1 then rastIssue f r (some p) t
      else deferBad t

/-- `rast`: rasterises one tile of a triangle into the live lanes. -/
def execRast (f : FmtE) (s : State) : Res := issueOn none false (sigRastOf f) (rastBody f) s

/-! ## Tokens (R326, R333 to R335) -/

/-- Key of a tile in a domain. -/
def screenKey (domain tile : Nat) : Nat := 2 ^ 24 * domain + 4096 * bitField tile 16 16 + bitField tile 0 16
/-- Key of a tile at the depth unit (0) or the blend unit (1). -/
def unitKey (domain tile u : Nat) : Nat := 2 ^ 30 * u + screenKey domain tile
/-- Coordinates of a tile word are at most 4,095. -/
def tileOk (tile : Nat) : Bool := decide (bitField tile 0 16 < 4096) && decide (bitField tile 16 16 < 4096)
/-- Home die of a tile (R326). -/
def homeDie (tile : Nat) : Nat := bitField tile 0 1 + 2 * bitField tile 16 1

/-- Whether the grid of group `g` was granted a domain (Table 17-3). -/
def domainGranted (s : State) (g domain : Nat) : Bool := decide (domain < 64) && (gridOf s g).domains.getLsbD domain
/-- Tokens acquired of a tile. -/
def tokenCount (s : State) (domain tile : Nat) : Nat := mapGet 0 s.units.counts (screenKey domain tile)
/-- Current token of a tile at a unit. -/
def tokenNow (s : State) (domain tile u : Nat) : Nat := mapGet 0 s.units.current (unitKey domain tile u)
/-- Whether a token has been acquired, by the grid of group `g`. -/
def tokenTaken (s : State) (g domain tile token : Nat) : Bool :=
  domainGranted s g domain && tileOk tile && decide (token < tokenCount s domain tile)

/-- Change the units. -/
def modUnits (s : State) (f : Units → Units) : State := { s with units := f s.units }
/-- Batch number `b`. -/
def batchAt (s : State) (b : Nat) : Batch := s.units.batches.getD b { op := 0, die := 0, kind := 3, word := 0, area := 0, records := [] }
/-- Change a batch. -/
def modBatch (s : State) (b : Nat) (f : Batch → Batch) : State := modUnits s (fun u => { u with batches := u.batches.modify b f })
/-- The unit field, domain, function, binding and last bit of a call word (Table 16-4). -/
def callUnit (w : Nat) : Nat := bitField w 0 2
def callDomain (w : Nat) : Nat := bitField w 16 6
def callFn (w : Nat) : Nat := bitField w 8 4
def callBinding (w : Nat) : Nat := bitField w 2 6
def callLast (w : Nat) : Bool := bitOf w 13

/-- A batch has nothing left for its unit to do. -/
def batchOver (b : Batch) : Bool := b.taken && b.records.isEmpty

/-- A batch for token c of a tile that its unit has still to finish. -/
def tokenBusy (s : State) (domain tile u c : Nat) : Bool :=
  s.units.batches.any (fun b => b.kind == u && callDomain b.word == domain && b.tile == tile && b.token == c && !batchOver b &&
    b.bad.isNone)

/-- Close a token at a unit. -/
def closeToken (s : State) (domain tile u token : Nat) : State :=
  let k := unitKey domain tile u
  if s.units.closed.contains (k, token) then s else modUnits s (fun x => { x with closed := x.closed ++ [(k, token)] })

/-- Advance the current token of a tile at a unit while it is closed and its records have been performed (R335).
DEDUCED: notes/assumptions/45.md. -/
def advanceToken (domain tile u : Nat) : Nat → State → State
  | 0, s => s
  | n + 1, s =>
    let k := unitKey domain tile u
    let c := tokenNow s domain tile u
    if s.units.closed.contains (k, c) && !tokenBusy s domain tile u c then
      advanceToken domain tile u n (modUnits s (fun x =>
        { x with current := mapSet 0 k (c + 1) x.current, closed := x.closed.filter (· != (k, c)) }))
    else s
/-- Advance for as long as tokens are closed. -/
def advanceTokens (s : State) (domain tile u : Nat) : State := advanceToken domain tile u (s.units.closed.length + 1) s

/-- The effect of `tokacq`. -/
def tokacqBody (f : FmtE) (t : State) : Res :=
  let g := t.cur
  let domain := (sreg (me t) f.a.toNat).toNat
  let tile := (sreg (me t) f.b.toNat).toNat
  if !domainGranted t g domain || !tileOk tile then deferBad t
  else .next (advance (addOp t
    { g := g, kind := .token domain tile, issuedAt := t.clock, du := [f.d.toNat], handler := handlerOf (me t) }) g)

/-- `tokacq`: takes the next token of a tile. -/
def execTokacq (f : FmtE) (s : State) : Res := issueOn none false (sigTokacqOf f) (tokacqBody f) s

/-- `TOKACQ_PERFORMED`: the tile's home returns the count and adds one, for the tile's earliest operation of the group. -/
def execTokacqPerformed (o : Nat) (s : State) : Res :=
  let x := op s o
  match x.kind with
  | .token domain tile =>
    let sameTile (i : Nat) : Bool := match (op s i).kind with
      | .token m t => m == domain && t == tile
      | _ => false
    if x.finished ∨ (List.range o).any (fun i => (op s i).g == x.g && !(op s i).finished && sameTile i) then .next s
    else
      let v := tokenCount s domain tile
      let s1 := modUnits s (fun u => { u with counts := mapSet 0 (screenKey domain tile) ((v + 1) % 2 ^ 32) u.counts })
      .next (completeOp (modGrp s1 x.g (fun y => x.du.foldl (fun y n => setSreg n (BitVec.ofNat 32 v) y) y)) o)
  | _ => .next s

/-- `tokskip` at one unit: none when the token cannot be closed there (R444). -/
def skipAt (s : State) (g domain tile token u : Nat) : Option State :=
  if !tokenTaken s g domain tile token || decide (token < tokenNow s domain tile u) ||
      s.units.closed.contains (unitKey domain tile u, token) then none
  else some (advanceTokens (closeToken s domain tile u token) domain tile u)

/-- The effect of `tokskip`. -/
def tokskipBody (f : FmtE) (t : State) : Res :=
  let g := t.cur
  let domain := (sreg (me t) f.a.toNat).toNat
  let token := (sreg (me t) f.b.toNat).toNat
  let tile := (sreg (me t) (f.b.toNat + 1)).toNat
  let units := [0, 1].filter (fun u => f.op.getLsbD u)
  let bad := units.any (fun u => (skipAt t g domain tile token u).isNone)
  let s1 := units.foldl (fun s u => (skipAt s g domain tile token u).getD s) t
  if bad then deferBad s1 else .next (advance s1 g)

/-- `tokskip`: closes a token at the named units. -/
def execTokskip (f : FmtE) (s : State) : Res := issueOn none false (sigTokskipOf f) (tokskipBody f) s

/-! ## `callq` (R327, R328, R331) -/

/-- Payload registers of a unit (Table 16-5); a unit field of 3 has none, and its a names one register. -/
def payloadCount (u : Nat) : Nat := if u = 0 then 3 else if u = 1 then 6 else if u = 2 then 2 else 1

/-- The operands of a `callq`, by the unit field of its call word: until that word can be read, only the fields that do not depend on
it.
DEDUCED: notes/assumptions/42.md. -/
def callqSig (s : State) (f : FmtE) : Sig :=
  let b := f.b.toNat
  let readable := decide (b < uniCount s s.cur) && s.ops.all (fun x => x.g != s.cur || x.finished || !x.du.contains b)
  let u := callUnit (sreg (me s) b).toNat
  if readable then
    { sigCallqOf f with a := .vec f.a.toNat (payloadCount u) 1, c := if u = 2 then unusedF f.c else .uni f.c.toNat 2 2 }
  else { sigCallqOf f with c := .unused true }

/-- Records in a unit's queue (R331). -/
def queuedRecords (s : State) (die u : Nat) : Nat :=
  s.units.batches.foldl (fun n b => if b.die = die ∧ b.kind = u ∧ !b.held ∧ b.bad.isNone then n + b.records.length else n) 0
/-- Wait object of block code 6. -/
def queueObject (die u : Nat) : Nat := u + 256 * die
/-- Groups that wait for room in a unit's queue. -/
def queueWaiters (s : State) (obj : Nat) : List Nat :=
  (List.range s.groups.length).filter (fun g => (grp s g).wait.code == 6 && (grp s g).wait.obj == obj && onCore s g)

/-- The effect of `callq`; `served` says that it is its turn for room. -/
def callqBody (served : Bool) (f : FmtE) (t : State) : Res :=
  let g := t.cur
  let x := me t
  let off := (sreg x f.d.toNat).toNat
  let w := (sreg x f.b.toNat).toNat
  let u := callUnit w
  let token := if u < 2 then (sreg x f.c.toNat).toNat else 0
  let tile := if u < 2 then (sreg x (f.c.toNat + 1)).toNat else 0
  let die := if u < 2 then homeDie tile else dieOfCore (coreOf t g)
  let ls := activeLanes t g
  let n := ls.length
  if areaBad t off 32 32 then areaTrap t off
  else if u ≠ 3 ∧ n ≠ 0 ∧ (256 < queuedRecords t die u + n ∨ (!served ∧ queueWaiters t (queueObject die u) ≠ [])) then
    .next (block t g 6 (queueObject die u) n)
  else
    let payload (l : Nat) : List Nat := (List.range (payloadCount u)).map (fun i => (vlane x (f.a.toNat + i) l).toNat)
    let b : Batch :=
      { op := t.ops.length, die, kind := u, word := w, token, tile, acq := acqOf f, area := landingLoc t g off,
        records := if u = 3 then [] else ls.map (fun l => (l, payload l)), taken := u == 3,
        returns := if u = 3 then ls.map (fun l => (l, [5])) else [], errors := if u = 3 then ls.map (fun _ => (5, 0)) else [] }
    let s1 := modUnits (addOp t { g := g, kind := .records, issuedAt := t.clock, path := some 4, counted := true, handler := handlerOf x,
                                  records := n }) (fun y => { y with batches := y.batches ++ [b] })
    .next (advance (if n = 0 then completeOp s1 t.ops.length else s1) g)

/-- `callq`: sends per-lane records as a batch to a depth, blend or tessellator unit. -/
def execCallq (f : FmtE) (s : State) : Res := issueOn (some 4) false (callqSig s f) (callqBody false f) s

/-- `CALLED_QUEUE_ROOM`: the `callq` that has waited longest for a unit's queue enters its records once there is room for them all. -/
def execCalledQueueRoom (g : Nat) (s : State) : Res :=
  let w := (grp s g).wait
  if w.code ≠ 6 ∨ leastBy (fun h => (grp s h).lastIssue) (queueWaiters s w.obj) ≠ some g ∨
      256 < queuedRecords s (w.obj / 256) (w.obj % 256) + w.opnd then .next s
  else match instrAt s g with
    | some (.callq f) => asGroup g (callqBody true f) (unblock s g)
    | _ => .next (unblock s g)

/-! ## The units (R328 to R331, R335, R481, R482) -/

/-- Two batches are for the same unit. -/
def sameUnit (x y : Batch) : Bool := x.die == y.die && x.kind == y.kind
/-- Two batches carry the same token of the same tile. -/
def sameToken (x y : Batch) : Bool := callDomain x.word == callDomain y.word && x.tile == y.tile && x.token == y.token

/-- The batch stands at the head of its unit's queue.
DEDUCED: notes/assumptions/46.md. -/
def queueHead (s : State) (b : Nat) : Bool :=
  let x := batchAt s b
  decide (b < s.units.batches.length) && !batchOver x && !x.held && (List.range b).all (fun i =>
    let y := batchAt s i
    !sameUnit x y || batchOver y || y.held)

/-- The batch is the next that its unit applies for its token: held, or at the head of the queue, with no held one before it. -/
def batchNext (s : State) (b : Nat) : Bool :=
  let x := batchAt s b
  (x.held && !batchOver x || queueHead s b) && (List.range b).all (fun i =>
    let y := batchAt s i
    !sameUnit x y || !sameToken x y || batchOver y || !y.held)

/-- Its acquire is met (R332). -/
def batchAcquired (s : State) (x : Batch) : Bool := acquired s (op s x.op).g x.op x.acq

/-- Every record of a batch returns one status. -/
def failBatch (s : State) (b st : Nat) : State :=
  modBatch s b (fun x => { x with taken := true, held := false, bad := some st, records := [],
                                  returns := x.returns ++ x.records.map (fun p => (p.1, [st])),
                                  errors := x.errors ++ x.records.map (fun _ => (st, 0)) })

/-- A call word has a value that its unit reserves (Table 16-4). -/
def callReserved (w : Nat) : Bool :=
  bitField w 22 10 != 0 || bitField w 14 2 != 0 ||
    (match callUnit w with
      | 0 => decide (7 < callFn w)
      | 1 => bitOf w 12 || decide (2 < callFn w)
      | _ => bitOf w 12 || decide (1 < callFn w) || callDomain w != 0 || callBinding w != 0)

/-- The surface a record names on its die. -/
def surfaceOf (s : State) (x : Batch) : Binding := mapGet {} s.latched.bindings (64 * x.die + callBinding x.word)
/-- Bytes of a sample. -/
def sampleSize (b : Binding) : Nat := if b.format = 2 then 8 else 4
/-- Location of a sample (R326). -/
def sampleLoc (b : Binding) (x y : Nat) : Nat := b.base + y * b.pitch + x * sampleSize b

/-- The status with which a depth or blend record fails before it reaches its surface.
DEDUCED: notes/assumptions/43.md. -/
def recordFault (s : State) (b : Batch) (p : List Nat) : Option Nat :=
  let f := surfaceOf s b
  let (x, y) := (p.getD 0 0, p.getD 1 0)
  if callReserved b.word || (f.width != 0 && (if b.kind = 0 then f.format != 0 else f.format == 0)) then some 5
  else if x / 8 ≠ bitField b.tile 0 16 ∨ y / 8 ≠ bitField b.tile 16 16 then some 2
  else if f.width ≤ x ∨ f.height ≤ y ∨ !physOk s.poundSize (sampleLoc f x y) (sampleSize f) then some 3
  else none

/-- The depth test (R329). -/
def depthPass (fn z old : Nat) : Bool := if fn = 6 then true else if fn = 7 then false else floatCond fn (fdecode f32 z) (fdecode f32 old)

/-- 255, and c/255 in f32 for an n8 value. -/
def v255 : FVal := fofInt 255
def n8ToF32 (c : Nat) : Nat := toF32 (quotient c 255)

/-- The result of a blend for one channel, with each colour scaled: `one` is 1 at that scale, `k` multiplies a source colour to it. -/
def blendChannel (fn : Nat) (scale : FVal → FVal) (sc sa dc : FVal) (alpha : Bool) : FVal :=
  let rest := (fadd .rne (fofInt 1) (fneg sa)).1
  match fn with
  | 0 => scale sc
  | 1 => (fadd .rne (if alpha then scale sc else scale (fmul sc sa).1) (fmul dc rest).1).1
  | _ => (fadd .rne (scale sc) dc).1

/-- An n8 channel from a value at scale 255: clamped, a NaN 0, and rounded. -/
def storeN8 (v : FVal) : Nat := match v with
  | .nan => 0
  | .inf neg => if neg then 0 else 255
  | .fin neg m e => if neg then 0 else min 255 (roundInt .rne false m e).1

/-- What a blend stores and returns: the sample's new bytes, and r, g, b, a in f32 (R329). -/
def blendResult (fn format : Nat) (src : List Nat) (old : Nat) : Nat × List Nat :=
  let s (i : Nat) : FVal := fdecode f32 (src.getD i 0)
  if format = 1 then
    let q := (List.range 4).map (fun i =>
      storeN8 (blendChannel fn (fun v => (fmul v v255).1) (s i) (s 3) (fofInt (bitField old (8 * i) 8)) (i == 3)))
    (bytesLE (q.map (BitVec.ofNat 8)), q.map n8ToF32)
  else
    let h := (List.range 4).map (fun i =>
      (fdeliver f16 .rne false (blendChannel fn id (s i) (s 3) (fdecode f16 (bitField old (16 * i) 16)) (i == 3))).1)
    (h.foldr (fun x acc => x + 2 ^ 16 * acc) 0, h.map (fun x => toF32 (fdecode f16 x)))

/-- A record leaves its unit with a return record's words, and a failure, if it is one. -/
def returnRecord (s : State) (b lane : Nat) (words : List Nat) (addr : Nat) : State :=
  let st := words.headD 0
  modBatch s b (fun x => { x with taken := true, records := x.records.filter (fun p => p.1 != lane), returns := x.returns ++ [(lane, words)],
                                  errors := if st = 0 then x.errors else x.errors ++ [(st, addr)] })

/-- Apply one record as one read-modify-write of its sample. -/
def applyRecord (s : State) (b lane : Nat) (p : List Nat) : State :=
  let x := batchAt s b
  let f := surfaceOf s x
  let loc := sampleLoc f (p.getD 0 0) (p.getD 1 0)
  match recordFault s x p with
  | some st => returnRecord s b lane [st] 0
  | none =>
    let touch (s : State) (n : Nat) : State := touchHome s (coreOf s (op s x.op).g) loc n true
    if x.kind = 0 then
      let z := p.getD 2 0
      match rmw s loc 4 true (fun old => if depthPass (callFn x.word) z old ∧ bitOf x.word 12 then some z else none) with
      | (s1, .error e) => returnRecord s1 b lane [4] (e.addr % 2 ^ 52)
      | (s1, .ok old) => returnRecord (touch s1 4) b lane [0, (depthPass (callFn x.word) z old).toNat, old, x.token] 0
    else
      let blend (old : Nat) := blendResult (callFn x.word) f.format (p.drop 2) old
      match rmw s loc (sampleSize f) true (fun old => some (blend old).1) with
      | (s1, .error e) => returnRecord s1 b lane [4] (e.addr % 2 ^ 52)
      | (s1, .ok old) => returnRecord (touch s1 (sampleSize f)) b lane (0 :: (blend old).2) 0

/-- A batch that its unit has finished closes its token, if its last bit is set, and the tile's token advances. -/
def batchDone (s : State) (b : Nat) : State :=
  let x := batchAt s b
  if !batchOver x then s
  else
    let s1 := if callLast x.word then closeToken s (callDomain x.word) x.tile x.kind x.token else s
    advanceTokens s1 (callDomain x.word) x.tile x.kind

/-- How a depth or blend unit finds a batch's token (R335). -/
inductive TokenState where
  | current
  | later
  | wrong
deriving DecidableEq, Repr
/-- The state of a batch's token. -/
def tokenState (s : State) (x : Batch) : TokenState :=
  let c := tokenNow s (callDomain x.word) x.tile x.kind
  if !tokenTaken s (op s x.op).g (callDomain x.word) x.tile x.token || decide (x.token < c) then .wrong
  else if x.token = c then .current else .later

/-- `CALLED_RECORD_APPLY`: the unit applies the next record of a batch that carries the current token; a batch without records closes its
token, and one with a wrong token is answered whole. -/
def execCalledRecordApply (b : Nat) (s : State) : Res :=
  let x := batchAt s b
  if 1 < x.kind ∨ !batchNext s b ∨ !batchAcquired s x then .next s
  else match tokenState s x with
    | .later => .next s
    | .wrong => .next (failBatch s b 1)
    | .current => match x.records with
      | [] => .next (batchDone (modBatch s b (fun x => { x with taken := true })) b)
      | (lane, p) :: _ =>
        let f := surfaceOf s x
        if (recordFault s x p).isNone && !unlocked s noOp (sampleLoc f (p.getD 0 0) (p.getD 1 0)) (sampleSize f) then .next s
        else .next (batchDone (applyRecord s b lane p) b)

/-- Records a unit's holding store keeps, and those its die's spill region does. -/
def storeRecords : Nat := 16384
def spillRecords : Nat := 4194304
/-- Records of held batches of a unit, of which those beyond its store are spilled. -/
def heldRecords (s : State) (die u : Nat) : Nat :=
  s.units.batches.foldl (fun n b => if b.die = die ∧ b.kind = u ∧ b.held then n + b.records.length else n) 0
/-- Whether a batch of `n` records for a unit still finds room.
DEDUCED: notes/assumptions/47.md. -/
def holdRoom (s : State) (die u n : Nat) : Bool :=
  decide ((heldRecords s die u + n - storeRecords) + (heldRecords s die (1 - u) - storeRecords) ≤ spillRecords)

/-- `BATCH_HELD`: the batch at the head of its unit's queue, whose token is not yet current, moves to the holding store; with the store full
it is refused, and closes its token if it is the last.
DEDUCED: notes/assumptions/44.md. -/
def execBatchHeld (b : Nat) (s : State) : Res :=
  let x := batchAt s b
  if 1 < x.kind ∨ !queueHead s b ∨ tokenState s x ≠ .later then .next s
  else if holdRoom s x.die x.kind x.records.length then .next (modBatch s b (fun x => { x with held := true }))
  else .next (batchDone (failBatch (logGroup s (op s x.op).g 0x0E10 1 x.kind none) b 1) b)

/-- The row and place of triangle `i` in a level of `n` rows still to come (R330). -/
def tessPlace : Nat → Nat → Nat → Nat × Nat
  | 0, r, i => (r, i)
  | n + 1, r, i => if i < 2 * n + 1 then (r, i) else tessPlace n (r + 1) (i - (2 * n + 1))

/-- The coordinates of triangle `i` at level `m`, in units of 1/m. -/
def tessTriangle (m i : Nat) : List Nat :=
  let (r, k) := tessPlace m 0 i
  let j := k / 2
  if k % 2 = 0 then [j, r, j + 1, r, j, r + 1] else [j + 1, r, j + 1, r + 1, j, r + 1]

/-- The return words of a tessellator record. -/
def tessWords (w : Nat) (p : List Nat) : List Nat :=
  let (m, i) := (p.getD 0 0, p.getD 1 0)
  if callReserved w || m = 0 || decide (64 < m) || (callFn w == 1 && decide (m * m ≤ i)) then [5]
  else if callFn w = 0 then [0, m * m]
  else 0 :: (tessTriangle m i).map (fun q : Nat => toF32 (quotient q m))

/-- `TESSELLATOR_RECORD`: the tessellator takes the next record of the batch at the head of its queue. -/
def execTessellatorRecord (b : Nat) (s : State) : Res :=
  let x := batchAt s b
  if x.kind ≠ 2 ∨ !queueHead s b ∨ !batchAcquired s x then .next s
  else match x.records with
    | [] => .next (modBatch s b (fun x => { x with taken := true }))
    | (lane, p) :: _ => .next (returnRecord s b lane (tessWords x.word p) 0)

/-! ## Returns (R332, Table 16-5) -/

/-- One log record for each status among the failed records of a batch. -/
def logBatch (s : State) (b : Nat) : State :=
  let x := batchAt s b
  [1, 2, 3, 4, 5].foldl (fun s st =>
    match x.errors.filter (fun e => e.1 == st) with
    | [] => s
    | (_, a) :: rest => logGroup s (op s x.op).g (0x0E00 + st) 1 (rest.length + 1) (if a = 0 then none else some (2 ^ 63 + a))) s

/-- `RETURN_RECORD_LANDING`: a return record lands as one line event; after the last one `cq` falls. -/
def execReturnRecordLanding (b : Nat) (s : State) : Res :=
  let x := batchAt s b
  match x.returns with
  | [] => .next s
  | (lane, words) :: _ =>
    let loc := x.area + 32 * lane
    if !unlocked s noOp loc 32 then .next s
    else
      let bytes := (List.range 8).flatMap (fun i => toBytesLE 4 (words.getD i 0))
      let s1 := touchHome (writeLocBytes (checkWrite s loc 32).1 loc bytes (some true)) (coreOf s (op s x.op).g) loc 32 true
      .next (countRecord (modBatch s1 b (fun x => { x with returns := x.returns.drop 1 })) x.op (fun s => completeOp (logBatch s b) x.op))

end Sys2Proof.Machine
end

