-- ==== Sys2Proof/Machine/Fetch.lean ====
section
/-!
DEFINITION. What a group does between two instructions: the errors and traps due at the boundary, entering a clause, fetching,
breakpoints, and the checks of R422 that come before an instruction's own (R138 to R143, R151, R409, R413, R416, R422, R498, R499).
-/
namespace Sys2Proof.Machine

/-- The group can act: as `canIssue`, whether or not it is inside a clause. -/
def runnable (s : State) (g : Nat) : Bool :=
  let x := grp s g
  x.live != 0 && !x.ended && !x.ending && !x.halted && x.wait.code == 0 && x.filling.isNone && decide (x.sleepUntil ≤ s.clock) &&
    x.active && x.returning == 0 && !spent x && (teamOf s g).phase == .resident

/-- Enter the clause the pc names (R140): fetch its header and its words, check them, and block on its wait. -/
def enterClause (s : State) (g : Nat) : State :=
  let x := grp s g
  let h := pcHeader x.pc
  match fetching s g h with
  | (s1, none) => takeTrap s1 g 7 0 (some h)
  | (s1, some w) => match readClause s1 g h w with
    | (s2, none) => takeTrap s2 g 1 0x0200 none
    | (s2, some (c, ws)) =>
      let s3 := modGrp s2 g (fun x => { x with clause := some c, words := ws, yielding := x.yielding.filter (fun p => p.1 != h) })
      if c.wpath < 6 ∧ c.wthresh < counter x.counters c.wpath then block s3 g 5 c.wpath c.wthresh else s3

/-- The lowest mailbox breakpoint that matches the instruction the pc names (R498). -/
def breakpointAt (s : State) (g : Nat) : Option Nat :=
  let x := grp s g
  if isQuayCore (coreOf s g) ∨ (gridOf s g).ctx ≠ s.dbg.dctx ∨ x.intrap ∨ x.resumed then none
  else (s.dbg.breaks.find? (fun b => b.2.1 == x.pc && (b.2.2 == 0xFF || b.2.2 == x.gid))).map (·.1)

/-- What is due at an instruction boundary before the next instruction is looked at, if anything. -/
def boundary (s : State) (g : Nat) : Option State :=
  let x := grp s g
  if !runnable s g then some s
  else if x.doomed.isSome then some (doubleFault s g (x.doomed.getD 0))
  else if x.slotFault.isSome then
    let f := x.slotFault.getD (0, 0)
    some (takeTrap (modGrp s g (fun x => { x with slotFault := none })) g 6 f.1 (some f.2))
  else if !x.intrap ∧ x.pending ≠ [] then some (takePending s g)
  else if x.stepping = some true then
    some (takeTrap (modGrp s g (fun x => { x with stepping := none })) g 2 0x0200 none)
  else none

/-- Whether an instruction stands where R143 forbids it: one that ends its clause, not last in it. -/
def misplaced (c : Clause) (i : Nat) (w : DWord) : Bool := endsClause (opcodeOf w) && decide (i + 1 < c.count)

/-- A quay core does not execute an allocated instruction word: of classes 4 and 8, of class 7 but for the list of R318, or of class 6 on the
FP64 lanes (R319). -/
def quayLeaves (w : DWord) : Bool :=
  let o := opcodeOf w
  let op := w.toNat % 256
  match classOfOpcode o with
  | 4 => true
  | 8 => true
  | 7 => !([0xE0, 0xE1, 0xE8, 0xE9, 0xEA, 0xEB, 0xEE, 0xEF, 0xFA].contains o)
  | 6 => (o == 0xD0 && (op / 16 == 0xE || op % 16 == 0xE)) || ((o == 0xD5 || o == 0xD6) && op / 4 % 8 == 5)
  | _ => false

/-- Two classes form an allowed pair (Table 7-9). -/
def pairClasses (a b : Nat) : Bool := decide (2 ≤ a ∧ a ≤ 5 ∧ 2 ≤ b ∧ b ≤ 5) && a != b

/-- The rule of pairs (R151), after the operand checks of both members. -/
def pairOk (a b : Sig) : Bool :=
  pairClasses a.cls b.cls &&
    (sigVecReads a).all (fun n => (sigVecReads b).all (fun m => n % 4 != m % 4)) &&
    decide ((sigVecReads a).length + (sigVecReads b).length ≤ 3) &&
    (sigVecWrites a).all (fun n => !(sigVecs b).contains n) &&
    (sigUniWrites a).all (fun n => !(sigUniReads b ++ sigUniWrites b).contains n)

/-- What the group does next. -/
inductive NextUp where
  /-- no instruction issues: this state follows -/
  | act (s : State)
  /-- one instruction -/
  | one (i : Instr)
  /-- the two members of a pair, which issue together -/
  | two (i j : Instr)
deriving Repr

/-- The trap of a word `i` that could not be fetched, one of a pair included: it names that word (R408, R422). -/
def fetchTrap (s : State) (g i : Nat) : State :=
  let h := pcHeader (grp s g).pc
  takeTrap (modGrp s g (fun x => { x with pc := mkPc h i })) g 7 0 (some (pcInstr (mkPc h i)))

/-- The next instruction of group `g` or what comes about in its place, in the order of R422. -/
def nextUp (s : State) (g : Nat) : NextUp :=
  let x := grp s g
  match boundary s g with
  | some t => .act t
  | none => match x.clause with
    | none => .act (enterClause s g)
    | some c =>
      let i := pcIndex x.pc
      match wordAt x i with
      | none => .act (fetchTrap s g i)
      | some w =>
        if bitOf c.pair i && (wordAt x (i + 1)).isNone then .act (fetchTrap s g (i + 1))
        else match breakpointAt s g with
        | some n => .act (takeTrap s g 2 (0x0100 + n) none)
        | none =>
          if misplaced c i w then .act (takeTrap s g 1 0x0201 none)
          else if !bitOf c.pair i then .one (instrOf w)
          else match wordAt x (i + 1) with
            | none => .act (fetchTrap s g (i + 1))
            | some w2 => match sigOf (widthOf s g) (instrOf w) with
              | none => .one (instrOf w)
              | some a =>
                if isQuayCore (coreOf s g) ∧ quayLeaves w then .act (raiseReturn s g)
                else if (sigDetail x.budget (uniCount s g) a).isSome then .one (instrOf w)
                else match sigOf (widthOf s g) (instrOf w2) with
                  | none => .act (takeTrap s g 1 (0x0100 + opcodeOf w2) none)
                  | some b =>
                    if isQuayCore (coreOf s g) ∧ quayLeaves w2 then .act (raiseReturn s g)
                    else if misplaced c (i + 1) w2 then .act (takeTrap s g 1 0x0201 none)
                    else match sigDetail x.budget (uniCount s g) b with
                      | some d => .act (takeTrap s g 1 d none)
                      | none =>
                        if !pairOk a b then .act (takeTrap s g 1 0x0202 none)
                        else match readiness s g none a with
                          | .go => match readiness s g none b with
                            | .go => match makeRoom g (regSet (sigVecs a ++ sigVecs b))
                                (freshDests s g a ||| freshDests s g b) 32768 s with
                              | (t, true) => if t = s then .two (instrOf w) (instrOf w2) else .act t
                              | (t, false) => .act t
                            | r => .act (notReady s g b r)
                          | r => .act (notReady s g a r)

end Sys2Proof.Machine
end

