-- ==== Sys2Proof/Machine/Life.lean ====
section
/-!
DEFINITION. What comes about at a group's instruction boundaries, its wake-ups, the active set and its end, as events
(R23, R42, R140, R171 to R173, R354, R356, R409, R413 to R416, R498, R499), and the pound controller's own step (R110).
-/
namespace Sys2Proof.Machine

/-- An unallocated opcode: the illegal-instruction trap with detail 0x0100 plus the opcode, on quay cores as well (R171, R173).
DEDUCED: notes/assumptions/101.md. -/
def execUnallocatedOpcode (word : DWord) (s : State) : Res :=
  .next (if canIssue s s.cur then takeTrap s s.cur 1 (0x0100 + opcodeOf word) none else s)

/-- `CLAUSE_ENTRY`: with nothing due at the boundary, the group enters the clause its pc names. -/
def execClauseEntry (g : Nat) (s : State) : Res :=
  .next (if (boundary s g).isNone ∧ (grp s g).clause.isNone then enterClause s g else s)

/-- `DEFERRED_TRAP`: one trap answers every error pending at the boundary (R409). -/
def execDeferredTrap (g : Nat) (s : State) : Res :=
  let x := grp s g
  .next (if runnable s g && x.doomed.isNone && x.slotFault.isNone && !x.intrap && x.pending != [] then takePending s g else s)

/-- `DOUBLE_FAULT`: a deferred error of the handler's own halts the group at the boundary (R413). -/
def execDoubleFault (g : Nat) (s : State) : Res :=
  .next (match if runnable s g then (grp s g).doomed else none with
    | some c => doubleFault s g c
    | none => s)

/-- 100 ms in nanoseconds. -/
def ms100 : Nat := 100000000

/-- The end of a halted group (R414). -/
def endHalted (s : State) (g : Nat) : State := endGroup (logGroup s g 0x01F5 2 0 none) g

/-- `HALTED_GROUP_TIMEOUT`: 100 ms after its halt, without debug hold, a halted group is ended, wherever its team is (R414, R501); one on a
quay core at once (R479). -/
def execHaltedGroupTimeout (g : Nat) (s : State) : Res :=
  let x := grp s g
  .next (if x.halted && (isQuayCore (coreOf s g) || (!s.dbg.hold && decide (x.haltedAt + ms100 ≤ timeOf s))) then endHalted s g else s)

/-- `BREAKPOINT_MATCH`: an armed breakpoint names the next instruction, which can be fetched (R498). -/
def execBreakpointMatch (g : Nat) (s : State) : Res :=
  let x := grp s g
  if (boundary s g).isNone ∧ x.clause.isSome ∧ (wordAt x (pcIndex x.pc)).isSome then
    match breakpointAt s g with
    | some n => .next (takeTrap s g 2 (0x0100 + n) none)
    | none => .next s
  else .next s

/-- `STEP_TRAP`: after one stepped instruction, before the next (R499). -/
def execStepTrap (g : Nat) (s : State) : Res :=
  let x := grp s g
  .next (if runnable s g && x.doomed.isNone && x.slotFault.isNone && (x.intrap || x.pending == []) && x.stepping == some true then
    takeTrap (modGrp s g (fun x => { x with stepping := none })) g 2 0x0200 none
  else s)

/-- `SLOT_WRITE_FAILURE`: the write of a victim's value to its slot fails (R416). -/
def execSlotWriteFailure (g reg : Nat) (s : State) : Res :=
  .next (if residentGroup s g && takeable s g reg then
    match writeSlot s g reg with
    | (s1, some e) => slotWriteFailed s1 g reg e
    | (_, none) => s
  else s)

/-- `REGISTER_FILL_DONE`: the fill of a backed register ends; a failed one leaves it backed and is cause 0x06 of the instruction that
waits for it (R49, R415). -/
def execRegisterFillDone (g reg : Nat) (s : State) : Res :=
  let x := grp s g
  if x.filling ≠ some reg then .next s
  else
    let bit : BitVec 256 := BitVec.ofNat 256 (2 ^ reg)
    match readSlot s g reg with
    | (s1, none) => .next (modGrp s1 g (fun x =>
        { x with filling := none, mapped := x.mapped ||| bit, fillFailed := x.fillFailed &&& ~~~ bit, readyStamp := some s.clock }))
    | (s1, some e) => .next (takeTrapBy (modGrp s1 g (fun x =>
        { x with filling := none, fillFailed := x.fillFailed ||| bit, readyStamp := some s.clock })) g
        { cause := 6, detail := reg, addr := some (slotAddr s g reg), flags := errFlags e })

/-- `SLEEP_EXPIRY`: a sleeping group is ready once its clocks have passed (R199). -/
def execSleepExpiry (g : Nat) (s : State) : Res :=
  let x := grp s g
  .next (if x.sleepUntil ≠ 0 ∧ x.sleepUntil ≤ s.clock then
    modGrp s g (fun x => { x with sleepUntil := 0, readyStamp := some s.clock }) else s)

/-- Groups in a partition's active set. -/
def activeGroups (s : State) (core part : Nat) : List Nat :=
  (partitionGroups s core part).filter (fun g => (grp s g).active && residentGroup s g)
/-- Places of an active set (R354). -/
def activeMax : Nat := 8

/-- `ACTIVE_SET_ENTRY`: when a place is free, the ready pending group with the earliest ready stamp enters (R354). -/
def execActiveSetEntry (core part : Nat) (s : State) : Res :=
  .next (if (activeGroups s core part).length < activeMax then
    match oldestReady s (partitionGroups s core part) with
    | some g => enterActive s g
    | none => s
  else s)

/-- `PENDING_STARVATION`: a pending group that has been ready for 2,048 clocks takes the place of the active group with the earliest
entry stamp, which leaves at the end of its clause (R356). -/
def execPendingStarvation (core part : Nat) (s : State) : Res :=
  match oldestReady s (partitionGroups s core part), leastBy (fun g => (grp s g).entryStamp) (activeGroups s core part) with
  | some h, some g =>
    .next (if (grp s h).readyStamp.getD s.clock + 2048 ≤ s.clock ∧ activeMax ≤ (activeGroups s core part).length ∧
        (grp s g).clause.isNone then
      enterActive (modGrp s g (fun x => { leaveActive x with readyStamp := some s.clock })) h
    else s)
  | _, _ => .next s

/-- A group leaves every flight it is a member of (R42). -/
def leaveFlights (s : State) (w : Party) : State :=
  (s.sync.flights.filter (fun p => (memberOf p.2 w).isSome)).foldl (fun s p => setFlight s p.1 (dropMember (flight s p.1) w)) s

/-- Key of an entry point's density history. -/
def entryKey (code entry : Nat) : Nat := 2 ^ 57 * code + entry

/-- A retired group's density enters the history of its entry point (R23). -/
def noteDensity (s : State) (g : Nat) : State :=
  let x := grp s g
  if x.vecIssued = 0 then s
  else
    let k := entryKey (gridOf s g).code (teamOf s g).entry
    { s with density := mapSet [] k (((x.vecLanes, x.vecIssued * widthOf s g) :: mapGet [] s.density k).take 64) s.density }

/-- The group's end can be completed: its counters are zero, nothing of it is pinned, and no arrival or `wclose` of it is still held. -/
def endReady (s : State) (g : Nat) : Bool :=
  let x := grp s g
  x.ending && !x.ended && countersZero x.counters && s.pins.all (fun p => p.g != g) &&
    s.ops.all (fun y => y.g != g || y.finished || (match y.kind with
      | .close _ => false
      | _ => (heldFlight y).isNone))

/-- `GROUP_END`: the group leaves its flights, its wait-table entries are cancelled, and its registers and slot are released (R42). An
error that it can no longer take is answered by its record (R393, R413). -/
def execGroupEnd (g : Nat) (s : State) : Res :=
  if !endReady s g then .next s
  else
    let x := grp s g
    let s1 := x.pending.foldl (fun s d => logGroupBy s g (0x0100 + d.cause) 2 d) s
    let s2 := noteDensity (leaveFlights s1 (.group g)) g
    let s3 := spillClear { s2 with sync := { s2.sync with armed := s2.sync.armed.filter (fun e => e.g != g) } } g
    .next (modGrp s3 g (fun x => { x with ended := true, active := false, pending := [], mapped := 0 }))

/-- `POUND_ACCESS`: the pound controller serves an access of another agent to one 64-byte unit of LPDDR6 (R110). Data that is
uncorrectable is logged. -/
def execPoundAccess (addr : Nat) (write : Bool) (data : Nat) (s : State) : Res :=
  let a := addr / 64 * 64
  match if 0 < s.poundSize ∧ unlocked s noOp a 64 then regionOf s.poundSize a else .hole with
  | .lpddr _ => match poundStep s a 64 write true with
    | (s1, some b) => .next (logAccErr s1 none a (.data b))
    | (s1, none) => .next (if write then writeLoc s1 a 64 data none else s1)
  | _ => .next s

end Sys2Proof.Machine
end

