-- ==== Sys2Proof/Machine/Image.lean ====
section
/-!
DEFINITION. The context image of a group, and writing a group to its backing region (spec/03_programmer_state.md, R62 to R65, Tables 3-7 and
3-8).
-/
namespace Sys2Proof.Machine

/-- Bytes of an image. -/
def imageSize : Nat := 0x600
/-- Zero bytes. -/
def zeros (n : Nat) : List Byte := List.replicate n 0

/-- Write bytes at a device address of a space: whether every byte of them could be written. -/
def writeSpan (s : State) (sp : Space) (addr : Nat) (bs : List Byte) : State × Bool :=
  match locateAll sp { write := true } (pieces addr bs.length) s with
  | (s1, .error _) => (s1, false)
  | (s1, .ok ps) => match writeAll s1 ps bs with
    | (s2, e) => (s2, e.isNone)

/-- Read `n` bytes at a device address of a space. -/
def readSpan (s : State) (sp : Space) (addr n : Nat) : State × Except AccErr (List Byte) :=
  match locateAll sp { read := true } (pieces addr n) s with
  | (s1, .error (_, e)) => (s1, .error e)
  | (s1, .ok ps) => match readAll s1 ps with
    | (s2, .error (_, b)) => (s2, .error (.data b))
    | (s2, .ok bs) => (s2, .ok bs)

/-! ## The image (Tables 3-7 and 3-8) -/

/-- The state word of a group that is saved. -/
def stateWord (x : Group) : Nat :=
  1 + 2 * x.intrap.toNat + (if x.wait.code = 0 then 0 else 4) + 8 * x.halted.toNat + 16 * (x.wait.code % 32)

/-- A loop register's bytes. -/
def loopBytes (l : LoopReg) : List Byte := toBytesLE 8 l.start.toNat ++ toBytesLE 8 l.stop.toNat ++ toBytesLE 4 l.count.toNat ++ zeros 12

/-- Width code of Table 7-15. -/
def widthCode (w : Nat) : Nat := if w = 8 then 0 else if w = 16 then 1 else if w = 32 then 2 else 3

/-- The image of group `g`. -/
def imageBytes (s : State) (g : Nat) : List Byte :=
  let x := grp s g
  [1] ++ toBytesLE 1 (widthCode (widthOf s g)) ++ toBytesLE 1 x.role ++ toBytesLE 1 x.gid ++ toBytesLE 4 (teamOf s g).teamid ++
    toBytesLE 4 (stateWord x) ++ toBytesLE 1 x.launched ++ zeros 3 ++ toBytesLE 8 x.pc.toNat ++ toBytesLE 8 x.exec.toNat ++
    toBytesLE 8 x.live.toNat ++ zeros 8 ++ toBytesLE 4 x.fpctl.toNat ++ toBytesLE 4 x.fpflags.toNat ++ toBytesLE 8 x.trapbase.toNat ++
    toBytesLE 8 x.trappc.toNat ++ toBytesLE 8 x.trapexec.toNat ++ toBytesLE 4 x.trapcause.toNat ++ toBytesLE 4 x.trapen.toNat ++
    toBytesLE 8 x.faultaddr.toNat ++ toBytesLE 8 x.wait.obj ++ toBytesLE 4 x.wait.opnd ++ zeros 4 ++ toBytesLE 8 x.backing ++
    toBytesLE 8 x.spill.toNat ++ loopBytes x.lc0 ++ loopBytes x.lc1 ++ loopBytes x.lc2 ++ loopBytes x.lc3 ++
    toBytesLE 32 x.written.toNat ++ zeros 224 ++ (List.range 256).flatMap (fun n => toBytesLE 4 (sreg x n).toNat)

/-- The image of a group that has never been saved reads as zero (R65): it is cleared when the group starts, where it can be reached. -/
def clearImage (s : State) (g : Nat) : State := (writeSpan s (backSpace s g) (grp s g).backing (zeros imageSize)).1

/-! ## Saving (R65, R92) -/

/-- Write every mapped register of group `g` to its slot, up to the first whose slot cannot be written: that register, and why. -/
def saveRegs (g : Nat) : List Nat → State → State × Option (Nat × AccErr)
  | [], s => (s, none)
  | n :: t, s =>
    if !regIn (grp s g).mapped n then saveRegs g t s
    else match writeSlot s g n with
      | (s1, some e) => (s1, some (n, e))
      | (s1, none) => saveRegs g t s1

/-- Write back the spill-stack bytes of a list. -/
def saveSpillBytes (g : Nat) : List (Nat × Option Byte) → State → State × Bool
  | [], s => (s, true)
  | (_, none) :: t, s => saveSpillBytes g t s
  | (a, some b) :: t, s => match writeSpan s (backSpace s g) (a - 2 ^ 62 - g * 2 ^ 57) [b] with
    | (s1, false) => (s1, false)
    | (s1, true) => saveSpillBytes g t s1

/-- The full/empty bits of `n` bytes of scratchpad, packed as R66. -/
def fullBytes (s : State) (loc n : Nat) : List Byte :=
  packBytes 1 ((List.range (n / 4)).map (fun i => (isFull s (loc + 4 * i)).toNat))
/-- Set the full/empty bits of `n` bytes of scratchpad from packed ones. -/
def setFullBytes (s : State) (loc n : Nat) (b : List Byte) : State :=
  { s with full := (List.range (n / 4)).foldl (fun m w => mapSet false (loc / 4 + w) (bitOf (recField b (w / 8) 1) (w % 8)) m) s.full }

end Sys2Proof.Machine
end

