-- ==== Sys2Proof/Machine/Matrix.lean ====
section
/-!
DEFINITION. The matrix engine: `fork` and `rdv`, the stream words, and the events of an executing `mma`
(spec/14_matrix_engine.md; R36, R85 to R87, R174, R420, R439, R440, R473 to R475).

The value of an `mma` is computed when it starts and written by `MMA_TILE_WRITE`.
-/
namespace Sys2Proof.Machine

/-! ## Runs (R274) -/

/-- Run number `r`. -/
def runAt (s : State) (r : Nat) : Run := s.runs.getD r { team := 0, g := 0, first := 0, pc := 0, ended := true }
/-- Change run `r`. -/
def modRun (s : State) (r : Nat) (f : Run → Run) : State := { s with runs := s.runs.modify r f }
/-- The run a core's sequencer holds; that of a parked team is in its save area (R293, R358). -/
def runOn (s : State) (core : Nat) : Option Nat :=
  (List.range s.runs.length).find? (fun r => !(runAt s r).ended && (team s (runAt s r).team).core == core &&
    (team s (runAt s r).team).phase != .parked)
/-- Scalar k(n). -/
def scalar (x : Run) (n : Nat) : Nat := (mapGet 0 x.scalars n).toNat
/-- Write scalar k(n). -/
def setScalar (n v : Nat) (x : Run) : Run := { x with scalars := mapSet 0 n (BitVec.ofNat 32 v) x.scalars }
/-- Team flights of a 16-bit set. -/
def flightSet (m : Nat) : List Nat := (List.range 16).filter (bitOf m)

/-- Release the pins of a run (R285). -/
def unpin (s : State) (r : Nat) : State := { s with pins := s.pins.filter (fun p => p.run != r) }

/-- A run leaves the flights of its sets; after a halt, a flight without a signaller is broken (R291, R420). -/
def leaveRun (r code : Nat) : List Nat → State → State
  | [], s => s
  | f :: t, s =>
    let k := teamFlight (runAt s r).team f
    let was := ((memberOf (flight s k) (.run r)).map signaller).getD false
    let F := dropMember (flight s k) (.run r)
    leaveRun r code t (setFlight s k
      (if code ≠ 0 ∧ was ∧ !F.members.any signaller then { F with broken := some (code % 256) } else F))

/-- A blocked `flwait` is undone: its group stands before it, with the loop registers of then (R420); a group over whose wait a trap was
entered stands before it once it returns. -/
def undoWait (x : Group) : Group :=
  x.waitLoops.zipIdx.foldl (fun x p => setLoopReg p.2 p.1 x)
    (if x.waitUnder then { x with trappc := x.waitPc } else { x with pc := x.waitPc, clause := none })
/-- It meets the broken flight: cause 0x0E, or, in the handler of a trap that was entered over its wait, once it returns. -/
def breakWait (code : Nat) (s : State) (g : Nat) : State :=
  let s1 := unblock (modGrp s g undoWait) g
  if (grp s g).waitUnder then s1 else takeTrap s1 g 0x0E code none

/-- Groups blocked in `flwait` on a broken flight take cause 0x0E, with `%trappc` naming the `flwait`, which has no effect (R420). -/
def breakWaits (s : State) (k : Nat) : State :=
  match (flight s k).broken with
  | none => s
  | some code =>
    ((List.range s.groups.length).filter (waitsOn s k)).foldl (breakWait code) s

/-- End a run with a status code: flights, status, sequencer (R291). -/
def endRun (s : State) (r code pos : Nat) : State :=
  let x := runAt s r
  let fs := flightSet (x.signals ||| x.waits)
  let s1 := leaveRun r code fs (unpin s r)
  let status := code * 2 ^ 24 + pos % 2 ^ 16 * 2 ^ 8 + x.flags
  let s2 := modTeam (modRun s1 r (fun x => { x with status, ended := true, reading := none })) x.team (fun t => { t with lastRun := status })
  releaseHeld (fs.foldl (fun s f => breakWaits s (teamFlight x.team f)) s2)

/-- How a stream word fails: a status code, or, from the state given, data that cannot be read, whose own record has been written (R440,
R458, R474, R475). -/
inductive Halt where
  | code (c : Nat)
  | data (c : Nat) (s : State)
deriving Repr

/-- Halt a run at its present word, with a record of class 1 whose code is 0x0800 plus the status code (R421, R440).
DEDUCED: notes/assumptions/35.md. -/
def haltRun (s : State) (r : Nat) (h : Halt) : State :=
  let x := runAt s r
  let pos := (x.pc - x.first) / 8
  match h with
  | .code c => endRun (logTeam s x.team (0x0800 + c) 1 0 none) r c pos
  | .data c s1 => endRun (logTeam s1 x.team (0x0800 + c) 1 0 none) r c pos

/-! ## `fork` and `rdv` (R275 to R277) -/

/-- The stream address of a `fork`. -/
def forkAddr (t : State) (f : FmtE) : Nat :=
  if f.op.getLsbD 0 then ((teamOf t t.cur).entry + (teamOf t t.cur).hdr.mstream).toNat % 2 ^ 64 else (spair (me t) f.a.toNat).toNat

/-- `fork_ok` of R276. -/
def forkOk (t : State) (f : FmtE) : Bool :=
  let a := forkAddr t f
  let c := codeOf t t.cur
  let map := (sreg (me t) f.c.toNat).toNat
  !(f.op.getLsbD 0 && (teamOf t t.cur).hdr.mstream == 0) && a % 8 == 0 && decide (c.mstream.1 ≤ a) && decide (a < c.mstream.2) &&
    (List.range 4).all (fun q => bitField map (8 * q) 8 == 255 ||
      (decide (bitField map (8 * q) 8 < (teamOf t t.cur).ngroups) && bitField map (8 * q) 8 % 4 == q))

/-- Register a run on a flight (R276): it counts toward the present phase at once, and a new signaller clears a broken mark.
DEDUCED: notes/assumptions/37.md. -/
def joinRun (r signals waits : Nat) (s : State) (f : Nat) : State :=
  let k := teamFlight (runAt s r).team f
  let mode := if bitOf signals f then (if bitOf waits f then 2 else 0) else 1
  let F := flight s k
  setFlight s k (flCheck { F with members := F.members ++ [{ who := .run r, mode }], broken := if mode ≠ 1 then none else F.broken })

/-- Place a run, or reject the `fork`. -/
def forkBody (f : FmtE) (t : State) : Res :=
  let g := t.cur
  let tm := (me t).team
  if !forkOk t f then .next (advance (modTeam t tm (fun x => { x with lastRun := 7 * 2 ^ 24 })) g)
  else
    let sets := (sreg (me t) f.b.toNat).toNat
    let r := t.runs.length
    let signals := sets % 2 ^ 16
    let waits := sets / 2 ^ 16
    let x : Run :=
      { team := tm, g, acq := acqOf f, before := t.ops.length, first := forkAddr t f, pc := forkAddr t f, signals, waits,
        holders := (sreg (me t) f.c.toNat).toNat,
        scalars := (List.range 16).foldl (fun m i => mapSet 0 i (sreg (me t) (f.d.toNat + i)) m) [] }
    let s1 : State := { t with runs := t.runs ++ [x] }
    .next (advance ((flightSet (signals ||| waits)).foldl (joinRun r signals waits) s1) g)

/-- Groups blocked in a `fork` on a core. -/
def forksWaiting (s : State) (core : Nat) : List Nat :=
  (List.range s.groups.length).filter (fun g => (grp s g).wait.code == 7 && coreOf s g == core && onCore s g)

/-- `fork`: starts a stream once the core's sequencer is idle, blocked forks first (R36). -/
def execFork (f : FmtE) (s : State) : Res :=
  issueOn none false (sigForkOf f) (fun t =>
    let c := coreOf t t.cur
    if (runOn t c).isSome ∨ forksWaiting t c ≠ [] then .next (block t t.cur 7 (forkAddr t f) 0) else forkBody f t) s

/-- `FORK_SERVED`: the sequencer is idle, and the earliest blocked `fork` proceeds. -/
def execForkServed (g : Nat) (s : State) : Res :=
  let c := coreOf s g
  if (grp s g).wait.code = 7 ∧ (runOn s c).isNone ∧ leastBy (fun h => (grp s h).lastIssue) (forksWaiting s c) = some g then
    match instrAt s g with
    | some (.fork f) => asGroup g (forkBody f) (unblock s g)
    | _ => .next (unblock s g)
  else .next s

/-- No run of a team among the first `n` is still held by the sequencer. -/
def runsEnded (s : State) (t n : Nat) : Bool :=
  (List.range n).all (fun r => (runAt s r).team != t || (runAt s r).ended)

/-- `rdv`: waits for the team's earlier runs and reads the status of its latest. -/
def execRdv (f : FmtE) (s : State) : Res :=
  issueOn none false (sigRdvOf f) (fun t =>
    let g := t.cur
    if runsEnded t (me t).team t.runs.length then
      .next (advance (modMe t (setSreg f.d.toNat (BitVec.ofNat 32 (teamOf t g).lastRun))) g)
    else
      .next (modGrp (block (advance t g) g 8 0 0) g (fun x => { x with waitReg := f.d.toNat, waitRuns := t.runs.length }))) s

/-- `RDV_RELEASE`: the team's earlier runs have ended. -/
def execRdvRelease (g : Nat) (s : State) : Res :=
  let x := grp s g
  .next (if x.wait.code = 8 ∧ onCore s g ∧ runsEnded s x.team x.waitRuns then
    unblock (modGrp s g (setSreg x.waitReg (BitVec.ofNat 32 (teamOf s g).lastRun))) g
  else s)

/-! ## What stream words share -/

/-- Location of a byte of the team's scratchpad. -/
def runLoc (s : State) (r off : Nat) : Nat := locTeam (team s (runAt s r).team).core ((team s (runAt s r).team).allocBase + off)
/-- `n` bytes at an aligned offset lie in the team's allocation (R280). -/
def runRange (s : State) (r off n align : Nat) : Bool := off % align == 0 && decide (off + n ≤ (team s (runAt s r).team).allocSize)

/-- Record uncorrectable scratchpad data that a stream met (R475). -/
def streamData (s : State) (r : Nat) (b : BadData) : State :=
  let x := team s (runAt s r).team
  let i := grid s x.grid
  logRecord s { seq := 0, time := 0, addr := b.addr, code := b.code, cls := 1, flags := 3, unitKind := b.kind, unit := b.unit,
                context := i.ctx, queue := i.queue.getD 0xFFFF, command := i.command.getD 0xFFFFFFFF, core := x.core, team := x.teamid,
                detail := b.detail }

/-- An access of a run at its homes (R131). -/
def runTouch (s : State) (r off n : Nat) (write : Bool) : State :=
  touchHome s (team s (runAt s r).team).core (runLoc s r off) n write
/-- Read bytes of the team's scratchpad. -/
def runRead (s : State) (r off n : Nat) : Except Halt (State × List Byte) :=
  match checkRead s (runLoc s r off) n with
  | (s1, some b) => .error (.data 3 (streamData s1 r b))
  | (s1, none) => .ok (runTouch s1 r off n false, readBytes s1.mem (runLoc s r off) n)
/-- Write bytes of the team's scratchpad; the words written become full (R280). -/
def runWrite (s : State) (r off : Nat) (bs : List Byte) : Except Halt State :=
  match checkWrite s (runLoc s r off) bs.length with
  | (s1, some b) => .error (.data 3 (streamData s1 r b))
  | (s1, none) => .ok (runTouch (writeLocBytes s1 (runLoc s r off) bs (some true)) r off bs.length true)

/-- Key of element `e` of the tile a run names `z`. -/
def tileKey (s : State) (r z e : Nat) : Nat :=
  let t := team s (runAt s r).team
  4096 * (64 * t.core + t.tileMap.getD z 0) + e
/-- Where the check bits of an accumulator element are kept. -/
def tileLoc (k : Nat) : Nat := 2 ^ 57 + 4 * k

/-- An element as a word that follows sees it: the latest update on its way, or the tile. -/
def tileElem (s : State) (r z e : Nat) : Nat :=
  match (runAt s r).writes.reverse.findSome? (fun w => if w.tile = z then (w.values.find? (fun p => p.1 == e)).map (·.2) else none) with
  | some v => v
  | none => mapGet 0 s.tiles (tileKey s r z e)
/-- Write elements of a tile; a written element is sound (R474). -/
def tilePut (s : State) (r z : Nat) (vs : List (Nat × Nat)) : State :=
  vs.foldl (fun s p => setBad { s with tiles := mapSet 0 (tileKey s r z p.1) (p.2 % 2 ^ 32) s.tiles } (tileLoc (tileKey s r z p.1)) .sound) s

/-- Read the check bits of elements of a team's core, each a physical tile and an element: a correctable or transient error is corrected
and logged; the first lasting one is answered (R474). -/
def tilesSound (t : Nat) : List (Nat × Nat) → State → State × Option (Nat × Nat)
  | [], s => (s, none)
  | (p, e) :: l, s =>
    let x := team s t
    let a := tileLoc (4096 * (64 * x.core + p) + e)
    match badAt s a with
    | .sound => tilesSound t l s
    | .lasting => (s, some (p, e))
    | b => tilesSound t l (logRecord (setBad s a .sound)
        { seq := 0, time := 0, code := 0x0930, cls := 0, flags := if b = .transient then 6 else 0, unitKind := 1, unit := x.core,
          core := x.core, team := x.teamid, detail := p + e * 2 ^ 6 })

/-- Read the check bits of tile elements of a run: a lasting one halts the word (R474). -/
def tileCheck (r : Nat) (es : List (Nat × Nat)) (s : State) : Except Halt State :=
  let t := (runAt s r).team
  match tilesSound t (es.map (fun q => ((team s t).tileMap.getD q.1 0, q.2))) s with
  | (s1, none) => .ok s1
  | (s1, some (p, e)) => .error (.data 3 (logTeam s1 t 0x0931 1 (p + e * 2 ^ 6) none))

/-- Elements of whole tiles. -/
def tileElems (zs : List Nat) : List (Nat × Nat) := if zs = [] then [] else zs.flatMap (fun z => (List.range 4096).map (fun e => (z, e)))

/-- The check of R194 after a stream word at address `h`, with the two stream loops (R290). -/
def streamLoopEnd (h : Nat) (x : Run) : Run :=
  if x.loop1.count ≠ 0 ∧ x.loop1.stop.toNat = h then
    if 1 < x.loop1.count.toNat then { x with loop1 := { x.loop1 with count := x.loop1.count - 1 }, pc := x.loop1.start.toNat }
    else
      let y : Run := { x with loop1 := { x.loop1 with count := 0 } }
      if y.loop0.count ≠ 0 ∧ y.loop0.stop.toNat = h then
        if 1 < y.loop0.count.toNat then { y with loop0 := { y.loop0 with count := y.loop0.count - 1 }, pc := y.loop0.start.toNat }
        else { y with loop0 := { y.loop0 with count := 0 } }
      else y
  else if x.loop1.count = 0 ∧ x.loop0.count ≠ 0 ∧ x.loop0.stop.toNat = h then
    if 1 < x.loop0.count.toNat then { x with loop0 := { x.loop0 with count := x.loop0.count - 1 }, pc := x.loop0.start.toNat }
    else { x with loop0 := { x.loop0 with count := 0 } }
  else x

/-- Move a run past its word. -/
def nextWordOf (s : State) (r : Nat) : State :=
  modRun s r (fun x => streamLoopEnd x.pc { x with pc := x.pc + 8, tile := none })

/-- The run whose sequencer acts, if it can execute a word: its team runs, its acquire is satisfied, and no `mma` still reads. -/
def actingRun (s : State) : Option Nat :=
  match runOn s s.curCore with
  | none => none
  | some r =>
    let x := runAt s r
    let acquired : Bool := match x.acq with
      | none => true
      | some scope => earlierDone s x.g x.before scope true true
    if (team s x.team).phase = .resident ∧ x.reading.isNone ∧ acquired then some r else none

/-- What a word makes of a run. -/
inductive WordRes where
  /-- done: the next word follows -/
  | next (s : State)
  /-- this state follows, at the same word -/
  | stay (s : State)
  | halt (h : Halt)
deriving Repr

/-- Execute a stream word: its fields, then the wait for tile updates on tiles it names, then its effect. A halt waits for the run's
writes (R278, R291, R292). -/
def streamWord (fieldsOk : Bool) (tiles : List Nat) (body : State → Nat → WordRes) (s : State) : Res :=
  match actingRun s with
  | none => .next s
  | some r =>
    let x := runAt s r
    let t := (team s x.team).hdr.ztiles
    let res : WordRes :=
      if !fieldsOk then .halt (.code 1)
      else if tiles.any (fun z => decide (t ≤ z)) then .halt (.code 3)
      else if x.writes.any (fun w => tiles.contains w.tile) then .stay s
      else body s r
    match res with
    | .next s1 => .next (nextWordOf s1 r)
    | .stay s1 => .next s1
    | .halt h => .next (if x.writes ≠ [] then s else haltRun s r h)

/-- Continue with a value, or halt. -/
def orHalt {α : Type} (r : Except Halt α) (k : α → WordRes) : WordRes := match r with
  | .error h => .halt h
  | .ok a => k a

/-- Bit n of a word's modifiers. -/
def zbit (f : FmtZ) (n : Nat) : Bool := f.mods.getLsbD n
/-- A field of a word's modifiers. -/
def zfield (f : FmtZ) (lo len : Nat) : Nat := bitField f.mods.toNat lo len
/-- A scalar field names k0 to k15, and with inc set its successor exists (R278, R279). -/
def scalarOk (n : Byte) (inc : Bool) : Bool := decide (n.toNat < 16) && (!inc || decide (n.toNat ≤ 14))
/-- The update of inc: k(n) := k(n) + k(n + 1) (R279). -/
def stepScalar (n : Nat) (inc : Bool) (x : Run) : Run := if inc then setScalar n (scalar x n + scalar x (n + 1)) x else x

/-! ## Codebooks and tiles (R286 to R288) -/

/-- `mcb`: loads a codebook. -/
def execMcb (f : FmtZ) (s : State) : Res :=
  streamWord (decide (f.d.toNat < 8) && scalarOk f.a (zbit f 13) && f.b == 0 && f.c == 0 && f.mods &&& 0xFFDFFF == 0) [] (fun s r =>
    let off := scalar (runAt s r) f.a.toNat
    if !runRange s r off 32 32 then .halt (.code 3)
    else orHalt (runRead s r off 32) (fun p =>
      .next (modRun p.1 r (fun x => stepScalar f.a.toNat (zbit f 13)
        { x with slots := (List.range 16).foldl (fun m i => mapSet 0 (16 * f.d.toNat + i) (recField p.2 (2 * i) 2) m) x.slots })))) s

/-- Tiles of a word that names d and n − 1. -/
def tileRun (f : FmtZ) : List Nat := (List.range (f.b.toNat + 1)).map (f.d.toNat + ·)

/-- A word over a run of tiles takes one tile at a time, and can be stopped between them (R293).
DEDUCED: notes/assumptions/38.md. -/
def eachTile (f : FmtZ) (one : State → Nat → Nat → State) (s : State) (r : Nat) : WordRes :=
  let z := (runAt s r).tile.getD f.d.toNat
  let s1 := one s r z
  if z < f.d.toNat + f.b.toNat then .stay (modRun s1 r (fun x => { x with tile := some (z + 1) })) else .next s1

/-- `mzero`: writes +0 to tiles. -/
def execMzero (f : FmtZ) (s : State) : Res :=
  streamWord (f.a == 0 && f.c == 0 && f.mods == 0) (tileRun f)
    (eachTile f (fun s r z => tilePut s r z ((List.range 4096).map (fun e => (e, 0))))) s

/-- `mzld`: loads a tile image. -/
def execMzld (f : FmtZ) (s : State) : Res :=
  streamWord (scalarOk f.a (zbit f 13) && f.b == 0 && f.c == 0 && f.mods &&& 0xFFDFFF == 0) [f.d.toNat] (fun s r =>
    let off := scalar (runAt s r) f.a.toNat
    if !runRange s r off 16384 128 then .halt (.code 3)
    else orHalt (runRead s r off 16384) (fun p =>
      .next (modRun (tilePut p.1 r f.d.toNat ((unpack 32 4096 (bytesLE p.2)).zipIdx.map (fun q => (q.2, q.1)))) r
        (stepScalar f.a.toNat (zbit f 13))))) s

/-- `mscal`: scales the elements of tiles. -/
def execMscal (f : FmtZ) (s : State) : Res :=
  streamWord (scalarOk f.a false && f.c == 0 && f.mods == 0) (tileRun f) (fun s r =>
    orHalt (if s.bad.isEmpty then .ok s else tileCheck r (tileElems ((tileRun f).filter (fun z => decide ((runAt s r).tile.getD 0 ≤ z)))) s)
      (fun s => eachTile f (fun s r z =>
        let k := fdecode f32 (scalar (runAt s r) f.a.toNat)
        let outs := (List.range 4096).map (fun e =>
          let p := fmul k (fdecode f32 (tileElem s r z e))
          let q := fdeliver f32 .rne false p.1
          (q.1, p.2 ||| q.2))
        modRun (tilePut s r z (outs.zipIdx.map (fun q => (q.2, q.1.1)))) r
          (fun x => { x with flags := outs.foldl (fun a q => a ||| q.2) x.flags })) s r)) s

/-- The combinations of format and modifiers that `mzst` accepts (R287). -/
def mzstOk (f : FmtZ) : Bool :=
  let k := zfield f 20 4
  let iz := zbit f 15
  let sat := zbit f 16
  let rnd := zfield f 17 3
  let int := k == 9 || k == 0xA || k == 0xB || k == 0xC || k == 0xD
  let rounding := if iz then !int else k != 0
  k != 8 && k != 0xE && k != 0xF && decide (rnd < 5) &&
    (if isMx k then !iz && rnd == 0 && !sat && decide (f.c.toNat < 16)
     else f.c == 0 && (!sat || iz == int) && (rnd != 4 || rounding))

/-- One element as `mzst` stores it, with its flags (Table 4-9). -/
def mzstElem (k rnd : Nat) (sat iz : Bool) (v : Nat) : Nat × Nat :=
  let int := k == 9 || k == 0xA || k == 0xB || k == 0xC || k == 0xD
  let mode := rmodeOf rnd
  if iz then
    let y := signed 32 v
    if int then (wrapTo (codeBits k) (if sat then min (max y (codeLo k)) (codeHi k) else y), 0)
    else fdeliver (fmtOfCode k) mode false (fofInt y)
  else if int then
    let (y, fl) := ftoInt mode (codeLo k) (codeHi k) (fdecode f32 v)
    (wrapTo (codeBits k) y, fl)
  else toFloat k mode false sat (fdecode f32 v)

/-- The rows of a tile as `mzst` stores them: element bytes, scale bytes and flags. -/
def mzstRows (k rnd : Nat) (sat iz : Bool) (vs : List Nat) : List Byte × List Byte × Nat :=
  if isMx k then
    let (xs, codes, fl) := encodeRow k 128 (vs.map (fdecode f32))
    (packBytes (codeBits k) codes, packBytes 8 xs, fl)
  else
    let outs := vs.map (mzstElem k rnd sat iz)
    (packBytes (codeBits k) (outs.map (·.1)), [], outs.foldl (fun a o => a ||| o.2) 0)

/-- `mzst`: stores a tile, converted. Of its writes only that of the scale bytes, which need not fill whole words, can fail: it comes
first, so that a word that halts has stored nothing (R440). -/
def execMzst (f : FmtZ) (s : State) : Res :=
  let k := zfield f 20 4
  streamWord (scalarOk f.d (zbit f 13) && f.b == 0 && !zbit f 14 && zfield f 0 13 == 0 && mzstOk f) [f.a.toNat] (fun s r =>
    let off := scalar (runAt s r) f.d.toNat
    let scale := scalar (runAt s r) f.c.toNat
    if !runRange s r off (512 * codeBits k) 32 ∨ (isMx k ∧ !runRange s r scale 128 1) then .halt (.code 3)
    else orHalt (if s.bad.isEmpty then .ok s else tileCheck r (tileElems [f.a.toNat]) s) (fun s =>
      let (bytes, scales, fl) := mzstRows k (zfield f 17 3) (zbit f 16) (zbit f 15) ((List.range 4096).map (tileElem s r f.a.toNat))
      orHalt (if scales = [] then .ok s else runWrite s r scale scales) (fun s => orHalt (runWrite s r off bytes) (fun s =>
        .next (modRun s r (fun x => stepScalar f.d.toNat (zbit f 13) { x with flags := x.flags ||| fl })))))) s

/-! ## Flights, loops and the end of a run (R289 to R291) -/

/-- `mflsig`: the run arrives at a team flight, or waits while its early bit is set. -/
def execMflsig (f : FmtZ) (s : State) : Res :=
  streamWord (f.d == 0 && f.b == 0 && f.c == 0 && f.mods == 0) [] (fun s r =>
    let k := teamFlight (runAt s r).team f.a.toNat
    if !bitOf (runAt s r).signals f.a.toNat then .halt (.code 5)
    else if earlySet (flight s k) (.run r) ∨ (runAt s r).writes ≠ [] then .stay s
    else .next (releaseHeld (setFlight s k (arrive (flight s k) (.run r))))) s

/-- `mflwait`: the run waits for a phase of a team flight. -/
def execMflwait (f : FmtZ) (s : State) : Res :=
  streamWord (f.d == 0 && scalarOk f.b false && f.c == 0 && f.mods == 0) [] (fun s r =>
    let x := runAt s r
    let k := teamFlight x.team f.a.toNat
    if !bitOf x.waits f.a.toNat then .halt (.code 5)
    else if !phasePassed (flight s k).phase (BitVec.ofNat 32 (scalar x f.b.toNat)) then .stay s
    else .next (modRun s r (setScalar f.b.toNat (scalar x f.b.toNat + 1)))) s

/-- `mloop`: opens a stream loop. -/
def execMloop (f : FmtZ) (s : State) : Res :=
  streamWord (f.d == 0 && scalarOk f.a false && f.b == 0 && f.c == 0 && f.mods != 0) [] (fun s r =>
    let x := runAt s r
    let n := scalar x f.a.toNat
    let l : LoopReg := { start := BitVec.ofNat 64 (x.pc + 8), stop := BitVec.ofNat 64 (x.pc + 8 * f.mods.toNat), count := BitVec.ofNat 32 n }
    if n = 0 then .stay (modRun s r (fun x => { x with pc := x.pc + 8 * f.mods.toNat + 8 }))
    else if x.loop0.count = 0 then .stay (modRun s r (fun x => { x with loop0 := l, pc := x.pc + 8 }))
    else if x.loop1.count = 0 then .stay (modRun s r (fun x => { x with loop1 := l, pc := x.pc + 8 }))
    else .halt (.code 6)) s

/-- `mend`: ends the run once every write of it has been performed. -/
def execMend (f : FmtZ) (s : State) : Res :=
  streamWord (f.d == 0 && f.a == 0 && f.b == 0 && f.c == 0 && f.mods == 0) [] (fun s r =>
    .stay (if (runAt s r).writes ≠ [] then s else endRun s r 0 0)) s

/-- `mnop`: no effect. -/
def execMnop (f : FmtZ) (s : State) : Res :=
  streamWord (f.d == 0 && f.a == 0 && f.b == 0 && f.c == 0 && f.mods == 0) [] (fun s _ => .next s) s

/-- An unallocated stream word halts the run with code 0x01 (R174). -/
def execUnallocatedStreamWord (_word : DWord) (s : State) : Res := streamWord false [] (fun s _ => .next s) s

/-! ## `mma` (R281 to R285) -/

/-- A format-block record (Table 14-5), as a number. -/
structure BlockRec where
  fa : Nat
  fb : Nat
  bla : Nat
  blb : Nat
  cba : Nat
  cbb : Nat
  ascale : Nat
  bscale : Nat
  astride : Nat
  /-- reserved fields are zero -/
  clean : Bool
deriving DecidableEq, Repr

/-- The record held by 32 bytes. -/
def blockRec (b : List Byte) : BlockRec :=
  { fa := recField b 0 1, fb := recField b 1 1, bla := recField b 2 1, blb := recField b 3 1, cba := recField b 4 1, cbb := recField b 5 1,
    ascale := recField b 8 4, bscale := recField b 12 4, astride := recField b 16 4,
    clean := recField b 6 2 == 0 && recField b 20 12 == 0 }

/-- One operand's fields: block length, codebook slot and scale offset suit its format (Table 14-5). -/
def operandOk (k bl cb scale : Nat) : Bool :=
  (if isMx k then bl == 16 || bl == 32 else bl == 0 && scale == 0) && (if k = 8 then decide (cb < 8) else cb == 0)

/-- Whether a record, semiring, mode and sat form a combination of Table 14-6.
DEDUCED: notes/assumptions/36.md. -/
def combinationOk (x : BlockRec) (mode ring : Nat) (sat : Bool) : Bool :=
  let both (p : Nat → Bool) : Bool := p x.fa && p x.fb
  let float16 := both (fun k => k == 1 || k == 2)
  let float8 := both (fun k => k == 3 || k == 4 || k == 5 || k == 6)
  let float4 := both (fun k => k == 7 || k == 8)
  let int8 := both (fun k => k == 9 || k == 0xA)
  let int4 := both (fun k => k == 0xB || k == 0xC)
  match ring with
  | 0 => if int8 || int4 then mode != 2 else (float16 || float8 || float4) && !sat
  | 4 => int8 && !sat && mode != 2
  | _ => (both (· == 0) || both (· == 1)) && !sat && mode != 2

/-- Every field of the record is as Table 14-5 and Table 14-6 state. -/
def recordOk (x : BlockRec) (mode ring : Nat) (sat : Bool) : Bool :=
  x.clean && operandOk x.fa x.bla x.cba x.ascale && operandOk x.fb x.blb x.cbb x.bscale && x.astride % 128 == 0 &&
    combinationOk x mode ring sat

/-- K: elements in 384 bytes. -/
def kOf (x : BlockRec) : Nat := 3072 / codeBits x.fa

/-- Group number of the B-holder of quarter `q`, if there is one. -/
def holderOf (s : State) (r q : Nat) : Option Nat :=
  let x := runAt s r
  let b := bitField x.holders (8 * q) 8
  if b = 255 then none
  else (List.range s.groups.length).find? (fun g => (grp s g).team == x.team && (grp s g).gid == b)

/-- The registers of B a holder supplies, from the first: 1,536 / W (R283). -/
def holderRegs (s : State) (g b : Nat) : List Nat := (List.range (1536 / widthOf s g)).map (b + ·)

/-- A holder that has ended or whose budget is too small (R283). -/
def holderBad (s : State) (r b q : Nat) : Bool :=
  bitField (runAt s r).holders (8 * q) 8 != 255 && (match holderOf s r q with
    | none => true
    | some g => (grp s g).ended || (grp s g).ending || decide ((grp s g).budget < b + 1536 / widthOf s g))

/-- Fill the backed registers of a list for an `mma`, which names those of `named` (R50, R285). Without room the `mma` waits; a failed
fill is cause 0x06 of the holder (R475). -/
def fillHolder (g : Nat) (named : BitVec 256) : List Nat → State → State × Except Bool Unit
  | [], s => (s, .ok ())
  | n :: t, s =>
    if !backed (grp s g) n then fillHolder g named t s
    else match makeRoom g named (regSet [n]) 32768 s with
      | (s1, false) => (s1, .error false)
      | (s1, true) => match readSlot s1 g n with
        | (s2, none) => fillHolder g named t (modGrp s2 g (fun x =>
            { x with mapped := x.mapped ||| regSet [n], fillFailed := x.fillFailed &&& ~~~ regSet [n] }))
        | (s2, some _) => (modGrp s2 g (fun x => { x with slotFault := some (x.slotFault.getD (n, slotAddr s2 g n)) }), .error true)

/-- Fill the registers of every holder. -/
def fillHolders : List (Nat × List Nat) → State → State × Except Bool Unit
  | [], s => (s, .ok ())
  | (g, ns) :: t, s => match fillHolder g (regSet ns) ns s with
    | (s1, .error e) => (s1, .error e)
    | (s1, .ok _) => fillHolders t s1

/-- The 384 bytes of column `jj` of a holder's quarter (R283). -/
def columnBytes (s : State) (g b jj : Nat) : List Byte :=
  let w := widthOf s g
  (List.range 96).flatMap (fun m => toBytesLE 4 (vlane (grp s g) (b + (96 * jj + m) / w) ((96 * jj + m) % w)).toNat)

/-- The codebook in a slot of a run, as bytes. -/
def slotBook (x : Run) (n : Nat) : List Byte := (List.range 16).flatMap (fun c => toBytesLE 2 (mapGet 0 x.slots (16 * n + c)))

/-- Slices of 32 (R85). -/
def slices {α : Type} : Nat → List α → List (List α)
  | 0, _ => []
  | n + 1, l => l.take 32 :: slices n (l.drop 32)

/-- An infinity of one sign. -/
def isInf (neg : Bool) : FVal → Bool
  | .inf n => n == neg
  | _ => false

/-- The exact sum of a slice's products, and whether it is invalid (R85). -/
def sliceSum (ps : List (FVal × Nat)) : FVal × Nat :=
  let bad := ps.any (fun p => p.2 &&& flagInvalid != 0) || (ps.any (fun p => isInf false p.1) && ps.any (fun p => isInf true p.1))
  let v := match ps with
    | [] => .fin false 0 0
    | p :: t => t.foldl (fun a q => (fadd .rne a q.1).1) p.1
  (if bad then .nan else v, flagIf bad flagInvalid)

/-- One element of a plus-times `mma` on floats, from its starting value (R85). -/
def foldFloat (z : Nat) (xs ys : List FVal) : Nat × Nat :=
  (slices (xs.length / 32) ((xs.zip ys).map (fun p => fmul p.1 p.2))).foldl (fun (acc : Nat × Nat) ps =>
    let (sum, fl) := sliceSum ps
    let (v, fl1) := fadd .rne (fdecode f32 acc.1) sum
    let (b, fl2) := fdeliver f32 .rne false v
    (b, acc.2 ||| fl ||| fl1 ||| fl2)) (z, 0)

/-- One element of a plus-times `mma` on integers (R86). -/
def foldInt (sat : Bool) (z : Nat) (xs ys : List Int) : Nat :=
  (slices (xs.length / 32) ((xs.zip ys).map (fun p => p.1 * p.2))).foldl (fun acc ps =>
    let v := signed 32 acc + ps.foldl (· + ·) 0
    wrapTo 32 (if sat then min (max v (-(2 ^ 31))) (2 ^ 31 - 1) else v)) z

/-- One element of `.minp`, `.maxp` or `.maxt` (R87). -/
def foldTropic (ring z : Nat) (xs ys : List FVal) : Nat × Nat :=
  ((xs.zip ys).map (fun p =>
    let (v, fl) := if ring = 3 then fmul p.1 p.2 else fadd .rne p.1 p.2
    let (b, fl1) := fdeliver f32 .rne false v
    (fdecode f32 b, fl ||| fl1))).foldl (fun (acc : Nat × Nat) p =>
      (fencode f32 (if ring = 1 then fmin (fdecode f32 acc.1) p.1 else fmax (fdecode f32 acc.1) p.1), acc.2 ||| p.2)) (z, 0)

/-- One element of `.ora` (R87). -/
def foldOra (z : Nat) (xs ys : List Int) : Nat := if z ≠ 0 ∨ (xs.zip ys).any (fun p => p.1 != 0 && p.2 != 0) then 1 else 0

/-- The ⊕ identity `.set` starts from (Table 14-6). -/
def ringIdentity (ring : Nat) : Nat := match ring with
  | 1 => 0x7F800000
  | 2 => 0xFF800000
  | 3 => 0xFF800000
  | _ => 0

/-- The value an element starts from, and the flags of forming it: identity, tile value, or the decayed tile value (R284). -/
def startValue (mode ring gamma z : Nat) : Nat × Nat := match mode with
  | 0 => (ringIdentity ring, 0)
  | 1 => (z, 0)
  | _ =>
    let p := fmul (fdecode f32 gamma) (fdecode f32 z)
    let q := fdeliver f32 .rne false p.1
    (q.1, p.2 ||| q.2)

/-- An element of a list of decoded operands as an integer. -/
def asInts (k n : Nat) (bs : List Byte) : List Int := (unpack (codeBits k) n (bytesLE bs)).map (codeInt k)

/-- One element of the tile: `mma` folded over a row of A and a column of B. -/
def mmaElement (x : BlockRec) (mode ring : Nat) (sat : Bool) (gamma z : Nat) (a b : List Byte × List (FVal × Nat)) : Nat × Nat :=
  let (z0, fl) := startValue mode ring gamma z
  let n := kOf x
  if ring = 4 then (foldOra z0 (asInts x.fa n a.1) (asInts x.fb n b.1), 0)
  else if ring = 0 ∧ 9 ≤ x.fa then (foldInt sat z0 (asInts x.fa n a.1) (asInts x.fb n b.1), 0)
  else
    let marks := (a.2 ++ b.2).foldl (fun m p => m ||| p.2) 0
    let (v, fl1) := if ring = 0 then foldFloat z0 (a.2.map (·.1)) (b.2.map (·.1)) else foldTropic ring z0 (a.2.map (·.1)) (b.2.map (·.1))
    (v, fl ||| fl1 ||| marks)

/-- The reads of an `mma`: rows of A with their scales, and the scales of B's columns. -/
def readRows (r base stride n : Nat) : Nat → State → Except Halt (State × List (List Byte))
  | 0, s => .ok (s, [])
  | k + 1, s => match runRead s r base n with
    | .error h => .error h
    | .ok (s1, bs) => match readRows r (base + stride) stride n k s1 with
      | .error h => .error h
      | .ok (s2, rest) => .ok (s2, bs :: rest)

/-- Scale bytes of 64 rows or columns of an MX operand; none of another. -/
def readScales (s : State) (r k bl off n : Nat) : Except Halt (State × List (List Byte)) :=
  if isMx k then readRows r off (n / bl) (n / bl) 64 s else .ok (s, List.replicate 64 [])

/-- Every range an `mma` reads lies in the allocation (R280, R281). -/
def mmaRanges (s : State) (r off : Nat) (x : BlockRec) : Bool :=
  let n := kOf x
  off % 128 == 0 && runRange s r off (63 * x.astride + 384) 1 &&
    (!isMx x.fa || runRange s r x.ascale (64 * (n / x.bla)) 1) && (!isMx x.fb || runRange s r x.bscale (64 * (n / x.blb)) 1)

/-- A register of a holder is the destination of an operation that has not landed. -/
def holderBusy (s : State) (hs : List (Nat × List Nat)) : Bool :=
  hs.any (fun h => s.ops.any (fun o => o.g == h.1 && !o.finished && o.dv.any (fun n => h.2.contains n)))

/-- Start an `mma` whose registers are in place: it is computed, its holders' registers are pinned, and its update is on its way. -/
def startMma (f : FmtZ) (x : BlockRec) (hs : List (Nat × Nat × List Nat)) (s : State) (r : Nat) : WordRes :=
  let run := runAt s r
  let n := kOf x
  let off := scalar run f.a.toNat
  let mode := zfield f 22 2
  let ring := zfield f 19 3
  let z := f.d.toNat
  let gamma := scalar run (zfield f 14 4)
  let elems := hs.flatMap (fun h => (List.range 16).flatMap (fun jj => (List.range 64).map (fun i => 64 * i + 16 * h.1 + jj)))
  orHalt (if mode = 0 ∨ s.bad.isEmpty then .ok s else tileCheck r (elems.map (fun e => (z, e))) s) (fun s =>
  orHalt (readRows r off x.astride 384 64 s) (fun pa => orHalt (readScales pa.1 r x.fa x.bla x.ascale n) (fun psa =>
  orHalt (readScales psa.1 r x.fb x.blb x.bscale n) (fun psb =>
    let s := psb.1
    let rowA (i : Nat) : List Byte × List (FVal × Nat) :=
      (pa.2.getD i [], decodeRow x.fa n x.bla (pa.2.getD i []) (psa.2.getD i []) (slotBook run x.cba))
    let rows := (List.range 64).map rowA
    let outs := hs.flatMap (fun h => (List.range 16).flatMap (fun jj =>
      let bs := columnBytes s h.2.1 f.b.toNat jj
      let col := (bs, decodeRow x.fb n x.blb bs (psb.2.getD (16 * h.1 + jj) []) (slotBook run x.cbb))
      rows.zipIdx.map (fun a =>
        let e := 64 * a.2 + 16 * h.1 + jj
        (e, mmaElement x mode ring (zbit f 18) gamma (tileElem s r z e) a.1 col))))
    let w : TileWrite := { tile := z, due := s.clock + 224, values := outs.map (fun o => (o.1, o.2.1)) }
    let pins := hs.flatMap (fun h => h.2.2.map (fun m => ({ run := r, g := h.2.1, reg := m } : Pin)))
    let s1 := modRun { s with pins := s.pins ++ pins } r (fun y =>
      stepScalar f.a.toNat (zbit f 13)
        { y with reading := some s.clock, writes := y.writes ++ [w], flags := outs.foldl (fun a o => a ||| o.2.2) y.flags })
    .next (if zbit f 12 then modRun s1 r (fun y => setScalar f.c.toNat (scalar y f.c.toNat + 32) y) else s1)))))

/-- `mma`: a 64 × 64 tile. With `.acc` or `.decay` it takes up an update of the tile that is still on its way (R292). -/
def execMma (f : FmtZ) (s : State) : Res :=
  let mode := zfield f 22 2
  let ring := zfield f 19 3
  streamWord (scalarOk f.a (zbit f 13) && scalarOk f.c false && zfield f 0 12 == 0) [] (fun s r =>
    let x := runAt s r
    if (team s x.team).hdr.ztiles ≤ f.d.toNat then .halt (.code 3)
    else if mode = 0 ∧ x.writes.any (fun w => w.tile == f.d.toNat) then .stay s
    else if mode = 3 ∨ 4 < ring ∨ (mode ≠ 2 ∧ zfield f 14 4 ≠ 0) then .halt (.code 2)
    else if !runRange s r (scalar x f.c.toNat) 32 32 then .halt (.code 3)
    else orHalt (runRead s r (scalar x f.c.toNat) 32) (fun p =>
      let rec_ := blockRec p.2
      if !recordOk rec_ mode ring (zbit f 18) then .halt (.code 2)
      else if !mmaRanges p.1 r (scalar x f.a.toNat) rec_ then .halt (.code 3)
      else if (List.range 4).any (holderBad p.1 r f.b.toNat) then .halt (.code 4)
      else
        let hs := (List.range 4).filterMap (fun q => (holderOf p.1 r q).map (fun g => (q, g, holderRegs p.1 g f.b.toNat)))
        if holderBusy p.1 (hs.map (·.2)) then .stay p.1
        else match fillHolders (hs.map (·.2)) p.1 with
          | (s1, .error false) => .stay s1
          | (s1, .error true) => .halt (.data 4 s1)
          | (s1, .ok _) => startMma f rec_ hs s1 r)) s

/-- `MMA_PIN_RELEASE`: 192 clocks after its start an `mma` has read its operands; its pins end and the next word may start (R285). -/
def execMmaPinRelease (r : Nat) (s : State) : Res :=
  .next (match (runAt s r).reading with
    | some t => if t + 192 ≤ s.clock ∧ !(runAt s r).ended then unpin (modRun s r (fun x => { x with reading := none })) r else s
    | none => s)

/-- `MMA_TILE_WRITE`: the oldest tile update of a run that is due is written (R292). -/
def execMmaTileWrite (r : Nat) (s : State) : Res :=
  .next (match (runAt s r).writes with
    | w :: t => if w.due ≤ s.clock then tilePut (modRun s r (fun x => { x with writes := t })) r w.tile w.values else s
    | [] => s)

/-! ## The next word of a stream -/

/-- The word at a stream address, or the code its fetch halts with: outside `.mstream` 0x09, unreadable 0x0A (R280). -/
def streamFetch (s : State) (r : Nat) : State × Except Nat DWord :=
  let x := runAt s r
  let c := s.codes.getD (grid s (team s x.team).grid).code {}
  if x.pc < c.mstream.1 ∨ c.mstream.2 < x.pc + 8 then (s, .error 9)
  else match codePhys c x.pc with
    | none => (s, .error 0xA)
    | some p =>
      if !physOk s.poundSize p 8 then (s, .error 0xA)
      else match storeCheck s p 8 false (codePound c x.pc) with
        | (s1, some _) => (s1, .error 0xA)
        | (s1, none) => (s1, .ok (BitVec.ofNat 64 (rd s1 p 8)))

/-- A fetched stream word as an instruction (R174). -/
def streamInstr (w : DWord) : Instr := (decodeStream w).getD (.unallocatedStreamWord w)

end Sys2Proof.Machine
end

