-- ==== Sys2Proof/Machine/Start.lean ====
section
/-!
DEFINITION. Room on a core, and the state a team and its groups start with (spec/02_execution_model.md, R32 to R35, R39, Table 2-5;
R62, R91, R94, R344).
-/
namespace Sys2Proof.Machine

/-! ## Room (R35, R94) -/

/-- A team holds its place on its core. -/
def holdsCore (t : Team) : Bool := t.phase == .resident || t.phase == .stopping
/-- The teams that hold a place on a core. -/
def teamsOn (s : State) (core : Nat) : List Nat :=
  (List.range s.teams.length).filter (fun t => (team s t).core == core && holdsCore (team s t))
/-- The groups of a team, in number order. -/
def groupsOf (s : State) (t : Nat) : List Nat := (List.range s.groups.length).filter (fun g => (grp s g).team == t)
/-- A team that quay cores started (R317); on its origin core it stands in a return slot (R318). -/
def fromQuay (s : State) (t : Nat) : Bool := (grid s (team s t).grid).parent.isSome

/-- Bytes of scratchpad of a core (R94, R317). -/
def scratchOf (core : Nat) : Nat := if isQuayCore core then 131072 else 393216
/-- The bytes from `a` of a core's scratchpad belong to no team. -/
def rangeFree (s : State) (core a n : Nat) : Bool :=
  decide (a + n ≤ scratchOf core) &&
    (teamsOn s core).all (fun t => decide (a + n ≤ (team s t).allocBase) || decide ((team s t).allocBase + (team s t).allocSize ≤ a))
/-- The lowest base aligned to 4 KiB at which a free range of a rounded size begins (R94). -/
def findRange (s : State) (core n : Nat) : Option Nat :=
  ((List.range (scratchOf core / 4096 + 1)).find? (fun i => rangeFree s core (4096 * i) n)).map (4096 * ·)

/-- Physical tiles of a core that belong to no team (R35, R56). -/
def freeTiles (s : State) (core : Nat) : List Nat :=
  (List.range 64).filter (fun p => (teamsOn s core).all (fun t => !(team s t).tileMap.contains p))

/-- Group slots in use on a partition of a core (R35); return slots lie outside them (R318). -/
def slotsUsed (s : State) (core part : Nat) : Nat :=
  ((teamsOn s core).flatMap (groupsOf s)).countP (fun g =>
    !(grp s g).ended && (grp s g).returnSlot.isNone && (grp s g).returning != 2 && partitionOf s g == part)
/-- Free group slots of a core, over its four partitions. -/
def freeSlots (s : State) (core : Nat) : Nat := (List.range 4).foldl (fun n p => n + (32 - slotsUsed s core p)) 0

/-- Rounded size of a header's scratchpad request (R94). -/
def allocOf (h : Header) : Nat := roundUp h.teamScratch 4096

/-- A team of `n` groups with a header fits on a compute core (R35). -/
def fitsCore (s : State) (core : Nat) (h : Header) (n : Nat) : Bool :=
  decide (((teamsOn s core).filter (fun t => !fromQuay s t)).length < 16) &&
    (List.range 4).all (fun p => decide (slotsUsed s core p + (n + 3 - p) / 4 ≤ 32)) &&
    (findRange s core (allocOf h)).isSome && decide (h.ztiles ≤ (freeTiles s core).length)

/-! ## Starting (R39, Table 2-5) -/

/-- Start of the spill stack in a backing region: budget `b` at width `w` (R62). -/
def spillBase (base b w : Nat) : Nat := base + roundUp (0x800 + b * (4 * w)) 128

/-- Clear an allocation: every byte zero and every full/empty bit empty. -/
def clearScratch (s : State) (loc n : Nat) : State :=
  { s with mem := mapClear loc n s.mem, full := mapClear (loc / 4) (n / 4) s.full,
           bad := mapClear loc n s.bad }
/-- Clear the tiles of a team. -/
def clearTiles (s : State) (core : Nat) (ps : List Nat) : State :=
  ps.foldl (fun s p => { s with tiles := mapClear (4096 * (64 * core + p)) 4096 s.tiles,
                                bad := mapClear (tileLoc (4096 * (64 * core + p))) (4 * 4096) s.bad }) s

/-- A group at its start. -/
def startGroup (s : State) (t : Nat) (x : Team) (gr : Grid) (gid role lanes budget backing : Nat) (args : List Word) : Group :=
  { team := t, gid, role, launched := lanes, budget, pc := mkPc x.entry 0, exec := widthMask lanes, live := widthMask lanes,
    sregs := ((List.range args.length).zip args).foldl (fun m p => mapSet 0 p.1 p.2 m) [],
    fpctl := gr.fpctl, trapen := BitVec.ofNat 32 x.hdr.trapen,
    trapbase := if x.hdr.handler = 0 then 0 else BitVec.ofInt 64 ((x.entry : Int) + x.hdr.handler),
    backing, backSize := gr.backing, spill := BitVec.ofNat 64 (spillBase backing budget gr.width),
    active := false, readyStamp := some s.clock }

/-- Where in its slot the backing region of group `g` lies: after the save area, rounded up to 2 KiB (R344). -/
def saveSize (h : Header) : Nat := roundUp (0x400 + 16384 * h.ztiles + allocOf h + allocOf h / 32) 2048

/-- Start a team that has its core, scratchpad and tiles: its storage cleared, its groups added (R39). -/
def startTeam (s : State) (x : Team) (args : List Word) (region : Nat) : State :=
  let t := s.teams.length
  let gr := grid s x.grid
  let plan := groupPlan x.hdr gr.width
  let gs := (List.range plan.length).map (fun i =>
    let (role, lanes, budget) := plan.getD i (0, 0, 1)
    startGroup s t x gr i role lanes budget (region + saveSize x.hdr + i * gr.backing) args)
  let s1 := clearTiles (clearScratch s (locTeam x.core x.allocBase) x.allocSize) x.core x.tileMap
  (List.range gs.length).foldl (fun t i => clearImage t (s.groups.length + i))
    { s1 with teams := s1.teams ++ [x], groups := s1.groups ++ gs }

/-- Words of an argument block, for the uniform registers a header fills (R39, R342). -/
def argWords (h : Header) (args : List Byte) : List Word :=
  (List.range h.argwords).map (fun i => BitVec.ofNat 32 (recField args (4 * i) 4))

end Sys2Proof.Machine
end

