-- ==== Sys2Proof/Machine/Launch.lean ====
section
/-!
DEFINITION. Launch records and what the launcher makes of them (spec/17_scheduler.md, R339 to R344, R352; R24, R38, R102, R162, R401,
R453).
-/
namespace Sys2Proof.Machine

/-! ## Reads of the launcher (R111) -/

/-- Addresses of a context that the launcher and the command processor reach; every page of it is theirs to use (Table 5-8).
DEDUCED: notes/assumptions/49.md. -/
def launcherSpace (ctx : Nat) (privileged : Bool) : Space :=
  { ctx, privileged, team := 2 ^ 64, privPages := true, sel4 := false, sel5 := false }

/-- No `mcas` holds a line of physical memory: the launcher's accesses, and those of a save, wait until then (R134). -/
def memoryFree (s : State) : Bool := s.sync.locks.all (fun p => decide (2 ^ 52 ≤ p.1))

/-- Why a launch is rejected: a code of Table 23-6, the done word to update, and, of code 0x0510, the address that failed and why. -/
structure LaunchErr where
  code : Nat
  done : Option Nat
  cause : Option (Nat × AccErr) := none
deriving DecidableEq, Repr

/-- A piece of work on a launch record. -/
abbrev Launching (α : Type) := ExceptT LaunchErr (StateM State) α

/-- Read for a launch; a failure is code 0x0510. -/
def launchRead (sp : Space) (done : Option Nat) (addr n : Nat) : Launching (List Byte) := do
  if n = 0 then return []
  else
    match readSpan (← get) sp addr n with
    | (s1, r) => do
      set s1
      match r with
      | .error e => throw { code := 0x0510, done, cause := some (addr, e) }
      | .ok b => return b

/-! ## The done word (R339) -/


/-- The physical address of the word a done field names; none for a field of zero. -/
def doneWord (sp : Space) (a : Nat) : Launching (Option Nat) := do
  if a = 0 then return none
  else if a % 8 ≠ 0 then throw { code := 0x0504, done := none }
  else
    match locating (← get) sp a 8 { read := true, write := true } with
    | (s1, .error e) => do
      set s1
      throw { code := 0x0510, done := none, cause := some (a, e) }
    | (s1, .ok (p, _)) => do
      set s1
      return some p

/-! ## The record (Table 17-3) -/

/-- Where a launch comes from: its queue and command, what they allow, and the payloads of a firing. -/
structure LaunchSource where
  ctx : Nat
  queue : Option Nat := none
  command : Option Nat := none
  record : Nat := 0
  prio : Nat := 47
  gfx : Option Bool := none
  privileged : Bool := false
  /-- of a firing: the bytes that precede the template's own arguments -/
  firing : Option (List Byte) := none
deriving DecidableEq, Repr

/-! ## Records and the end of a launch (R340, R395, R401) -/

/-- A record of the launcher that names a queue, a command and a context. -/
def logLauncher (s : State) (src : LaunchSource) (code cls addr : Nat) : State :=
  logRecord s { seq := 0, time := 0, addr, code, cls, flags := if addr = 0 then 0 else 1, context := src.ctx,
                queue := src.queue.getD 0xFFFF, command := src.command.getD 0xFFFFFFFF }

/-- Its record of an access that failed: the address named or, of data, the unit that could not be read, after a retry (R395). -/
def logLauncherErr (s : State) (src : LaunchSource) (code named : Nat) : AccErr → State
  | .data b => logRecord s { seq := 0, time := 0, addr := b.addr, code, cls := 1, flags := 3, unitKind := b.kind, unit := b.unit,
                             context := src.ctx, queue := src.queue.getD 0xFFFF, command := src.command.getD 0xFFFFFFFF, detail := b.detail }
  | _ => logLauncher s src code 1 named

/-- Change an 8-byte word at its home; why it cannot be. -/
def changeWord (s : State) (loc : Nat) (f : Nat → Nat) : State × Option BadData :=
  match rmw s loc 8 true (fun v => some (f v % 2 ^ 64)) with
  | (s1, .error b) => (s1, some b)
  | (s1, .ok _) => (s1, none)

/-- A launch ends: bit 63 is set in its done word first when it failed, and then `add` is added. A word that cannot be read or written has
one record, of code 0x0510. -/
def signalDone (s : State) (src : LaunchSource) (done : Option Nat) (failed : Bool) (add : Nat) : State :=
  match done with
  | none => s
  | some a => match if failed then changeWord s a (fun v => v ||| 2 ^ 63) else (s, none) with
    | (s1, some b) => logLauncherErr s1 src 0x0510 a (.data b)
    | (s1, none) => match changeWord s1 a (· + add) with
      | (s2, some b) => logLauncherErr s2 src 0x0510 a (.data b)
      | (s2, none) => s2

/-- Rungs from r to m. -/
def rungsFrom (r m : Nat) : List Nat := (List.range 4).filter (fun q => decide (r ≤ q) && decide (q ≤ m))

/-- Every field of a record that stands alone is in its range, and those of its queue admit it (R339).
DEDUCED: notes/assumptions/53.md. -/
def launchRecordOk (src : LaunchSource) (b : List Byte) : Bool :=
  let f (off n : Nat) : Nat := recField b off n
  let fl := f 8 4
  let rungs := rungsFrom (f 0xD 1) (f 0xE 1)
  fl % 2 == 0 && decide (fl < 16) && f 0xF 1 == 0 && f 0x78 8 == 0 && f 0 8 % 64 == 0 && decide (headerSize ≤ f 0 8) &&
    decide (f 0xC 1 ≤ 47) && decide (f 0xC 1 ≤ src.prio) && decide (f 0xD 1 ≤ f 0xE 1) && decide (f 0xE 1 ≤ 3) &&
    f 0x10 4 != 0 && f 0x14 4 != 0 && f 0x18 4 != 0 && decide (f 0x10 4 * f 0x14 4 * f 0x18 4 ≤ 2 ^ 24) &&
    decide (f 0x1C 4 < 64) && decide (f 0x1C 4 % 8 ≤ 4) && decide (f 0x28 4 ≤ 10 ^ 8) && decide (f 0x2C 2 < 4096) &&
    decide (f 0x2E 2 < 256) && decide (f 0x38 4 ≤ 4096) && f 0x38 4 % 4 == 0 && f 0x3C 4 % 2048 == 0 && f 0x40 8 % 2048 == 0 &&
    f 0x48 4 != 0 && bitField (f 0x4C 4) 12 4 == 0 && bitField (f 0x4C 4) 28 4 == 0 &&
    decide (bitField (f 0x4C 4) 0 12 + bitField (f 0x4C 4) 16 12 ≤ 4096) &&
    (f 0x20 8 == 0 || rungs.all (fun q => f (0x58 + 4 * q) 4 != 0)) &&
    (match src.gfx with
      | none => true
      | some g => bitOf fl 1 == g)

/-! ## Headers, width and room -/

/-- A die's scratchpad in bytes, and the granule of its segments. -/
def dieBytes : Nat := 2 ^ 27
def segGranule : Nat := 65536

/-- Read the kernel header of an entry point (R161, R162). -/
def launchHeader (sp : Space) (done : Option Nat) (entry : Nat) : Launching Header := do
  let b ← launchRead sp done (entry - headerSize) headerSize
  match parseHeader b with
  | .error c => throw { code := c, done := done }
  | .ok h => if dieBytes < h.dieScratch then throw { code := 0x0502, done := done } else return h

/-- The headers of the variants that teams of rungs r to m may run (R352).
DEDUCED: notes/assumptions/52.md. -/
def launchVariants (sp : Space) (done : Option Nat) (entry : Nat) (h : Header) : List Nat → Launching (List (Nat × Nat × Header))
  | [] => return []
  | q :: t =>
    let off := if q = 0 then 0 else h.quality.getD (q - 1) 0
    if off = 0 then launchVariants sp done entry h t
    else do
      let e := wrapTo 57 ((entry : Int) + off)
      if e % 64 ≠ 0 ∨ e < headerSize then throw { code := 0x0502, done := done }
      let x ← launchHeader sp done e
      let rest ← launchVariants sp done entry h t
      return (q, e, x) :: rest

/-- The largest budget of a header's roles. -/
def maxBudget (h : Header) : Nat := h.roles.foldl (fun n r => max n r.budget) 0
/-- Least size of a group's backing region (R344). -/
def leastBacking (h : Header) (w : Nat) : Nat := 0x800 + maxBudget h * (4 * w)

/-- The code object of a context that holds an entry point; beyond the list when there is none. -/
def codeFor (s : State) (ctx entry : Nat) : Nat :=
  ((List.range s.codes.length).find? (fun i =>
    let c := s.codes.getD i {}
    c.loaded && c.ctx == ctx && !c.flat && decide (c.text.1 ≤ entry) && decide (entry < c.text.2))).getD s.codes.length

/-- G of a die (R350). -/
def dieReach (s : State) (d : Nat) : DieReach := mapGet {} s.launch.reaches d
/-- Whether a compute core lies in a reach. -/
def inReachOf (s : State) (gfx : Bool) (core : Nat) : Bool := gfx == decide (core % 288 < (dieReach s (core / 288)).bound)
/-- Cores of a reach on all dies. -/
def reachCores (s : State) (gfx : Bool) : Nat :=
  (List.range 4).foldl (fun n d => n + (if gfx then (dieReach s d).bound else 288 - (dieReach s d).bound)) 0

/-- Teams of a header with `n` groups each that an empty core holds (R35). -/
def coreHolds (h : Header) (n : Nat) : Nat :=
  let slots := (List.range 4).foldl (fun m p => if n + 3 - p < 4 then m else min m (32 / ((n + 3 - p) / 4))) 16
  let scratch := if allocOf h = 0 then 16 else 393216 / allocOf h
  let tiles := if h.ztiles = 0 then 16 else 64 / h.ztiles
  min slots (min scratch tiles)

/-! ## Die segments (R102, R340, R341) -/

/-- Size of the segment a header asks for. -/
def segSizeOf (h : Header) : Nat := roundUp h.dieScratch segGranule
/-- Grids that have not completed. -/
def liveGrids (s : State) : List Grid := s.grids.filter (fun x => x.phase != .complete)
/-- Segments kept under a segid of a context. -/
def keptSeg (s : State) (ctx segid : Nat) : Option Kept := s.launch.kept.find? (fun k => k.ctx == ctx && k.segid == segid)
/-- Grids of a context that name a segid and run or wait. -/
def segInUse (s : State) (ctx segid : Nat) : Bool := (liveGrids s).any (fun x => x.ctx == ctx && x.segid == segid)
/-- Segids a context holds. -/
def segidsHeld (s : State) (ctx : Nat) : Nat := (s.launch.kept.filter (fun k => k.ctx == ctx)).length

/-- The code with which a record's use of segments is rejected, if any. -/
def segFault (s : State) (ctx segid : Nat) (keep : Bool) (size : Nat) : Option Nat :=
  if segid = 0 then (if keep ∧ 255 ≤ segidsHeld s ctx then some 0x0513 else none)
  else match keptSeg s ctx segid with
    | none => some 0x050B
    | some k => if k.size < size ∨ segInUse s ctx segid then some 0x050B else none

/-! ## Forming the grid -/

/-- The rest of a grid, once its record's own fields, its headers and its width are known. -/
def gridOfRecord (s : State) (src : LaunchSource) (b : List Byte) (done : Option Nat) (h : Header)
    (vs : List (Nat × Nat × Header)) (w : Nat) (args : List Byte) : Grid :=
  let f (off n : Nat) : Nat := recField b off n
  { ctx := f 0x2C 2, queue := src.queue, command := src.command, record := src.record, privileged := src.privileged,
    gfx := bitOf (f 8 4) 1, prio := f 0xC 1, entry := f 0 8, code := codeFor s (f 0x2C 2) (f 0 8), hdr := h, variants := vs, width := w,
    rung := f 0xD 1, rungmax := f 0xE 1, nteams := f 0x10 4 * f 0x14 4 * f 0x18 4, fpctl := BitVec.ofNat 32 (f 0x1C 4),
    deadline := BitVec.ofNat 64 (f 0x20 8), guard := f 0x28 4, args, backing := f 0x3C 4, pool := f 0x40 8, slots := f 0x48 4,
    flightFirst := bitField (f 0x4C 4) 0 12, flightCount := bitField (f 0x4C 4) 16 12, domains := BitVec.ofNat 64 (f 0x50 8),
    cost := (List.range 4).map (fun q => f (0x58 + 4 * q) 4), place := f 0x68 8, done, doneNamed := f 0x70 8, keep := bitOf (f 8 4) 3,
    cores := bitOf (f 8 4) 2, segSize := segSizeOf h, segid := f 0x2E 2, order := s.launch.order, waitingSince := timeOf s }

/-- The argument block: a launch's own, or a firing's with the template's after it (R342, R349). -/
def launchArgs (src : LaunchSource) (sp : Space) (done : Option Nat) (b : List Byte) : Launching (List Byte) := do
  let n := recField b 0x38 4
  match src.firing with
  | none => launchRead sp done (recField b 0x30 8) n
  | some pre =>
    if 4096 < pre.length + n then throw { code := 0x050A, done := done }
    else return pre ++ (← launchRead sp done (recField b 0x30 8) n)

/-- Entry point and header that a team of rung `r` runs. -/
def variantOf (x : Grid) (r : Nat) : Nat × Header := match x.variants.find? (fun v => v.1 == r) with
  | some v => v.2
  | none => (x.entry, x.hdr)

/-- A co-resident grid could not fit even on an empty reach, with the teams it starts with (R38). -/
def neverFits (s : State) (g : Grid) : Bool :=
  let h := (variantOf g g.rung).2
  decide (reachCores s g.gfx * coreHolds h (groupCount h g.width) < g.nteams) || decide (g.slots < g.nteams)

/-- Check a launch record and form its grid (R339 to R344). Its width is that of its own entry point, and every variant must admit it.
DESIGN CHOICE: notes/assumptions/135.md. -/
def formGrid (src : LaunchSource) (b : List Byte) : Launching Grid := do
  let f (off n : Nat) : Nat := recField b off n
  let sp := launcherSpace (f 0x2C 2) src.privileged
  if 4096 ≤ f 0x2C 2 then throw { code := 0x0504, done := none }
  let done ← doneWord sp (f 0x70 8)
  if !launchRecordOk src b then throw { code := 0x0504, done := done }
  let h ← launchHeader sp done (f 0 8)
  let s ← get
  match chooseWidth h (mapGet [] s.density (entryKey (codeFor s (f 0x2C 2) (f 0 8)) (f 0 8))) with
  | none => throw { code := 0x0503, done := done }
  | some w => do
    let vs ← launchVariants sp done (f 0 8) h (rungsFrom (f 0xD 1) (f 0xE 1))
    let hs := h :: vs.map (·.2.2)
    if hs.any (fun x => !admits x w || decide (32 < groupCount x w)) then throw { code := 0x0503, done := done }
    if hs.any (fun x => decide (f 0x3C 4 < leastBacking x w)) then throw { code := 0x0506, done := done }
    let args ← launchArgs src sp done b
    if hs.any (fun x => decide (args.length < 4 * x.argwords)) then throw { code := 0x0511, done := done }
    let s ← get
    match segFault s (f 0x2C 2) (f 0x2E 2) (bitOf (f 8 4) 3) h.dieScratch with
    | some c => throw { code := c, done := done }
    | none => do
      let g := gridOfRecord s src b done h vs w args
      if g.cores ∧ neverFits s g then throw { code := 0x0505, done := done }
      else return g

/-- A placed grid's grant overlaps another's (R343). -/
def grantsOverlap (x y : Grid) : Bool :=
  x.domains &&& y.domains != 0 ||
    (x.flightCount != 0 && y.flightCount != 0 && decide (x.flightFirst < y.flightFirst + y.flightCount) &&
      decide (y.flightFirst < x.flightFirst + x.flightCount))
/-- A grid must wait for the grant of one that has been placed and has not completed. -/
def grantBusy (s : State) (x : Grid) : Bool := s.grids.any (fun y => y.phase == .running && y.parent.isNone && grantsOverlap x y)

/-- A launch is rejected: its record, and its done word. -/
def rejectLaunch (s : State) (src : LaunchSource) (e : LaunchErr) : State :=
  signalDone (match e.cause with
    | some (a, x) => logLauncherErr s src e.code a x
    | none => logLauncher s src e.code 1 src.record) src e.done true 1

/-- Launch from a record's bytes: the grid's number, or none when the launch is rejected. -/
def launchRecord (s : State) (src : LaunchSource) (b : List Byte) : State × Option Nat :=
  match ((formGrid src b).run).run s with
  | (.error e, s1) => (rejectLaunch s1 src e, none)
  | (.ok g, s1) =>
    ({ s1 with grids := s1.grids ++ [{ g with grantWait := grantBusy s1 g }],
               launch := { s1.launch with order := s1.launch.order + 1 } }, some s1.grids.length)

end Sys2Proof.Machine
end

