-- ==== Sys2Proof/Machine/Graph.lean ====
section
/-!
DEFINITION. Work graphs: `enqr`, token-matching tables and firings (spec/16_raster_and_coprocessors.md, R336; spec/17_scheduler.md, R347
to R349; R445).
-/
namespace Sys2Proof.Machine

/-! ## The graph of a context (R347) -/

/-- The graph bound to a context. -/
def graphOf (s : State) (ctx : Nat) : Option Graph := s.launch.graphs.find? (fun x => x.ctx == ctx)

/-- A node entry. -/
structure Node where
  template : Nat
  ports : Nat
  die : Nat
deriving DecidableEq, Repr

/-- Read a node entry; none when there is no such node, or its entry cannot be read or is malformed. -/
def readNode (s : State) (ctx : Nat) (privileged : Bool) (node : Nat) : State × Option Node :=
  match graphOf s ctx with
  | none => (s, none)
  | some gr =>
    if gr.nodes ≤ node then (s, none)
    else match readSpan s (launcherSpace ctx privileged) (gr.table + 16 * node) 16 with
      | (s1, .error _) => (s1, none)
      | (s1, .ok b) =>
        let n : Node := { template := recField b 0 8, ports := recField b 8 1, die := recField b 9 1 }
        (s1, if 1 ≤ n.ports ∧ n.ports ≤ 4 ∧ n.die < 4 ∧ recField b 10 6 = 0 then some n else none)

/-! ## `enqr` (R336, R445) -/

/-- Entries of a die's matching table. -/
def matchEntries : Nat := 4096

/-- Records of a die's table, with those on their way to it. -/
def matchUsed (s : State) (die : Nat) : Nat :=
  (s.units.table.filter (fun m => m.die == die)).length +
    (s.ops.filter (fun x => !x.finished && (match x.kind with
      | .enq _ _ _ _ => x.stage == die
      | _ => false))).length

/-- The payload of an `enqr` is read, as operation `o` (R129, R336). -/
def readPayload (s : State) (o : Nat) : State :=
  let x := op s o
  let y := laneReq x 0
  match storeCheck s y.addr x.size false false with
  | (s1, some b) => completeOp (failLane s1 o 0 (dataError b 6)) o
  | (s1, none) => lanePerformed (modOp (touchHome s1 (coreOf s x.g) y.addr x.size false) o (fun z =>
      { z with kind := match z.kind with
          | .enq node port tag _ => .enq node port tag (readBytes s1.mem y.addr x.size)
          | k => k })) o 0 none
/-- It can be read: the group's earlier accesses to those bytes have been performed, and no `mcas` holds them. -/
def payloadReady (s : State) (o : Nat) : Bool :=
  let y := laneReq (op s o) 0
  mayPerform s o y && unlocked s o y.addr (op s o).size

/-- The effect of `enqr`: it reads its payload at issue; behind earlier accesses of the group to those bytes the read is held (R504).
DEDUCED: notes/assumptions/59.md. -/
def enqrBody (f : FmtE) (t : State) : Res :=
  let g := t.cur
  let x := me t
  let target := (sreg x f.a.toNat).toNat
  let tag := sreg x f.b.toNat
  let off := (sreg x f.c.toNat).toNat
  let len := 16 * (f.op.toNat % 4 + 1)
  if off % 16 ≠ 0 ∨ (teamOf t g).allocSize < off + len then .next (takeTrap t g 8 0 (some (5 * 2 ^ 60 + off)))
  else match readNode t (gridOf t g).ctx (gridOf t g).privileged (bitField target 0 16) with
    | (t1, none) => deferBad t1
    | (t1, some n) =>
      if 2 ^ 18 ≤ target ∨ n.ports ≤ bitField target 16 2 then deferBad t1
      else if matchEntries ≤ matchUsed t1 n.die then .next (block t1 g 13 target tag.toNat)
      else
        let o := t1.ops.length
        let t2 := addOp t1
          { g := g, kind := .enq (bitField target 0 16) (bitField target 16 2) tag [], issuedAt := t.clock, size := len,
            scope := (relOf f).getD 0, handler := handlerOf x, stage := n.die,
            lanes := [{ lane := 0, addr := landingLoc t g off, named := 5 * 2 ^ 60 + off, data := 0, cmp := 0 }] }
        .next (advance (if payloadReady t2 o then readPayload t2 o else t2) g)

/-- `enqr`: sends a tagged record to a node of a work graph. -/
def execEnqr (f : FmtE) (s : State) : Res := issueOn none false (sigEnqrOf f) (enqrBody f) s

/-- `MATCH_TABLE_ROOM`: an `enqr` that waits enters its record when an entry is free.
DESIGN CHOICE: notes/assumptions/60.md. -/
def execMatchTableRoom (g : Nat) (s : State) : Res :=
  if (grp s g).wait.code ≠ 13 ∨ !onCore s g then .next s
  else match instrAt s g with
    | some (.enqr f) =>
      match readNode s (gridOf s g).ctx (gridOf s g).privileged ((grp s g).wait.obj % 2 ^ 16) with
      | (_, some n) => if matchEntries ≤ matchUsed s n.die then .next s else asGroup g (enqrBody f) (unblock s g)
      | (_, none) => asGroup g (enqrBody f) (unblock s g)
    | _ => .next (unblock s g)

/-! ## Matching and firing (R348, R349) -/

/-- The bytes before a template's own arguments in a firing's block: tag, node and ports, and the payload of each port. -/
def firingBytes (tag : Nat) (node ports : Nat) (payloads : List (List Byte)) : List Byte :=
  toBytesLE 4 tag ++ toBytesLE 2 node ++ toBytesLE 1 ports ++ toBytesLE 9 0 ++
    payloads.flatMap (fun p => p ++ List.replicate (64 - p.length) 0)

/-- A record is of a triple's node and tag. -/
def matchesTag (m r : Match) : Bool := m.die == r.die && m.ctx == r.ctx && m.node == r.node && m.tag == r.tag

/-- The first record of each port, if every port has one. -/
def readyRecords (table : List Match) (r : Match) (ports : Nat) : Option (List Match) :=
  (List.range ports).mapM (fun p => table.find? (fun m => matchesTag m r && m.port == p))

/-- Remove the first occurrence of each record of a list. -/
def removeRecords (table taken : List Match) : List Match := taken.foldl (fun t m => t.erase m) table

/-- A node fires: one grid is launched from its template (R349).
DEDUCED: notes/assumptions/58.md. -/
def fireNode (s : State) (r : Match) (n : Node) (privileged : Bool) (taken : List Match) : State :=
  let src : LaunchSource :=
    { ctx := r.ctx, record := n.template, privileged, firing := some (firingBytes r.tag r.node n.ports (taken.map (·.payload))) }
  match readSpan s (launcherSpace r.ctx privileged) n.template 128 with
  | (s1, .error e) => logLauncherErr s1 src 0x0510 n.template e
  | (s1, .ok b) => if n.template % 128 ≠ 0 then logLauncher s1 src 0x0504 1 n.template else (launchRecord s1 src b).1

/-- Enter a record into its table, and fire its node when every port holds one with its tag. -/
def enterRecord (s : State) (r : Match) (n : Node) (privileged : Bool) : State :=
  let table := s.units.table ++ [r]
  match readyRecords table r n.ports with
  | none => modUnits s (fun u => { u with table })
  | some taken => fireNode (modUnits s (fun u => { u with table := removeRecords table taken })) r n privileged taken

/-- The record of an `enqr` enters the table of its node's die. -/
def enterPayload (s : State) (o node port : Nat) (tag : Word) (payload : List Byte) : State :=
  let x := op s o
  let i := gridOf s x.g
  let r : Match := { die := x.stage, ctx := i.ctx, node, port, tag := tag.toNat, payload }
  match readNode (completeOp s o) i.ctx i.privileged node with
  | (s1, some n) => enterRecord s1 r n i.privileged
  | (s1, none) => modUnits s1 (fun u => { u with table := u.table ++ [r] })

/-- `TOKEN_MATCH_ENTRY`: a held payload is read once it can be; a record whose payload has been read and whose release is met enters its
table. -/
def execTokenMatchEntry (o : Nat) (s : State) : Res :=
  let x := op s o
  match x.kind with
  | .enq node port tag payload =>
    if x.finished ∨ !memoryFree s then .next s
    else if !laneIn x.performed 0 then .next (if payloadReady s o then readPayload s o else s)
    else .next (if earlierDone s x.g o x.scope true true then enterPayload s o node port tag payload else s)
  | _ => .next s

end Sys2Proof.Machine
end

