-- ==== Sys2Proof/Machine/Commands.lean ====
section
/-!
DEFINITION. Command queues (spec/17_scheduler.md, R338, R341, R343, R347, R351, R353; R401).

A command starts when it stands at the head of its queue's ring and it is the queue's turn; a wait, signal or release that has started
completes in a later turn of the same event.
-/
namespace Sys2Proof.Machine

/-! ## Queues and rings (R338, R362) -/

/-- Queue number `q`. -/
def queueAt (s : State) (q : Nat) : Queue := mapGet {} s.launch.queues q
/-- Change the launcher. -/
def modLaunch (s : State) (f : Launcher → Launcher) : State := { s with launch := f s.launch }
/-- Change a queue. -/
def modQueue (s : State) (q : Nat) (f : Queue → Queue) : State :=
  modLaunch s (fun l => { l with queues := mapSet {} q (f (queueAt s q)) l.queues })

/-- Read the command at a queue's head. The driver registers the ring, with the rights of its own.
DEDUCED: notes/assumptions/48.md. -/
def headCommand (s : State) (q : Nat) : State × Except AccErr (List Byte) :=
  readSpan s (launcherSpace (queueAt s q).ctx true) ((queueAt s q).ring.toNat + 64 * (queueAt s q).head) 64

/-- Every command of a queue before number `n` in start order has completed. -/
def earlierCommands (s : State) (q n : Nat) : Bool := (s.launch.commands.take n).all (fun c => c.queue != q || c.done)

/-- A queue has a command that can start (R338). -/
def startable (s : State) (q : Nat) : Bool :=
  let x := queueAt s q
  x.enabled && x.head != x.tail && (match (headCommand s q).2 with
    | .error _ => true
    | .ok b => !bitOf (recField b 1 1) 0 || earlierCommands s q s.launch.commands.length)

/-- Places a queue stands behind the one that started a command last at its priority, round-robin. -/
def turnOf (s : State) (q : Nat) : Nat := (q + 127 - mapGet 127 s.launch.served (queueAt s q).prio) % 128
/-- It is the queue's turn to start the command at ring index `i`. -/
def mayStart (s : State) (q i : Nat) : Bool :=
  decide (q < 128) && (queueAt s q).head == i && startable s q && memoryFree s &&
    (List.range 128).all (fun p => (queueAt s p).prio != (queueAt s q).prio || !startable s p || decide (turnOf s q ≤ turnOf s p))

/-- The command that a queue may start at index `i`, of one kind, and the state after it has been read. -/
def startingCommand (s : State) (q i kind : Nat) : Option (State × List Byte) :=
  if mayStart s q i then match headCommand s q with
    | (s1, .ok b) => if recField b 0 1 = kind then some (s1, b) else none
    | (_, .error _) => none
  else none

/-- A command starts: the head moves on, and its queue was served. -/
def startCommand (s : State) (q : Nat) (c : Command) : State :=
  let x := queueAt s q
  modLaunch (modQueue s q (fun x => { x with head := (x.head + 1) % 2 ^ x.size })) (fun l =>
    { l with served := mapSet 127 x.prio q l.served, commands := l.commands ++ [c] })

/-- Change command number `n`. -/
def modCommand (s : State) (n : Nat) (f : Command → Command) : State := modLaunch s (fun l => { l with commands := l.commands.modify n f })
/-- A command completes. -/
def finishCommand (s : State) (n : Nat) : State := modCommand s n (fun c => { c with done := true })

/-- The source of a queue's launches and of its records. -/
def queueSource (s : State) (q i record : Nat) : LaunchSource :=
  let x := queueAt s q
  { ctx := x.ctx, queue := some q, command := some i, record, prio := x.prio, gfx := some x.gfx, privileged := x.privileged }
/-- Addresses that a queue's commands name. -/
def queueSpace (s : State) (q : Nat) : Space := launcherSpace (queueAt s q).ctx (queueAt s q).privileged

/-- A command's fields as it starts. -/
def commandOf (q i : Nat) (b : List Byte) : Command :=
  { queue := q, index := i, kind := recField b 0 1, operand := recField b 8 8, value := recField b 0x10 8 }

/-- The reserved fields of a command are zero (Table 17-1). -/
def commandPlain (b : List Byte) : Bool := decide (recField b 1 1 < 2) && recField b 2 6 == 0 && recField b 0x18 40 == 0

/-- A command starts and completes with an error.
DEDUCED: notes/assumptions/50.md. -/
def rejectCommand (s : State) (q i : Nat) (b : List Byte) (code addr : Nat) : State :=
  logLauncher (startCommand s q { commandOf q i b with done := true }) (queueSource s q i addr) code 1 addr

/-- Start the command at a queue's head, if it is of this kind and its bits are as Table 17-2 gives: the rest of its effect follows. -/
def runCommand (q i kind : Nat) (good : Command → Bool) (effect : Command → State → State) (s : State) : State :=
  match startingCommand s q i kind with
  | none => s
  | some (s, b) =>
    let c := commandOf q i b
    if !commandPlain b || !good c then rejectCommand s q i b 0x0507 0 else effect c s

/-- The number of a command that has started and not completed, by queue, ring index and kind. -/
def pendingCommand (s : State) (q i kind : Nat) : Option Nat :=
  (List.range s.launch.commands.length).find? (fun n => match s.launch.commands[n]? with
    | some c => c.queue == q && c.index == i && c.kind == kind && !c.done
    | none => false)
/-- Command number `n`. -/
def commandAt (s : State) (n : Nat) : Command :=
  s.launch.commands.getD n { queue := 0, index := 0, kind := 0, operand := 0, value := 0, done := true }

/-- A command of a kind that waits: it starts, or, having started, is tried. -/
def waitingCommand (q i kind : Nat) (good : Command → Bool) (try_ : Nat → State → State) (s : State) : State :=
  match pendingCommand s q i kind with
  | some n => if memoryFree s then try_ n s else s
  | none => runCommand q i kind good (fun c s => try_ s.launch.commands.length (startCommand s q c)) s

/-- A command completes with an error. -/
def failCommand (s : State) (n code addr : Nat) : State :=
  let c := commandAt s n
  logLauncher (finishCommand s n) (queueSource s c.queue c.index addr) code 1 addr
/-- A command completes with code 0x0510: an access to its operand failed. -/
def failAccess (s : State) (n : Nat) (e : AccErr) : State :=
  let c := commandAt s n
  logLauncherErr (finishCommand s n) (queueSource s c.queue c.index c.operand) 0x0510 c.operand e

/-! ## Launch and graph (R339, R347) -/

/-- `COMMAND_LAUNCH`: reads and checks the record, and forms the grid. -/
def execCommandLaunch (queue index : Nat) (s : State) : Res :=
  .next (runCommand queue index 1 (fun c => c.operand % 128 == 0 && c.value == 0) (fun c s =>
    let src := queueSource s queue index c.operand
    match readSpan s (queueSpace s queue) c.operand 128 with
    | (s1, .error e) => logLauncherErr (startCommand s1 queue { c with done := true }) src 0x0510 c.operand e
    | (s1, .ok b) =>
      let (s2, g) := launchRecord s1 src b
      startCommand s2 queue { c with grid := g, done := g.isNone }) s)

/-- A context has a record of its graph on the way to a table or in one. -/
def graphBusy (s : State) (ctx : Nat) : Bool :=
  s.units.table.any (fun m => m.ctx == ctx) || s.ops.any (fun x => !x.finished && (gridOf s x.g).ctx == ctx && (match x.kind with
    | .enq _ _ _ _ => true
    | _ => false))

/-- Try a graph command: its descriptor is read, and replaces the context's when no record of the old graph remains. -/
def tryGraph (n : Nat) (s : State) : State :=
  let c := commandAt s n
  let ctx := (queueAt s c.queue).ctx
  match readSpan s (queueSpace s c.queue) c.operand 16 with
  | (s1, .error e) => failAccess s1 n e
  | (s1, .ok b) =>
    let nodes := recField b 8 4
    if recField b 12 4 ≠ 0 ∨ nodes = 0 ∨ 65536 < nodes then failCommand s1 n 0x0507 c.operand
    else if (graphOf s1 ctx).isSome ∧ graphBusy s1 ctx then s1
    else finishCommand (modLaunch s1 (fun l =>
      { l with graphs := l.graphs.filter (fun x => x.ctx != ctx) ++ [{ ctx, table := recField b 0 8, nodes }] })) n

/-- `COMMAND_GRAPH`: binds a graph to the queue's context. -/
def execCommandGraph (queue index : Nat) (s : State) : Res :=
  .next (waitingCommand queue index 2 (fun c => c.operand % 16 == 0 && c.value == 0) tryGraph s)

/-! ## Wait and signal (R338) -/

/-- Try a wait: it completes when its word is at least its value. -/
def tryWait (n : Nat) (s : State) : State :=
  let c := commandAt s n
  match readSpan s (queueSpace s c.queue) c.operand 8 with
  | (s1, .error e) => failAccess s1 n e
  | (s1, .ok b) => if c.value ≤ recField b 0 8 then finishCommand s1 n else s1

/-- `COMMAND_WAIT`: completes when the word it names reaches its value. -/
def execCommandWait (queue index : Nat) (s : State) : Res :=
  .next (waitingCommand queue index 3 (fun c => c.operand % 8 == 0) tryWait s)

/-- Write a signal's word at its home; why it cannot be. -/
def signalWord (s : State) (sp : Space) (addr v : Nat) : State × Option AccErr :=
  match locating s sp addr 8 { write := true } with
  | (s1, .error e) => (s1, some e)
  | (s1, .ok (a, pound)) => match storeCheck s1 a 8 true pound with
    | (s2, some b) => (s2, some (.data b))
    | (s2, none) => (writeLoc s2 a 8 v none, none)

/-- Try a signal: after every earlier command of its queue, the value is written and the queue's vector is raised. -/
def trySignal (n : Nat) (s : State) : State :=
  let c := commandAt s n
  if !earlierCommands s c.queue n then s
  else
    let msi (s : State) : State := { s with msix := s.msix ++ [(queueAt s c.queue).vector] }
    match signalWord s (queueSpace s c.queue) c.operand c.value with
    | (s1, none) => msi (finishCommand s1 n)
    | (s1, some e) => msi (failAccess s1 n e)

/-- `COMMAND_SIGNAL`: writes a value after every earlier command, and raises the queue's MSI-X vector. -/
def execCommandSignal (queue index : Nat) (s : State) : Res :=
  .next (waitingCommand queue index 4 (fun c => c.operand % 8 == 0) trySignal s)

/-! ## Reach, rung, release and reserved kinds (R341, R351, R353) -/

/-- Change the reaches of a die. -/
def modReach (s : State) (d : Nat) (f : DieReach → DieReach) : State :=
  modLaunch s (fun l => { l with reaches := mapSet {} d (f (dieReach s d)) l.reaches })
/-- G* within its limits (R351). -/
def clampTarget (x : DieReach) (g : Nat) : Nat := max x.gmin (min x.gmax g)

/-- `COMMAND_REACH`: sets a die's target G*, on a privileged queue. -/
def execCommandReach (queue index : Nat) (s : State) : Res :=
  .next (runCommand queue index 5 (fun c => decide (c.operand < 4) && bitField c.value 9 7 == 0 && decide (c.value < 2 ^ 17)) (fun c s =>
    let s1 := startCommand s queue { c with done := true }
    if !(queueAt s queue).privileged then logLauncher s1 (queueSource s queue index 0) 0x0508 1 0
    else modReach s1 c.operand (fun x => { x with target := clampTarget x (bitField c.value 0 9), preempt := bitOf c.value 16 })) s)

/-- The running grid that a launch record of a context started last. -/
def gridOfRecordAt (s : State) (ctx record : Nat) : Option Nat :=
  ((List.range s.grids.length).filter (fun i =>
    let x := grid s i
    x.ctx == ctx && x.record == record && x.parent.isNone && x.phase != .complete && x.queue.isSome)).getLast?

/-- `COMMAND_RUNG`: raises the rung of a running grid, on a privileged queue.
DEDUCED: notes/assumptions/51.md. -/
def execCommandRung (queue index : Nat) (s : State) : Res :=
  .next (runCommand queue index 6 (fun c => c.operand % 128 == 0 && decide (c.value < 4)) (fun c s =>
    let s1 := startCommand s queue { c with done := true }
    let refused := logLauncher s1 (queueSource s queue index c.operand) 0x0508 1 c.operand
    match gridOfRecordAt s (queueAt s queue).ctx c.operand with
    | none => refused
    | some i =>
      if !(queueAt s queue).privileged ∨ c.value < (grid s i).rung ∨ (grid s i).rungmax < c.value then refused
      else modGrid s1 i (fun x => { x with rung := c.value })) s)

/-- Try a release: once no grid of the context names the segid, its segments are freed on every die. -/
def tryRelease (n : Nat) (s : State) : State :=
  let c := commandAt s n
  let ctx := (queueAt s c.queue).ctx
  if (keptSeg s ctx c.operand).isNone then failCommand s n 0x0513 0
  else if segInUse s ctx c.operand then s
  else finishCommand (modLaunch s (fun l => { l with kept := l.kept.filter (fun k => k.ctx != ctx || k.segid != c.operand) })) n

/-- `COMMAND_RELEASE`: frees kept segments once no grid names their segid. -/
def execCommandRelease (queue index : Nat) (s : State) : Res :=
  .next (waitingCommand queue index 7 (fun c => decide (c.operand < 256) && c.value == 0) tryRelease s)

/-- `COMMAND_RESERVED`: a reserved kind is rejected; a command that cannot be read completes with code 0x0510. -/
def execCommandReserved (queue index : Nat) (s : State) : Res :=
  if !mayStart s queue index then .next s
  else match headCommand s queue with
    | (s1, .error e) =>
      let addr := (queueAt s queue).ring.toNat + 64 * index
      .next (logLauncherErr (startCommand s1 queue { commandOf queue index [] with done := true }) (queueSource s1 queue index addr) 0x0510
        addr e)
    | (_, .ok b) => .next (if 1 ≤ recField b 0 1 ∧ recField b 0 1 ≤ 7 then s else rejectCommand s queue index b 0x0507 0)

/-- `GRANT_WAIT_END`: a grid whose flights and domains no placed grid holds any longer waits no more for them (R343). -/
def execGrantWaitEnd (i : Nat) (s : State) : Res :=
  .next (if (grid s i).grantWait ∧ !grantBusy s (grid s i) then
    modGrid s i (fun x => { x with grantWait := false, waitingSince := timeOf s }) else s)

end Sys2Proof.Machine
end

