-- ==== Sys2Proof/Machine/Control.lean ====
section
/-!
DEFINITION. Branches, calls, loops, exit, scheduling hints and traps (spec/09_isa_uniform_control.md, R189 to R202; R424).
-/
namespace Sys2Proof.Machine

/-- Take a branch to an exact target: it must be a PC value of index 0 on an 8-byte boundary, or cause 0x0C follows (R189, R424).
DEDUCED: notes/assumptions/11.md. -/
def branchTo (s : State) (target : DWord) : State :=
  if bitField target.toNat 57 7 ≠ 0 ∨ target.toNat % 8 ≠ 0 then takeTrap s s.cur 0x0C 0 (some target.toNat)
  else jumpTo s s.cur target

/-- The address of the instruction under issue, p. -/
def ownAddress (s : State) : DWord := BitVec.ofNat 64 (pcInstr (me s).pc)
/-- The address after the clause under issue: h + 8 + 8·n. -/
def fallThrough (s : State) : Nat := nextClause (pcHeader (me s).pc) (clauseOf (me s)).count

/-- `br`: always taken. -/
def execBr (f : FmtI) (s : State) : Res :=
  issue (sigBrOf f) (fun t =>
    .next (branchTo t ((if f.op = 1 then spair (me t) f.a.toNat else ownAddress t) + sextImm f.imm))) s
/-- `bz`: taken when exec is zero. -/
def execBz (f : FmtI) (s : State) : Res :=
  issue (sigBzOf f) (fun t =>
    .next (if activeMask t t.cur = 0 then branchTo t (ownAddress t + sextImm f.imm) else advance t t.cur)) s
/-- `bnz`: taken when exec is not zero. -/
def execBnz (f : FmtI) (s : State) : Res :=
  issue (sigBnzOf f) (fun t =>
    .next (if activeMask t t.cur ≠ 0 then branchTo t (ownAddress t + sextImm f.imm) else advance t t.cur)) s
/-- `bs`: taken when a is nonzero (op 0) or zero (op 1). -/
def execBs (f : FmtI) (s : State) : Res :=
  issue (sigBsOf f) (fun t =>
    .next (if (uniWord (me t) f.ka f.a = 0) = (f.op = 1) then branchTo t (ownAddress t + sextImm f.imm) else advance t t.cur)) s

/-- `call`: the link pair receives the next clause's address, the spill pointer rises by the frame size, and control moves to the
target, computed from the old pair in the indirect form (R190). -/
def execCall (f : FmtI) (s : State) : Res :=
  issue (sigCallOf f) (fun t =>
    let target := (if f.op = 1 then spair (me t) f.d.toNat else ownAddress t) + sextImm f.imm
    let frame := (uniWord (me t) f.ka f.a).zeroExtend 64
    if bitField target.toNat 57 7 ≠ 0 ∨ target.toNat % 8 ≠ 0 then .next (takeTrap t t.cur 0x0C 0 (some target.toNat))
    else
      .next (jumpTo (modMe t (fun x =>
        setSpair f.d.toNat (mkPc (fallThrough t) 0) { x with spill := x.spill + frame })) t.cur target)) s

/-- `ret`: the PC value in the link pair is checked (R142), the spill pointer falls by the frame size, and control moves there. -/
def execRet (f : FmtT) (s : State) : Res :=
  issue (sigRetOf f) (fun t =>
    let pc := spair (me t) f.a.toNat
    let frame := (uniWord (me t) f.kb f.b).zeroExtend 64
    match checkPc t t.cur pc with
    | .target => .next (takeTrap t t.cur 0x0C 0 (some pc.toNat))
    | .noFetch => .next (takeTrap t t.cur 7 0 (some (pcHeader pc)))
    | .good => .next (jumpTo (modMe t (fun x => { x with spill := x.spill - frame })) t.cur pc)) s

/-- `loop`: opens the next loop register, or skips the body when the count is zero (R193).
DEDUCED: notes/assumptions/7.md. -/
def execLoop (f : FmtI) (s : State) : Res :=
  issue (sigLoopOf f) (fun t =>
    let k := liveLoops (me t)
    let start := fallThrough t
    let endh : Int := (ownAddress t).toNat + f.imm.toInt
    let count := uniWord (me t) f.ka f.a
    if k = 4 then .next (takeTrap t t.cur 0x0D 1 none)
    else if endh < (start : Int) then .next (takeTrap t t.cur 0x0D 4 none)
    else if count = 0 then
      match fetching t t.cur endh.toNat with
      | (t1, none) => .next (takeTrap t1 t.cur 7 0 (some endh.toNat))
      | (t1, some w) => match readClause t1 t.cur endh.toNat w with
        | (t2, none) => .next (takeTrap t2 t.cur 1 0x0200 none)
        | (t2, some (c, _)) => .next (jumpTo t2 t.cur (mkPc (nextClause endh.toNat c.count) 0))
    else
      .next (advance (modMe t
        (setLoopReg k { start := mkPc start 0, stop := BitVec.ofNat 64 endh.toNat, count := count })) t.cur)) s

/-- Close the innermost live loop, if there is one (R195). -/
def closeLoop (x : Group) : Group :=
  match liveLoops x with
  | 0 => x
  | k + 1 => setLoopReg k { loopReg x k with count := 0 } x

/-- `lbrk`: op 0 always, 1 when exec is zero, 2 when a is nonzero, 3 when a is zero. -/
def execLbrk (f : FmtI) (s : State) : Res :=
  issue (sigLbrkOf f) (fun t =>
    let x := me t
    let close : Bool := match f.op.toNat with
      | 0 => true
      | 1 => activeMask t t.cur == 0
      | 2 => uniWord x f.ka f.a != 0
      | _ => uniWord x f.ka f.a == 0
    .next (advance (if close then modMe t closeLoop else t) t.cur)) s

/-- Retire lanes: live and exec lose them (R42, R197). -/
def retireLanes (m : DWord) (x : Group) : Group := { x with live := x.live &&& ~~~ m, exec := x.exec &&& ~~~ m }

/-- Note the lanes that end by `exit`: which they are and, of an any-hit program, their v0 then (R310). -/
def noteExit (m : DWord) (x : Group) : Group :=
  { x with exited := x.exited ||| m,
           exitV0 := if x.anyHit then x.exitV0 ++ (lanesOf m 64).map (fun l => (l, vlane x 0 l)) else x.exitV0 }

/-- `exit`: the active lanes end; when no live lane is left the group ends. -/
def execExit (f : FmtT) (s : State) : Res :=
  issue (sigExitOf f) (fun t =>
    let gone := activeMask t t.cur
    let t1 := modMe t (fun x => retireLanes gone (noteExit gone x))
    .next (if (me t1).live = 0 then endGroup t1 t.cur else advance t1 t.cur)) s

/-- `nop`: no effect. -/
def execNop (f : FmtT) (s : State) : Res := issue (sigNopOf f) (fun t => .next (advance t t.cur)) s
/-- `yield`: after its clause the group trades places as a set yield bit does (R198). -/
def execYield (f : FmtT) (s : State) : Res :=
  issue (sigYieldOf f) (fun t =>
    .next (advance (modMe t (fun x => yieldAfter 0 x)) t.cur)) s
/-- `sleep`: after its clause the group leaves the active set for t = (a + imm)[31:0] clocks (R199). -/
def execSleep (f : FmtI) (s : State) : Res :=
  issue (sigSleepOf f) (fun t =>
    let n := ((if f.ka = 1 then sreg (me t) f.a.toNat else 0) + f.imm).toNat
    .next (advance (modMe t (fun x => yieldAfter n x)) t.cur)) s

/-- `bkpt`: the breakpoint trap, before the instruction (R200). -/
def execBkpt (f : FmtT) (s : State) : Res :=
  issue (sigBkptOf f) (fun t => .next (takeTrap t t.cur 2 f.op.toNat none)) s
/-- `trap`: the software trap, with `%trappc` naming the next clause (R201). No loop-end check applies (R194). -/
def execTrap (f : FmtI) (s : State) : Res :=
  issue (sigTrapOf f) (fun t =>
    let x := me t
    .next (takeTrap (leaveClause (modMe t (fun y => { stepped y with pc := mkPc (fallThrough t) 0, clause := none })) t.cur x)
      t.cur 3 (f.imm.toNat % 65536) none)) s
/-- `trapret`: leaves the handler (R202, R412); outside one it is cause 0x01, detail 0x0203.
DEDUCED: notes/assumptions/108.md. -/
def execTrapret (f : FmtT) (s : State) : Res :=
  issue (sigTrapretOf f) (fun t =>
    .next (if (me t).intrap then returnFromTrap t t.cur else takeTrap t t.cur 1 0x0203 none)) s

end Sys2Proof.Machine
end

