-- ==== Sys2Proof/Machine/Host.lean ====
section
/-!
DEFINITION. The host's side: its memory, BAR2, queue entries and doorbells, duty modes, time adjustment, log control and faultreply (R117, spec/18_host_links_time.md, R361 to R363, R371, R380; spec/17_scheduler.md, R351; spec/23_faults_reporting.md, R397, R404;
spec/26_faults_memory.md, R448, R449).
-/
namespace Sys2Proof.Machine

/-- Change the host's registers. -/
def modBar (s : State) (f : Bar → Bar) : State := { s with bar := f s.bar }
/-- Answer the host's access. -/
def hostReply (s : State) (r : HostReply) : State := modBar s (fun b => { b with reply := r })
/-- A completer abort, logged (Table 26-1, R449).
DEDUCED: notes/assumptions/100.md. -/
def hostAbort (s : State) (code addr : Nat) : State := hostReply (logModule s code 1 9 0 0 addr) .abort

/-! ## BAR2 (R361, R363, R449) -/

/-- Physical address of a BAR2 offset, through an enabled aperture (Table 18-4). -/
def apertureAddr (s : State) (off : Nat) : Option Nat :=
  let x := (mapGet 0 s.bar.apertures (off / 2 ^ 33)).toNat
  if off / 2 ^ 33 < 8 ∧ bitOf x 0 then some (bitField x 33 19 * 2 ^ 33 + off % 2 ^ 33) else none

/-- One event of a host access: the bytes read, or none where it is aborted. A host write leaves full/empty bits as they are (R118). -/
def hostEvent (s : State) (off n : Nat) (write : Bool) (data : Nat) : State × Option Nat :=
  match apertureAddr s off with
  | none => (hostAbort s 0x0920 off, none)
  | some a =>
    if !physOk s.poundSize a n then (hostAbort s 0x0920 off, none)
    else match storeCheck s a n write true with
      | (s1, some b) =>
        (hostReply (logRecord s1 { seq := 0, time := 0, addr := badAddr a, code := 0x0921, cls := 1, flags := 3, unitKind := 9,
                                   detail := b.detail }) .abort, none)
      | (s1, none) => (if write then writeLoc s1 a n data none else s1, some (rd s1 a n))

/-- The events of an access that is not naturally aligned, or above 8 bytes: one for each byte. The data of the bytes so far; none when
one was aborted. -/
def hostBytes : Nat → State → Nat → Bool → Nat → State × Option Nat
  | 0, s, _, _, _ => (s, some 0)
  | n + 1, s, off, write, data =>
    let (s1, r) := hostEvent s off 1 write (data % 256)
    let (s2, q) := hostBytes n s1 (off + 1) write (data / 256)
    (s2, match r, q with
      | some x, some y => some (x + 256 * y)
      | _, _ => none)

/-- Every byte of a host access lies under no line that an `mcas` holds (R245). -/
def hostFree (s : State) (off n : Nat) : Bool :=
  (List.range n).all (fun i => match apertureAddr s (off + i) with
    | none => true
    | some a => unlocked s noOp a 1)

/-- `HOST_BAR2_ACCESS`: a read or write of `size` bytes at a BAR2 offset. -/
def execHostBar2Access (offset size : Nat) (write : Bool) (data : Nat) (s : State) : Res :=
  if !hostFree s offset size then .next s
  else
    let (s1, r) :=
      if (size = 1 ∨ size = 2 ∨ size = 4 ∨ size = 8) ∧ offset % size = 0 then hostEvent s offset size write data
      else hostBytes size s offset write data
    .next (hostReply s1 (match r with
      | none => .abort
      | some v => if write then .quiet else .data v))

/-- The host writes bytes of its own memory, which the device keeps no copy of (R117). -/
def hostStore (s : State) (a n data : Nat) : State :=
  if n ≠ 0 ∧ regionOf s.poundSize a = .host ∧ regionOf s.poundSize (a + n - 1) = .host ∧ unlocked s noOp a n then writeLoc s a n data none
  else s

/-! ## Queues (R362) -/

/-- A write to a queue that is ignored and logged. -/
def queueIgnored (s : State) (q : Nat) : State :=
  logRecord s { seq := 0, time := 0, code := 0x0509, cls := 4, queue := q }

/-- Set a queue's enable from its register: from 0 to 1, head and the device's copy of the tail are set to 0. -/
def setEnable (x : Queue) (v : Bool) : Queue := if v ∧ !x.enabled then { x with enabled := true, head := 0, tail := 0 } else { x with enabled := v }

/-- A doorbell write sets the tail.
DEDUCED: notes/assumptions/75.md. -/
def doorbell (s : State) (q tail : Nat) : State :=
  if 128 ≤ q then s
  else if 2 ^ (queueAt s q).size ≤ tail then queueIgnored s q
  else modQueue s q (fun x => { x with tail })

/-- `DOORBELL`: sets the tail. -/
def execDoorbell (queue : Nat) (data : Word) (s : State) : Res := .next (doorbell s queue data.toNat)

/-- `QUEUE_ENABLE`: the host sets enable; an enabled entry takes no write but one that clears it. -/
def execQueueEnable (queue : Nat) (s : State) : Res :=
  if 128 ≤ queue then .next s
  else if (queueAt s queue).enabled then .next (queueIgnored s queue)
  else .next (modQueue s queue (fun x => setEnable x true))

/-- `QUEUE_DISABLE`: the host clears enable; head keeps its value. -/
def execQueueDisable (queue : Nat) (s : State) : Res :=
  if 128 ≤ queue then .next s else .next (modQueue s queue (fun x => setEnable x false))

/-- What the fields of a queue entry from offset `o` become (Table 18-3): the ring; size, prio and flags, with context and vector when the
write is a dword; context and vector. -/
def withQueueFields (o n v : Nat) (x : Queue) : Queue :=
  let low (x : Queue) : Queue :=
    setEnable { x with size := bitField v 0 8, prio := bitField v 8 8, gfx := bitOf v 16, privileged := bitOf v 17 } (bitOf v 23)
  if o = 0 then { x with ring := BitVec.ofNat 64 v }
  else if o = 8 then low (if n = 8 then { x with ctx := bitField v 32 16, vector := bitField v 48 16 } else x)
  else if o = 0xC then { x with ctx := bitField v 0 16, vector := bitField v 16 16 }
  else x

/-- A write of `n` bytes at offset `o` of a queue entry: one that finds it enabled and does not clear enable is ignored.
DEDUCED: notes/assumptions/67.md, notes/assumptions/69.md. -/
def writeQueue (s : State) (q o n v : Nat) : State :=
  if (queueAt s q).enabled ∧ !(o = 8 ∧ !bitOf v 23) then queueIgnored s q else modQueue s q (withQueueFields o n v)

/-! ## Duties and limits (R351, R380) -/

/-- The grids that run. -/
def runningGrids (s : State) : List Grid := s.grids.filter (fun x => x.phase == .running)

/-- Whether a grid uses a duty (Table 18-8): page faults and triage, any grid that runs; retraining, one with a `tremote` that is not
complete; the ladder, one with a deadline; the reach, a graphics grid with a deadline; the scrub, none.
DEDUCED: notes/assumptions/72.md. -/
def dutyUsed (s : State) (bit : Nat) : Bool :=
  match bit with
  | 0 => !(runningGrids s).isEmpty
  | 1 => !(runningGrids s).isEmpty
  | 2 => s.tows.any (fun c => c.oper == 0x92 && c.phase != .done)
  | 3 => false
  | 4 => (runningGrids s).any (fun x => x.deadline != 0)
  | _ => (runningGrids s).any (fun x => x.gfx && x.deadline != 0)

/-- A write of the duty-mode register sets the modes, unless a bit that would change is in use. -/
def writeDuty (s : State) (data : Word) : State :=
  let v := data &&& 0x3F
  if (List.range 6).any (fun i => v.getLsbD i != s.duty.getLsbD i && dutyUsed s i) then logModule s 0x050D 4 0 0 0 0
  else { s with duty := v }
/-- `DUTY_MODE_WRITE`: sets the duty modes. -/
def execDutyModeWrite (data : Word) (s : State) : Res := .next (writeDuty s data)

/-- A write of a reach-limit register sets a die's gmin and gmax, and clamps its target to them.
DEDUCED: notes/assumptions/74.md. -/
def writeLimits (s : State) (die : Nat) (data : Word) : State :=
  let gmin := bitField data.toNat 0 9
  let gmax := bitField data.toNat 16 9
  if 4 ≤ die then s
  else if gmax < gmin ∨ 288 < gmin ∨ 288 < gmax then logModule s 0x0514 4 0 0 die 0
  else modReach s die (fun x => { x with gmin, gmax, target := clampTarget { x with gmin, gmax } x.target })
/-- `REACH_LIMIT_WRITE`: sets a die's gmin and gmax. -/
def execReachLimitWrite (die : Nat) (data : Word) (s : State) : Res := .next (writeLimits s die data)

/-! ## Time (R371) -/

/-- 1,000 ppm in parts per 2^32. -/
def maxFreq : Int := 4294967

/-- A frequency adjustment within its limits.
DEDUCED: notes/assumptions/73.md. -/
def limitFreq (v : Int) : Int := max (-maxFreq) (min maxFreq v)

/-- Apply an offset in nanoseconds: forward at once, backward by running slow until it is spent. -/
def applyOffset (s : State) (v : Int) : State :=
  if 0 ≤ v then { s with ptpNs := s.ptpNs + BitVec.ofNat 64 v.toNat } else modBar s (fun b => { b with debt := b.debt + (-v).toNat * 2 ^ 32 })

/-- Set the frequency adjustment. -/
def setFreq (s : State) (v : Int) : State := modBar s (fun b => { b with freq := limitFreq v })

/-- `TIME_FREQ_WRITE`: sets the frequency adjustment. -/
def execTimeFreqWrite (data : Word) (s : State) : Res := .next (setFreq s data.toInt)

/-- `TIME_OFFSET_WRITE`: applies an offset. -/
def execTimeOffsetWrite (data : DWord) (s : State) : Res := .next (applyOffset s data.toInt)

/-! ## The log and faultreply (R397, R399, R404) -/

/-- Write the records of the internal buffer to the ring. -/
def flushLog (s : State) : State := s.log.buffer.foldl logPut { s with log := { s.log with buffer := [] } }

/-- A write of logctl: a 1 in ovf clears it; a reserved size leaves size unchanged and is logged; setting en writes out the internal
buffer. -/
def writeLogctl (s : State) (data : Word) : State :=
  let x := data.toNat
  let l := s.log
  let size := if bitField x 4 4 ≤ 10 then bitField x 4 4 else l.size
  let s1 : State := { s with log := { l with en := bitOf x 0, size, ovf := l.ovf && !bitOf x 8 } }
  let s2 := if bitOf x 0 ∧ !l.en then flushLog s1 else s1
  if 10 < bitField x 4 4 then logModule s2 0x0512 4 0 0 0 0 else s2
/-- `LOGCTL_WRITE`: sets size and en, clears ovf. -/
def execLogctlWrite (data : Word) (s : State) : Res := .next (writeLogctl s data)

/-- The count of lost records, as a word; reading it clears it. -/
def lostWord (s : State) : Nat := s.log.lost % 2 ^ 32
/-- The count is cleared. -/
def clearLost (s : State) : State := { s with log := { s.log with lost := 0 } }

/-- `LOGLOST_READ`: returns the count of lost records, then clears it, as one event. -/
def execLoglostRead (s : State) : Res := .next (hostReply (clearLost s) (.data (lostWord s)))

/-- The held fault of a record, if it still waits for an answer. -/
def heldFault (s : State) (seq : Nat) : Option Held := s.held.find? (fun h => h.seq == seq && !h.failed)

/-- A faultreply that names no held fault is ignored and logged. -/
def replyIgnored (s : State) : State := logModule s 0x050F 4 0 0 0 0

/-- A held access fails with status 0x03. -/
def failHeld (s : State) (h : Held) : State := { s with held := s.held.map (fun x => if x = h then { x with failed := true } else x) }
/-- A held access translates again, at its requester's next turn. -/
def retryHeld (s : State) (h : Held) : State := { s with held := s.held.filter (fun x => x != h) }
/-- A write of faultreply answers the held fault of a record. -/
def faultreply (s : State) (seq : Nat) (fail : Bool) : State :=
  match heldFault s seq with
  | none => replyIgnored s
  | some h => if fail then failHeld s h else retryHeld s h

/-- `FAULTREPLY_RETRY`: the requester's next turn translates again. -/
def execFaultreplyRetry (seq : Nat) (s : State) : Res := .next (faultreply s seq false)

/-- `FAULTREPLY_FAIL`: fails a held access. -/
def execFaultreplyFail (seq : Nat) (s : State) : Res := .next (faultreply s seq true)

/-- `HELD_FAULT_TIMEOUT`: a fault held for 100 ms fails. -/
def execHeldFaultTimeout (seq : Nat) (s : State) : Res :=
  match heldFault s seq with
  | none => .next s
  | some h => .next (if h.since + 100000000 ≤ timeOf s then failHeld s h else s)

end Sys2Proof.Machine
end

