-- ==== Sys2Proof/Machine/Reload.lean ====
section
/-!
DEFINITION. Reloads: the configuration region (spec/18_host_links_time.md, R364; R9, R114 to R116, R341) and the debug mailbox with its
hold register (spec/29_program_debugger_stub.md, R495 to R501).

A reload reads every entry, waits for what its change makes it wait for, and acknowledges, in one event: until then the units keep what
they held.
-/
namespace Sys2Proof.Machine

/-! ## Entries (Table 18-5) -/

/-- An entry as a reload reads it. -/
inductive Entry (α : Type) where
  /-- not present -/
  | absent
  /-- a reserved field is not zero: treated as absent, and logged -/
  | reserved
  | present (a : α)
deriving Repr

/-- The log entry of a table entry with a nonzero reserved field (R364, R497). -/
def logReserved (s : State) (a : Nat) : State := logModule s 0x050E 4 0 0 0 (2 ^ 63 + a)

/-- Read an entry of `n` bytes; one that cannot be read is absent, and its data fault is logged.
DEDUCED: notes/assumptions/88.md. -/
def readEntry {α : Type} (s : State) (a n : Nat) (parse : List Byte → Entry α) : State × Option α :=
  match checkRead s a n with
  | (s1, some b) => (logAccErr s1 none a (.data b), none)
  | (s1, none) => match parse (readBytes s1.mem a n) with
    | .absent => (s1, none)
    | .reserved => (logReserved s1 a, none)
    | .present x => (s1, some x)

/-- Read the entries of a table that a list of indices names. -/
def readEntries {α : Type} (base n : Nat) (parse : List Byte → Entry α) : List Nat → State → State × List (Nat × α)
  | [], s => (s, [])
  | i :: t, s =>
    let (s1, r) := readEntry s (base + n * i) n parse
    let (s2, l) := readEntries base n parse t s1
    (s2, match r with
      | some x => (i, x) :: l
      | none => l)

/-- A quay arena (R115). One whose base or length is not a multiple of 2 MiB is taken in as written.
DEDUCED: notes/assumptions/87.md. DESIGN CHOICE: notes/assumptions/138.md. -/
def parseArena (b : List Byte) : Entry Arena :=
  let perm := recField b 16 4
  if 4 ≤ perm ∨ recField b 22 10 ≠ 0 then .reserved
  else if recField b 8 8 = 0 then .absent
  else .present { base := recField b 0 8, length := recField b 8 8, read := bitOf perm 0, write := bitOf perm 1, ctx := recField b 20 2 }

/-- A surface binding (R326). -/
def parseBinding (b : List Byte) : Entry Binding :=
  if recField b 17 15 ≠ 0 then .reserved
  else if recField b 12 2 = 0 then .absent
  else .present
    { base := recField b 0 8, pitch := recField b 8 4, width := recField b 12 2, height := recField b 14 2, format := recField b 16 1 }

/-- A context root (R112). -/
def parseRoot (b : List Byte) : Entry Nat :=
  let x := recField b 0 8
  if bitField x 1 11 ≠ 0 ∨ bitField x 52 12 ≠ 0 then .reserved else if bitOf x 0 then .present x else .absent

/-- An invalidation record: a context and a range of virtual addresses. -/
structure Invalidation where
  ctx : Nat
  start : Nat
  len : Nat
deriving DecidableEq, Repr

/-- An invalidation record (R114). -/
def parseInvalidation (b : List Byte) : Entry Invalidation :=
  if recField b 2 6 ≠ 0 ∨ recField b 25 7 ≠ 0 ∨ 1 < recField b 24 1 then .reserved
  else if recField b 24 1 = 0 then .absent
  else .present { ctx := recField b 0 2, start := recField b 8 8, len := recField b 16 8 }

/-- Read the named entries of each table and the invalidation record (R364). -/
def readTables (arenas bindings roots : List Nat) (s : State) : State × Latched × Option Invalidation :=
  let b := s.bar.cfgbase
  let (s1, arenas) := readEntries (b + 0x1000) 32 parseArena arenas s
  let (s2, bindings) := readEntries (b + 0x8000) 32 parseBinding bindings s1
  let (s3, roots) := readEntries (b + 0x10000) 8 parseRoot roots s2
  let (s4, inv) := readEntry s3 (b + 0x100) 32 parseInvalidation
  (s4, { roots, arenas, bindings }, inv)

/-- The tables of the configuration region as they stand in memory. -/
def readConfig (s : State) : State × Latched × Option Invalidation :=
  readTables (List.range 768) (List.range 256) (List.range 4096) s

/-! ## What a reload waits for -/

/-- An access of `n` bytes at a virtual address lies in an invalidated range. -/
def invalidates (v : Invalidation) (named n : Nat) : Bool :=
  bitField named 60 4 == 0 && decide (v.start < bitField named 0 57 + n) && decide (bitField named 0 57 < v.start + v.len)

/-- An access that may have used a translation in the range is still to be performed at its home (R114): a lane of an operation, a
`redb` entry, a silt write, a retire word of a `frel`, or a done word. -/
def usesOld (s : State) (v : Invalidation) : Bool :=
  s.sync.redb.any (fun e => (gridOf s e.g).ctx == v.ctx && invalidates v e.named (typeBits e.ty / 8)) ||
    s.bar.frels.any (fun p => p.2.retire.isSome && p.2.ctx == v.ctx && invalidates v p.2.named 8) ||
    s.ops.any (fun x => !x.finished && (gridOf s x.g).ctx == v.ctx &&
      (waitingLanes x).any (fun y => x.stk || invalidates v y.named x.size)) ||
    s.fabric.remotes.any (fun r => !r.silt.isEmpty && r.answered.isNone && (gridOf s ((s.tows[r.tow]?).elim 0 (·.g))).ctx == v.ctx) ||
    s.bar.outputs.any (fun o => (o.2.pending ++ o.2.retiring ++ o.2.scanned.toList).any (fun r =>
      r.retire.isSome && r.ctx == v.ctx && invalidates v r.named 8)) ||
    (liveGrids s).any (fun x => x.done.isSome && x.ctx == v.ctx && invalidates v x.doneNamed 8)

/-- A request of a context that stack `k`'s arenas may have admitted is not complete (R116).
DEDUCED: notes/assumptions/86.md. -/
def arenaBusy (s : State) (k ctx : Nat) : Bool :=
  s.quay.traces.any (fun t => t.ctx == ctx && !(op s t.op).finished) ||
    s.quay.filters.any (fun f => f.ctx == ctx && !(op s f.op).finished) ||
    s.tows.any (fun c => (c.oper == 0xFE || c.oper == 0x91) && c.phase != .done && c.phase != .waiting && (gridOf s c.g).ctx == ctx) ||
    s.ops.any (fun x => !x.finished && isQuayCore (coreOf s x.g) && quayStackOf (coreOf s x.g) == k && (gridOf s x.g).ctx == ctx)

/-- Arenas that are gone, or changed, have no request left (R116, R364). -/
def arenasFree (s : State) (l : Latched) : Bool :=
  s.latched.arenas.all (fun p => mapGet {} l.arenas p.1 == p.2 || !arenaBusy s (p.1 / 32) p.2.ctx)

/-- Contexts whose root is removed. -/
def removedContexts (s : State) (l : Latched) : List Nat :=
  (s.latched.roots.map (·.1)).filter (fun c => bitOf (mapGet 0 s.latched.roots c) 0 && !bitOf (mapGet 0 l.roots c) 0)

/-- Every grid of a context that is removed has completed (R341). -/
def contextsFree (s : State) (l : Latched) : Bool :=
  (removedContexts s l).all (fun c => !(liveGrids s).any (fun x => x.ctx == c))

/-- `CONFIG_CHANGE_RELOAD`: the change word has a new value; once nothing that the change waits for is left, the units hold the new
entries, segments kept by removed contexts are freed, the invalidation record is cleared and the change word's value is written to the
acknowledgement word.
DEDUCED: notes/assumptions/86.md. -/
def execConfigChangeReload (s : State) : Res :=
  let b := s.bar.cfgbase
  let change := rd s b 8
  if !s.ready ∨ change = s.bar.change then .next s
  else
    let (s1, l, inv) := readConfig s
    if !arenasFree s l || !contextsFree s l || inv.any (usesOld s) then .next s
    else
      let gone := removedContexts s l
      let s2 := modLaunch { s1 with latched := l } (fun x => { x with kept := x.kept.filter (fun k => !gone.contains k.ctx) })
      let s3 := writeLocBytes (modBar s2 (fun x => { x with change })) (b + 0x100) (List.replicate 32 0) none
      .next (writeLoc s3 (b + 8) 8 change none)

/-! ## The debug mailbox (Tables 29-1 to 29-5) -/

/-- A write of the hold register sets hold; clearing it ends every halted group at once, wherever its team is (R414, R501).
DEDUCED: notes/assumptions/90.md. -/
def writeHold (s : State) (data : Word) : State :=
  let hold := data.getLsbD 0
  let s1 : State := { s with dbg := { s.dbg with hold } }
  if s.dbg.hold ∧ !hold then (List.range s.groups.length).foldl (fun s g => if (grp s g).halted then endHalted s g else s) s1
  else s1
/-- `DEBUG_HOLD_WRITE`: sets or clears hold. -/
def execDebugHoldWrite (data : Word) (s : State) : Res := .next (writeHold s data)

/-- The step entry (Table 29-3): core and group.
DEDUCED: notes/assumptions/89.md. -/
def parseStep (b : List Byte) : Entry (Nat × Nat) :=
  let x := recField b 0 8
  if bitField x 41 23 ≠ 0 then .reserved else if bitOf x 40 then .present (bitField x 0 32, bitField x 32 8) else .absent

/-- A breakpoint (Table 29-4): PC value and group. -/
def parseBreak (b : List Byte) : Entry (DWord × Nat) :=
  let pc := recField b 0 8
  let ctl := recField b 8 8
  if bitField pc 57 3 ≠ 0 ∨ 2 ^ 9 ≤ ctl then .reserved
  else if bitOf ctl 8 then .present (BitVec.ofNat 64 pc, bitField ctl 0 8) else .absent

/-- A watchpoint (Table 29-5). -/
def parseWatch (b : List Byte) : Entry Watch :=
  let x := recField b 0 8
  if bitField x 57 7 ≠ 0 ∨ bitField x 50 6 ≠ 0 ∨ bitField x 44 4 ≠ 0 ∨ bitField x 19 13 ≠ 0 then .reserved
  else if bitOf x 56 then .present { off := bitField x 0 19, len := bitField x 32 12, rd := bitOf x 48, wr := bitOf x 49 } else .absent

/-- `DEBUG_MAILBOX_RELOAD`: while change differs from ack, the device reads every entry once, applies them and writes ack. -/
def execDebugMailboxReload (s : State) : Res :=
  match s.dbg.base with
  | none => .next s
  | some b =>
    let change := rd s b 8
    if change = rd s (b + 8) 8 then .next s
    else
      let (s1, step) := readEntry s (b + 0x20) 8 parseStep
      let (s2, breaks) := readEntries (b + 0x40) 16 parseBreak (List.range 4) s1
      let (s3, watches) := readEntries (b + 0x80) 16 parseWatch (List.range 4) s2
      let s4 : State := { s3 with dbg := { s3.dbg with dctx := rd s3 (b + 0x18) 2, step, breaks, watches } }
      .next (writeLoc s4 (b + 8) 8 change none)

end Sys2Proof.Machine
end

