-- ==== Sys2Proof/Machine/Display.lean ====
section
/-!
DEFINITION. The timing port and the display outputs (spec/18_host_links_time.md, R370 to R374; spec/25_faults_instructions.md, R446;
spec/27_faults_engines_links.md, R490, R491).
-/
namespace Sys2Proof.Machine

/-! ## The PTP servo (R370, R371) -/

/-- Note what is known so far of a PTP exchange. -/
def setExchange (s : State) (ts : List Nat) : State := modBar s (fun b => { b with exchange := ts })

/-- The servo takes the four times of an exchange, and adjusts the clock's rate and offset. -/
def servo (s : State) (t1 t2 t3 t4 : Nat) : State :=
  applyOffset (setFreq s (Config.servoRate t1 t2 t3 t4 s.bar.freq)) (Config.servoOffset t1 t2 t3 t4 s.bar.freq)

/-- `PTP_EVENT_MESSAGE`: a message passes the timing port, where the clock stamps it: message 0, sent by the master at the time it names,
arrives; message 1 leaves; message 2 says when the master received message 1 of the same sequence number, and completes the exchange for
the servo.
PRESUMED: notes/assumptions/141.md. -/
def execPtpEventMessage (message sequence seconds nanos : Nat) (s : State) : Res :=
  let time := seconds * 10 ^ 9 + nanos
  .next (match message, s.bar.exchange with
    | 0, _ => setExchange s [time, timeOf s]
    | 1, [t1, t2] => setExchange s [t1, t2, timeOf s, sequence]
    | 2, [t1, t2, t3, n] => if n = sequence then servo (setExchange s []) t1 t2 t3 time else s
    | _, _ => s)

/-- `PTP_LOCK_CHANGE`: the lock register follows the servo, and the change is logged; frame starts go on (R491). -/
def execPtpLockChange (locked : Bool) (s : State) : Res :=
  if locked = s.bar.locked then .next s
  else .next (logModule (modBar s (fun b => { b with locked })) 0x0F04 4 11 0 (if locked then 0 else 1) 0)

/-! ## Output blocks (R372, Table 18-6) -/

/-- Output `o`. -/
def outputAt (s : State) (o : Nat) : Output := mapGet {} s.bar.outputs o
/-- Change an output. -/
def modOutput (s : State) (o : Nat) (f : Output → Output) : State :=
  modBar s (fun b => { b with outputs := mapSet {} o (f (outputAt s o)) b.outputs })

/-- Word `i` of a block. -/
def blockWord (w : List (Nat × Nat)) (i : Nat) : Nat := mapGet 0 w i
/-- Genlock, initial binding, DSC. -/
def blockGenlock (w : List (Nat × Nat)) : Bool := bitOf (blockWord w 0) 1
def blockInitial (w : List (Nat × Nat)) : Nat := bitField (blockWord w 0) 8 6
def blockDsc (w : List (Nat × Nat)) : Bool := bitOf (blockWord w 0) 20
/-- Owner context and lanes. -/
def blockOwner (w : List (Nat × Nat)) : Nat := bitField (blockWord w 1) 0 16
def blockLanes (w : List (Nat × Nat)) : Nat := bitField (blockWord w 1) 16 16
/-- Active width and height. -/
def blockWidth (w : List (Nat × Nat)) : Nat := bitField (blockWord w 2) 0 16
def blockHeight (w : List (Nat × Nat)) : Nat := bitField (blockWord w 2) 16 16
/-- Epoch in nanoseconds; period in units of 2^-16 ns. -/
def blockEpoch (w : List (Nat × Nat)) : Nat := blockWord w 4 + 2 ^ 32 * blockWord w 5
def blockPeriod (w : List (Nat × Nat)) : Nat := blockWord w 6 + 2 ^ 32 * blockWord w 7

/-- Data rate of a lane in bits per nanosecond: 20, 13.5 and 10 Gb/s in 128b/132b coding, 8.1 Gb/s in 8b/10b.
PRESUMED: notes/assumptions/77.md. -/
def laneRate : Nat → Nat × Nat
  | 0 => (2560, 132)
  | 1 => (1728, 132)
  | 2 => (1280, 132)
  | _ => (648, 100)

/-- The surface binding `b` that the outputs scan, held on D0 (R373). -/
def scanBinding (s : State) (b : Nat) : Binding := mapGet {} s.latched.bindings b

/-- Bits sent for a pixel, after DSC where it is enabled. -/
def pixelBits (s : State) (w : List (Nat × Nat)) : Nat :=
  let n := if (scanBinding s (blockInitial w)).format = 2 then 30 else 24
  if blockDsc w then Config.dscBits n else n

/-- The pixel rate a block asks for exceeds its link's data rate. -/
def rateExceeded (s : State) (w : List (Nat × Nat)) : Bool :=
  let pixels := (blockWidth w + bitField (blockWord w 3) 0 16) * (blockHeight w + bitField (blockWord w 3) 16 16)
  let (num, den) := laneRate (bitField (blockWord w 0) 16 2)
  decide (blockLanes w * num * blockPeriod w < pixels * pixelBits s w * 2 ^ 16 * den)

/-- A blanking of a block is shorter than its sync width plus its front porch. -/
def blankShort (w : List (Nat × Nat)) : Bool :=
  decide (bitField (blockWord w 3) 0 16 < bitField (blockWord w 10) 0 16 + bitField (blockWord w 11) 0 16) ||
    decide (bitField (blockWord w 3) 16 16 < bitField (blockWord w 10) 16 16 + bitField (blockWord w 11) 16 16)

/-- The bits of word `i` of a block that a write sets: reserved bits and the frame count stay as they are. -/
def blockMask (i : Nat) : Nat :=
  if i = 0 then 0x00133F03 else if i = 8 ∨ i = 9 then 0 else if i = 12 then 3 else if 13 ≤ i then 0 else 2 ^ 32 - 1

/-- Write word `i` of a block. -/
def setBlockWord (i v : Nat) (w : List (Nat × Nat)) : List (Nat × Nat) := mapSet 0 i (v &&& blockMask i) w

/-- The output is not enabled: enable reads back 0. -/
def disableOutput (x : Output) : Output := { x with enabled := false, words := setBlockWord 0 (blockWord x.words 0 / 2 * 2) x.words }

/-- Set enable after a write of a block: from 0 to 1, frames start to be counted from 0 and the initial binding is scanned first; the
buffer scanned before retires.
DEDUCED: notes/assumptions/80.md. -/
def enableOutput (now : Nat) (x : Output) : Output :=
  if x.enabled then x
  else { x with enabled := true, frames := 0, scanned := none, retiring := x.retiring ++ x.scanned.toList, repeats := 0, lastStart := none,
                live := x.words, enabledAt := now }

/-- Follow a block's enable after a write to it: impossible timings are refused and logged, and so is a lane count, without a record.
DEDUCED: notes/assumptions/79.md. -/
def followEnable (s : State) (o : Nat) : State :=
  let w := (outputAt s o).words
  if !bitOf (blockWord w 0) 0 then modOutput s o (fun x => { x with enabled := false })
  else if rateExceeded s w || blankShort w then logModule (modOutput s o disableOutput) 0x0D10 4 10 o 0 0
  else if blockLanes w ≠ 1 ∧ blockLanes w ≠ 2 ∧ blockLanes w ≠ 4 then modOutput s o disableOutput
  else modOutput s o (enableOutput (timeOf s))

/-- A write of `n` bytes of an output's block: a word, or two at once. -/
def writeBlock (s : State) (o offset n v : Nat) : State :=
  let put (w : List (Nat × Nat)) : List (Nat × Nat) :=
    let w1 := setBlockWord (offset / 4) (v % 2 ^ 32) w
    if n = 8 then setBlockWord (offset / 4 + 1) (v / 2 ^ 32 % 2 ^ 32) w1 else w1
  followEnable (modOutput s o (fun x => { x with words := put x.words })) o

/-- `DISPLAY_BLOCK_WRITE`: a whole register of an output's block: a dword at 0x10, 0x18 and 0x20, a word elsewhere.
DEDUCED: notes/assumptions/78.md. -/
def execDisplayBlockWrite (output offset : Nat) (data : DWord) (s : State) : Res :=
  if 4 ≤ output ∨ 64 ≤ offset ∨ offset % 4 ≠ 0 ∨ (0x10 ≤ offset ∧ offset < 0x28 ∧ offset % 8 ≠ 0) then .next s
  else .next (writeBlock s output offset (if 0x10 ≤ offset ∧ offset < 0x28 then 8 else 4) data.toNat)

/-! ## `frel` (R373, R446) -/

/-- The outputs a control word names. -/
def namedOutputs (mask : Nat) : List Nat := (List.range 4).filter (fun o => bitOf mask o)

/-- A binding can be scanned by an output. -/
def scannable (b : Binding) (w : List (Nat × Nat)) : Bool :=
  b.width != 0 && (b.format == 1 || b.format == 2) && decide (blockWidth w ≤ b.width) && decide (blockHeight w ≤ b.height)

/-- `frel` gives an error: sd := 1 to 3, with its record. -/
def frelError (t : State) (d code : Nat) (addr : Option Nat) : Res :=
  .next (advance (logGroup (modMe t (setSreg d (BitVec.ofNat 32 code))) t.cur (0x0D00 + code) 1 0 addr) t.cur)

/-- The location of a retire word, if one is named: it is checked and translated at issue. -/
def retireWord (t : State) (c : Nat) : State × Except AccErr (Option (Nat × Bool)) :=
  let i := gridOf t t.cur
  if c = 0 then (t, .ok none)
  else if c % 8 ≠ 0 then (t, .error .form)
  else match locating t { ctx := i.ctx, privileged := i.privileged, team := (me t).team, sel4 := false, sel5 := false } c 8
      { read := true, write := true, atom := true } with
    | (t1, .error e) => (t1, .error e)
    | (t1, .ok p) => (t1, .ok (some p))

/-- A named output has no room in its pending list. -/
def pendingFull (s : State) (named : List Nat) : Bool := named.any (fun o => decide (4 ≤ (outputAt s o).pending.length))
/-- Append an entry to the pending list of each named output, now. -/
def appendRelease (s : State) (named : List Nat) (e : Release) : State :=
  named.foldl (fun s o => modOutput s o (fun y => { y with pending := y.pending ++ [{ e with appended := timeOf s }] })) s
/-- Group `g` waits for room with its entry. -/
def waitFrel (s : State) (g : Nat) (e : Release) : State := modBar s (fun b => { b with frels := b.frels ++ [(g, e)] })
/-- It waits no longer. -/
def dropFrel (s : State) (g : Nat) : State := modBar s (fun b => { b with frels := b.frels.filter (fun p => p.1 != g) })

/-- The effect of `frel`. What it tests of a block is what is in effect since the last frame start (R372). -/
def frelBody (f : FmtE) (t : State) : Res :=
  let g := t.cur
  let x := me t
  let w := (sreg x f.a.toNat).toNat
  let time := (spair x f.b.toNat).toNat
  let c := (spair x f.c.toNat).toNat
  let ctx := (gridOf t g).ctx
  let named := namedOutputs (bitField w 0 4)
  let b := scanBinding t (bitField w 4 6)
  if 2 ^ 10 ≤ w ∨ named.isEmpty ∨ named.any (fun o => !(outputAt t o).enabled || blockOwner (outputAt t o).live != ctx) then
    frelError t f.d.toNat 1 none
  else if named.any (fun o => !scannable b (outputAt t o).live) then frelError t f.d.toNat 2 none
  else match retireWord t c with
    | (t1, .error _) => frelError t1 f.d.toNat 3 (some c)
    | (t1, .ok retire) =>
      let e : Release := { binding := bitField w 4 6, time, retire, named := c, ctx,
                           acq := (acqOf f).map (fun sc => (g, sc, t.ops.length)) }
      .next (if pendingFull t1 named then block (waitFrel t1 g e) g 14 (bitField w 0 4) 0
        else advance (modGrp (appendRelease t1 named e) g (setSreg f.d.toNat 0)) g)

/-- `frel`: schedules a frame buffer for release.
DEDUCED: notes/assumptions/81.md. -/
def execFrel (f : FmtE) (s : State) : Res := issueOn none false (sigFrelOf f) (frelBody f) s

/-- `DISPLAY_PENDING_ROOM`: a `frel` that waits appends its entry when every named output has room. -/
def execDisplayPendingRoom (g : Nat) (s : State) : Res :=
  let w := (grp s g).wait
  if w.code ≠ 14 ∨ !onCore s g ∨ pendingFull s (namedOutputs w.obj) then .next s
  else match s.bar.frels.find? (fun p => p.1 == g), instrAt s g with
    | some (_, e), some (.frel f) =>
      .next (advance (modGrp (appendRelease (dropFrel (unblock s g) g) (namedOutputs w.obj) e) g (setSreg f.d.toNat 0)) g)
    | _, _ => .next (unblock (dropFrel s g) g)

/-! ## Frames (R372, R374, R490, R491) -/

/-- 50 µs. -/
def frameLead : Nat := 50000

/-- An entry is due at frame start `now`. -/
def dueAt (now : Nat) (r : Release) : Bool := decide (r.time + frameLead ≤ now) && decide (r.appended + frameLead ≤ now)
/-- An entry that its late append alone keeps from being due. -/
def lateEntry (now : Nat) (r : Release) : Bool := decide (r.time + frameLead ≤ now) && decide (now < r.appended + frameLead)

/-- Of the due entries, the one with the largest T; among equal T, the last issued. -/
def latestDue (rs : List Release) : Option Release :=
  rs.foldl (fun best r => match best with
    | none => some r
    | some b => if b.time ≤ r.time then some r else best) none

/-- The instant, in units of 2^-16 ns, is within `tol` nanoseconds of a point of an output's epoch grid, n not negative. -/
def onGrid (w : List (Nat × Nat)) (now tol : Nat) : Bool :=
  let p := blockPeriod w
  let e := blockEpoch w * 2 ^ 16
  let a := now * 2 ^ 16
  let d := a - e
  p != 0 && ((decide (e ≤ a) && (decide (d % p ≤ tol * 2 ^ 16) || decide (p ≤ d % p + tol * 2 ^ 16))) ||
    (decide (a < e) && decide (e ≤ a + tol * 2 ^ 16)))

/-- The first point of an output's epoch grid after it was enabled, in units of 2^-16 ns. -/
def firstPoint (x : Output) : Nat :=
  let e := blockEpoch x.live * 2 ^ 16
  let p := blockPeriod x.live
  let a := x.enabledAt * 2 ^ 16
  if a < e then e else e + ((a - e) / p + 1) * p

/-- A frame of an output may start now (R372). With genlock it starts within 20 ns of a point of the epoch grid, once for each point.
Without, the first starts at the first point after the enable, to 1 ns, and each later one follows after a period of the reference
oscillator, which is off by at most 50 ppm.
DEDUCED: notes/assumptions/82.md. -/
def startsNow (x : Output) (now : Nat) : Bool :=
  let w := x.live
  match x.lastStart with
  | none =>
    if blockGenlock w then decide (x.enabledAt ≤ now) && onGrid w now 20
    else blockPeriod w != 0 && decide (now * 2 ^ 16 ≤ firstPoint x + 2 ^ 16) && decide (firstPoint x ≤ now * 2 ^ 16 + 2 ^ 16)
  | some last =>
    if blockGenlock w then onGrid w now 20 && decide (blockPeriod w < 2 * ((now - last) * 2 ^ 16))
    else
      let d := (now - last) * 2 ^ 16
      let slack := blockPeriod w / 20000 + 2 ^ 16
      decide (last < now) && decide (d ≤ blockPeriod w + slack) && decide (blockPeriod w ≤ d + slack)

/-- The rows of a surface that a scan-out reads, as pieces. -/
def scanPieces (b : Binding) (w h : Nat) : List Piece :=
  (List.range h).flatMap (fun y => physPieces (b.base + y * b.pitch) (w * (if b.format = 2 then 8 else 4)))

/-- A scan-out reads its buffer: a unit that cannot be read sends zero bytes and is logged (R491).
DESIGN CHOICE: notes/assumptions/84.md. -/
def scanOut (s : State) (o : Nat) (b : Binding) (w h : Nat) : State :=
  (scanPieces b w h).foldl (fun s p => match storeCheck s p.loc p.len false p.pound with
    | (s1, none) => s1
    | (s1, some _) => logRecord s1
      { seq := 0, time := 0, addr := badAddr (unitOf p.loc), code := 0x0F03, cls := 3, flags := 3, unitKind := 10, unit := o, detail := o }) s

/-- The earlier accesses that a `frel`'s acquire places before the scan-out have been performed (R129, R373). -/
def releaseAcquired (s : State) (r : Release) : Bool := match r.acq with
  | none => true
  | some (g, scope, n) => earlierDone s g n scope true true

/-- Choose the buffer that is scanned from this frame start on; the number of the repeat, when a late entry caused one. -/
def chooseBuffer (now : Nat) (x : Output) : Output × Option Nat :=
  match latestDue (x.pending.filter (dueAt now)) with
  | none =>
    if x.pending.any (lateEntry now) then ({ x with repeats := x.repeats + 1 }, some (x.repeats + 1)) else ({ x with repeats := 0 }, none)
  | some r =>
    ({ x with scanned := some r, pending := x.pending.filter (fun y => !dueAt now y), repeats := 0,
              retiring := x.retiring ++ x.scanned.toList ++ (x.pending.filter (dueAt now)).erase r }, none)

/-- `FRAME_START`: an output starts a frame: its block takes effect, the due entry with the largest T becomes the scanned buffer, and
the buffer is read.
DEDUCED: notes/assumptions/83.md. -/
def execFrameStart (o : Nat) (s : State) : Res :=
  let now := timeOf s
  let x := outputAt s o
  if !x.enabled || !startsNow x now || !(latestDue (x.pending.filter (dueAt now))).all (releaseAcquired s) then .next s
  else
    let (y, late) := chooseBuffer now x
    let s1 := modOutput s o (fun _ => { y with live := x.words, frames := x.frames + 1, lastStart := some now })
    let s2 := match late with
      | some n => logModule s1 0x0F02 4 10 o n 0
      | none => s1
    let b := scanBinding s ((y.scanned.map (·.binding)).getD (blockInitial x.words))
    .next (if b.width = 0 then s2 else scanOut s2 o b (min b.width (blockWidth x.words)) (min b.height (blockHeight x.words)))

/-- Add 1 to a retire word.
DEDUCED: notes/assumptions/85.md. -/
def retireAdd (s : State) (a : Nat × Bool) : State :=
  writeLoc (storeCheck s a.1 8 true a.2).1 a.1 8 ((rd s a.1 8 + 1) % 2 ^ 64) none

/-- `FRAME_BUFFER_RETIRE`: the frame before the last start has been read, and the entries it frees add 1 to their retire words. -/
def execFrameBufferRetire (o : Nat) (s : State) : Res :=
  let x := outputAt s o
  if !(x.retiring.filterMap (·.retire)).all (fun a => unlocked s noOp a.1 8) then .next s
  else .next ((x.retiring.filterMap (·.retire)).foldl retireAdd (modOutput s o (fun x => { x with retiring := [] })))

end Sys2Proof.Machine
end

