-- ==== Sys2Proof/Machine/Filters.lean ====
section
/-!
DEFINITION. `qfilt` and `qhash`, and the records they land (spec/15_rays_and_quay.md, R298, R299, R313 to R316; R443).
-/
namespace Sys2Proof.Machine

/-! ## Issue -/

/-- Largest record of a `qhash` with register c: 32 bytes for each level, rounded up to 16 (R443). -/
def hashArea (c : Nat) : Nat := roundUp (32 * (bitField c 4 4 + 1)) 16

/-- The effect of `qfilt` and `qhash`: a request with the values of its active lanes. -/
def filterBody (hash : Bool) (f : FmtE) (t : State) : Res :=
  let g := t.cur
  let x := me t
  let off := (sreg x f.d.toNat).toNat
  let sel := if hash then (sreg x f.c.toNat).toNat else 0
  if areaBad t off 16 (if hash then hashArea sel else 16) then areaTrap t off
  else
    let q : Filter :=
      { op := t.ops.length, hash, desc := (spair x f.b.toNat).toNat, sel, area := landingLoc t g off, ctx := (gridOf t g).ctx,
        stack := stackOverCore (coreOf t g), acq := acqOf f,
        lanes := (activeLanes t g).map (fun l => (l, (List.range 3).map (fun i => (vlane x (f.a.toNat + i) l).toNat))) }
    let s1 := addRequest t
    .next (advance { s1 with quay := { s1.quay with filters := s1.quay.filters ++ [q] } } g)

/-- `qfilt`: filtered texels for each active lane. -/
def execQfilt (f : FmtE) (s : State) : Res := issueOn (some 3) false (sigQfiltOf f) (filterBody false f) s
/-- `qhash`: interpolated hash-grid features for each active lane. -/
def execQhash (f : FmtE) (s : State) : Res := issueOn (some 3) false (sigQhashOf f) (filterBody true f) s

/-! ## Reading (R443, R466) -/

/-- How a record comes to be all NaN. -/
inductive FilterErr where
  /-- the descriptor is rejected -/
  | rejected
  /-- an address outside every arena -/
  | outside (a : Nat)
  /-- uncorrectable data -/
  | unread (a : Nat)
  /-- a word is held by an `mcas`: the read waits (R134) -/
  | held
deriving DecidableEq, Repr

/-- Reads of a filter unit. -/
abbrev Fetching (α : Type) := ExceptT FilterErr (StateM State) α

/-- Read `n` bytes as the quay die of stack `k`, for a request of core `c`. -/
def quayRead (c k ctx a n : Nat) : Fetching (List Byte) := do
  let s ← get
  if !arenaOk s k ctx a n true false || !physOk s.poundSize a n then throw (.outside a)
  else if !unlocked s noOp a n then throw .held
  else match storeCheck s a n false true with
    | (s1, some e) => do
      set s1
      throw (.unread (e.addr % 2 ^ 52))
    | (s1, none) => do
      set (touchHome s1 c a n false)
      return readBytes s1.mem a n
/-- A read for a request. -/
def filterRead (q : Filter) (k a n : Nat) : Fetching (List Byte) := do
  let s ← get
  quayRead (coreOf s (op s q.op).g) k q.ctx a n

/-- Read a 64-byte descriptor where it lies; one outside stack DRAM is read by the stack under the issuing core. -/
def readRequest (q : Filter) : Fetching (List Byte) := do
  let s ← get
  let k := (stackOf s q.desc).getD q.stack
  if q.desc % 64 ≠ 0 ∨ !arenaOk s k q.ctx q.desc 64 true false ∨ !physOk s.poundSize q.desc 64 then throw .rejected
  else filterRead q k q.desc 64

/-! ## `qfilt` (R313, R314) -/

/-- A texture descriptor (Table 15-8). -/
structure Texture where
  base : Nat
  width : Nat
  height : Nat
  format : Nat
  mips : Nat
  wrapU : Nat
  wrapV : Nat
  filter : Nat
deriving Repr

/-- A texture descriptor's fields, when none is outside its range. -/
def textureOf (b : List Byte) : Option Texture :=
  let w := recField b 0x12 1
  let t : Texture :=
    { base := recField b 0 8, width := recField b 8 4, height := recField b 0xC 4, format := recField b 0x10 1, mips := recField b 0x11 1,
      wrapU := bitField w 0 2, wrapV := bitField w 2 2, filter := recField b 0x13 1 }
  let size (n : Nat) : Bool := decide (1 ≤ n) && decide (n ≤ 16384)
  if t.base % 128 = 0 ∧ size t.width ∧ size t.height ∧ t.format ≤ 3 ∧ 1 ≤ t.mips ∧ t.mips ≤ 15 ∧ t.wrapU ≤ 2 ∧ t.wrapV ≤ 2 ∧
      w < 16 ∧ t.filter ≤ 2 ∧ recField b 0x14 44 = 0 then some t else none

/-- Width, or height, of a level. -/
def levelSize (n i : Nat) : Nat := max 1 (n / 2 ^ i)
/-- Bytes of a texel. -/
def texelBytes (t : Texture) : Nat := if t.format = 0 then 16 else if t.format = 3 then 4 else 8
/-- Bytes of a row of level `i`. -/
def texRow (t : Texture) (i : Nat) : Nat := roundUp (levelSize t.width i * texelBytes t) 128
/-- Address of level `i`. -/
def texLevel (t : Texture) : Nat → Nat
  | 0 => t.base
  | i + 1 => texLevel t i + texRow t i * levelSize t.height i

/-- A texel index under a wrap mode of a level of `n` texels. -/
def wrapIndex (mode : Nat) (n : Nat) (i : Int) : Nat :=
  match mode with
  | 0 => (i % n).toNat
  | 1 => (min (max i 0) (n - 1 : Nat)).toNat
  | _ => let j := (i % (2 * n : Nat)).toNat
         if j < n then j else 2 * n - 1 - j

/-- Read a texel: four channels; a channel of four n8 is its byte, to be divided by 255. -/
def texel (k : Nat) (q : Filter) (t : Texture) (i : Nat) (x y : Int) : Fetching (List FVal) := do
  let cx := wrapIndex t.wrapU (levelSize t.width i) x
  let cy := wrapIndex t.wrapV (levelSize t.height i) y
  let b ← filterRead q k (texLevel t i + cy * texRow t i + cx * texelBytes t) (texelBytes t)
  return (List.range 4).map (fun c => match t.format with
    | 0 => fdecode f32 (recField b (4 * c) 4)
    | 1 => fdecode f16 (recField b (2 * c) 2)
    | 2 => fdecode bf16 (recField b (2 * c) 2)
    | _ => fofInt (recField b c 1 : Nat))

/-- An exact fixed-point coordinate has 150 fraction bits. -/
def fixBits : Nat := 150
/-- A finite f32 value in that form. -/
def fixOf (v : FVal) : Int := (unitsOf v).getD 0 * 2
/-- Whole part and fraction, the fraction rounded to a multiple of 2^-8: a fraction of 1 moves to the next (R314). -/
def splitFix (x : Int) : Int × Nat :=
  let whole := x / (2 ^ fixBits : Nat)
  let frac := roundShift .rne false (x % (2 ^ fixBits : Nat)).toNat (fixBits - 8)
  if frac = 256 then (whole + 1, 0) else (whole, frac)

/-- A value times a weight of w / 2^e, exactly. -/
def weigh (w : Nat) (e : Nat) (v : FVal) : FVal := (fmul v (.fin false w (-(e : Int)))).1
/-- The exact sum of channels. -/
def addChannels (a b : List FVal) : List FVal := (a.zip b).map (fun p => (fadd .rne p.1 p.2).1)
/-- Four channels weighed. -/
def weighAll (w e : Nat) (c : List FVal) : List FVal := c.map (weigh w e)

/-- The filtered value of one level, by `nearest` or by the weights of its four texels. -/
def levelValue (k : Nat) (q : Filter) (t : Texture) (i : Nat) (u v : FVal) : Fetching (List FVal) := do
  let wu := fixOf u * levelSize t.width i
  let hv := fixOf v * levelSize t.height i
  if t.filter = 0 then texel k q t i (wu / (2 ^ fixBits : Nat)) (hv / (2 ^ fixBits : Nat))
  else
    let half : Int := (2 ^ (fixBits - 1) : Nat)
    let (x0, fx) := splitFix (wu - half)
    let (y0, fy) := splitFix (hv - half)
    let a ← texel k q t i x0 y0
    let b ← texel k q t i (x0 + 1) y0
    let c ← texel k q t i x0 (y0 + 1)
    let d ← texel k q t i (x0 + 1) (y0 + 1)
    return addChannels (addChannels (weighAll ((256 - fx) * (256 - fy)) 16 a) (weighAll (fx * (256 - fy)) 16 b))
      (addChannels (weighAll ((256 - fx) * fy) 16 c) (weighAll (fx * fy) 16 d))

/-- The blend of the two levels about λ. -/
def blendLevels (k : Nat) (q : Filter) (t : Texture) (lam : Int) (u v : FVal) : Fetching (List FVal) := do
  let (whole, frac) := splitFix lam
  let lo := min whole.toNat (t.mips - 1)
  let a ← levelValue k q t lo u v
  let b ← levelValue k q t (min (lo + 1) (t.mips - 1)) u v
  return addChannels (weighAll (256 - frac) 8 a) (weighAll frac 8 b)

/-- The canonical NaN of f32 in four channels. -/
def nanRecord : List Byte := (List.range 4).flatMap (fun _ => toBytesLE 4 0x7FC00000)

/-- The record of one lane of a `qfilt`. -/
def texRecord (q : Filter) (vals : List Nat) : Fetching (List Byte) := do
  let b ← readRequest q
  match textureOf b with
  | none => throw .rejected
  | some t =>
    let u := fdecode f32 (vals.getD 0 0)
    let v := fdecode f32 (vals.getD 1 0)
    let lod := fdecode f32 (vals.getD 2 0)
    if (unitsOf u).isNone ∨ (unitsOf v).isNone ∨ (unitsOf lod).isNone then return nanRecord
    else
      let s ← get
      let k := (stackOf s t.base).getD q.stack
      let top : Int := ((t.mips - 1) * 2 ^ fixBits : Nat)
      let lam := min (max (fixOf lod) 0) top
      let chans ← if t.filter = 2 then blendLevels k q t lam u v
        else levelValue k q t (roundShift .rne false lam.toNat fixBits) u v
      return chans.flatMap (fun c =>
        toBytesLE 4 (fdeliver f32 .rne false (if t.format = 3 then (fdiv c (fofInt 255)).1 else c)).1)

/-! ## `qhash` (R315, R316) -/

/-- A grid descriptor (Table 15-9). -/
structure HashGrid where
  tb : Nat
  levels : Nat
  n : Nat
  feats : Nat
  bf : Bool
  res : List Nat
deriving Repr

/-- A grid descriptor's fields, when none is outside its range. -/
def gridDescOf (b : List Byte) : Option HashGrid :=
  let h : HashGrid :=
    { tb := recField b 0 8, levels := recField b 8 1, n := recField b 9 1, feats := recField b 0xA 1, bf := recField b 0xB 1 == 1,
      res := (List.range 16).map (fun i => recField b (0x10 + 2 * i) 2) }
  if h.tb % 128 = 0 ∧ 1 ≤ h.levels ∧ h.levels ≤ 16 ∧ 10 ≤ h.n ∧ h.n ≤ 24 ∧ (h.feats = 2 ∨ h.feats = 4 ∨ h.feats = 8) ∧
      recField b 0xB 1 ≤ 1 ∧ recField b 0xC 4 = 0 ∧ recField b 0x30 16 = 0 ∧
      (List.range 16).all (fun i => (h.res.getD i 0 != 0) == decide (i < h.levels)) then some h else none

/-- Bytes of one feature in a record. -/
def featBytes (h : HashGrid) : Nat := if h.bf then 2 else 4
/-- Output format. -/
def hashFmt (h : HashGrid) : FloatFmt := if h.bf then bf16 else f32
/-- First level and number of levels that register c names. -/
def hashFirst (sel : Nat) : Nat := bitField sel 0 4
def hashLevels (sel : Nat) : Nat := bitField sel 4 4 + 1
/-- Size of a record (R316). -/
def hashSize (h : HashGrid) (sel : Nat) : Nat := roundUp (hashLevels sel * h.feats * featBytes h) 16

/-- A record of NaN features, padded with zeros to its size. -/
def hashNan (h : HashGrid) (sel : Nat) : List Byte :=
  let body := (List.range (hashLevels sel * h.feats)).flatMap (fun _ => toBytesLE (featBytes h) (fmtNan (hashFmt h)))
  body ++ List.replicate (hashSize h sel - body.length) 0

/-- The entry index of a corner (R316). -/
def cornerIndex (h : HashGrid) (res x y z : Nat) : Nat :=
  if (res + 1) ^ 3 ≤ 2 ^ h.n then x + (res + 1) * y + (res + 1) ^ 2 * z
  else ((x ^^^ (y * 0x8DA6B343 % 2 ^ 32)) ^^^ (z * 0xD8163841 % 2 ^ 32)) % 2 ^ h.n

/-- Cell and exact fraction of a position clamped to [0, 1], on an axis of resolution `res`. -/
def cellOf (res : Nat) (p : FVal) : Nat × Nat :=
  let one : Int := (2 ^ fixBits : Nat)
  let clamped : Int := match p with
    | .inf neg => if neg then 0 else one
    | v => min (max (fixOf v) 0) one
  let x := clamped.toNat * res
  let q := min (x / 2 ^ fixBits) (res - 1)
  (q, x - q * 2 ^ fixBits)

/-- Weight of a corner on one axis, in units of 2^-150. -/
def axisWeight (f d : Nat) : Nat := if d = 1 then f else 2 ^ fixBits - f

/-- The features of the corners of a list, weighed and summed exactly. -/
def sumCorners (k : Nat) (q : Filter) (h : HashGrid) (table res : Nat) (cx cy cz : Nat × Nat) : List Nat → Fetching (List FVal)
  | [] => return []
  | c :: rest => do
    let dx := c % 2
    let dy := c / 2 % 2
    let dz := c / 4
    let b ← filterRead q k (table + cornerIndex h res (cx.1 + dx) (cy.1 + dy) (cz.1 + dz) * h.feats * 2) (h.feats * 2)
    let w := axisWeight cx.2 dx * axisWeight cy.2 dy * axisWeight cz.2 dz
    let mine := (List.range h.feats).map (fun j => weigh w (3 * fixBits) (fdecode bf16 (recField b (2 * j) 2)))
    let others ← sumCorners k q h table res cx cy cz rest
    return (if rest.isEmpty then mine else addChannels mine others)

/-- The features of the levels of a list. -/
def hashLevelsOf (k : Nat) (q : Filter) (h : HashGrid) (p : List FVal) : List Nat → Fetching (List Byte)
  | [] => return []
  | i :: rest => do
    let res := h.res.getD i 1
    let at_ (a : Nat) : Nat × Nat := cellOf res (p.getD a .nan)
    let sums ← sumCorners k q h (h.tb + i * 2 ^ h.n * h.feats * 2) res (at_ 0) (at_ 1) (at_ 2) (List.range 8)
    let more ← hashLevelsOf k q h p rest
    return sums.flatMap (fun v => toBytesLE (featBytes h) (fdeliver (hashFmt h) .rne false v).1) ++ more

/-- How large the records of a request are, and the record of all NaN: when the descriptor is rejected, the largest (R443). -/
def hashShape (q : Filter) : Option HashGrid → Nat × List Byte
  | some h => (hashSize h q.sel, hashNan h q.sel)
  | none => (hashArea q.sel, (List.range (hashArea q.sel / 4)).flatMap (fun _ => toBytesLE 4 0x7FC00000))

/-- The record of one lane of a `qhash`. -/
def hashRecord (q : Filter) (h : HashGrid) (vals : List Nat) : Fetching (List Byte) := do
  let p := vals.map (fdecode f32)
  if p.any isNan then return hashNan h q.sel
  else
    let s ← get
    let k := (stackOf s h.tb).getD q.stack
    let b ← hashLevelsOf k q h p ((List.range (hashLevels q.sel)).map (· + hashFirst q.sel))
    return b ++ List.replicate (hashSize h q.sel - b.length) 0

/-! ## Records (R299, R443) -/

/-- Filter request of an operation. -/
def filterOf (s : State) (o : Nat) : Option Nat :=
  (List.range s.quay.filters.length).find? (fun i => ((s.quay.filters[i]?).map (·.op)) == some o)
/-- Change a filter request. -/
def modFilter (s : State) (i : Nat) (f : Filter → Filter) : State :=
  { s with quay := { s.quay with filters := s.quay.filters.modify i f } }

/-- Log a read that met uncorrectable data at physical address `a` (Table 26-3): the record names the unit that detected it. -/
def logUnread (s : State) (g a : Nat) : State :=
  let (_, code, kind, unit, detail) := badCodes a
  logAccErr s (some g) 0 (.data { code, kind, unit, detail, addr := badAddr a })

/-- A record lands and is counted; after the last one, each cause of failure that the request met has its log record. -/
def landFilter (s : State) (i : Nat) (q : Filter) (lane rs : Nat) (bytes : List Byte) (e : Option FilterErr) : State :=
  let loc := q.area + rs * lane
  let s0 := touchHome (writeLocBytes (checkWrite s loc rs).1 loc bytes (some true)) (coreOf s (op s q.op).g) loc rs true
  let s1 := modFilter s0 i (fun q =>
    let q1 : Filter := { q with lanes := q.lanes.filter (fun p => p.1 != lane) }
    match e with
    | none => q1
    | some .held => q1
    | some .rejected => { q1 with rejected := true }
    | some (.outside a) => { q1 with outside := some (q1.outside.getD a) }
    | some (.unread a) => { q1 with unread := some (q1.unread.getD a) })
  countRecord s1 q.op (fun s =>
    let g := (op s q.op).g
    let x := s.quay.filters.getD i q
    let s2 := if x.rejected then logGroup s g 0x0C10 1 0 none else s
    let s3 := match x.outside with
      | some a => logGroup s2 g 0x0914 1 0 (some (2 ^ 63 + a % 2 ^ 60))
      | none => s2
    let s4 := match x.unread with
      | some a => logUnread s3 g a
      | none => s3
    completeOp s4 q.op)

/-- A request can be served: its acquire is met, the lane's record is still to land, and its bytes are not locked. -/
def filterReady (s : State) (q : Filter) (lane rs : Nat) : Bool :=
  acquired s (op s q.op).g q.op q.acq && q.lanes.any (fun p => p.1 == lane) && unlocked s noOp (q.area + rs * lane) rs

/-- The values of a lane. -/
def laneVals (q : Filter) (lane : Nat) : List Nat := ((q.lanes.find? (fun p => p.1 == lane)).map (·.2)).getD []

/-- `QFILT_RECORD`: the filter unit computes a lane's record, and it lands. -/
def execQfiltRecord (o lane : Nat) (s : State) : Res :=
  match filterOf s o with
  | none => .next s
  | some i =>
    let q := s.quay.filters.getD i { op := 0, hash := false, desc := 0, area := 0, ctx := 0, stack := 0, lanes := [] }
    if q.hash ∨ !filterReady s q lane 16 then .next s
    else match ((texRecord q (laneVals q lane)).run).run s with
      | (.ok b, s1) => .next (landFilter s1 i q lane 16 b none)
      | (.error .held, _) => .next s
      | (.error e, s1) => .next (landFilter s1 i q lane 16 nanRecord (some e))

/-- The descriptor of a `qhash`, and whether the request itself is rejected with it. -/
def hashSetup (q : Filter) : Fetching (Option HashGrid × Bool) := do
  let h := gridDescOf (← readRequest q)
  return (h, match h with
    | none => true
    | some h => decide (2 ^ 8 ≤ q.sel) || decide (h.levels < hashFirst q.sel + hashLevels q.sel))

/-- `QHASH_RECORD`: the unit interpolates a lane's features, and its record lands. -/
def execQhashRecord (o lane : Nat) (s : State) : Res :=
  match filterOf s o with
  | none => .next s
  | some i =>
    let q := s.quay.filters.getD i { op := 0, hash := false, desc := 0, area := 0, ctx := 0, stack := 0, lanes := [] }
    let land (t : State) (h : Option HashGrid) (b : List Byte) (e : Option FilterErr) : State :=
      if e ≠ some .held ∧ filterReady s q lane (hashShape q h).1 then landFilter t i q lane (hashShape q h).1 b e else s
    if !q.hash then .next s
    else match ((hashSetup q).run).run s with
      | (.error e, s1) => .next (land s1 none (hashShape q none).2 (some e))
      | (.ok (h, true), s1) => .next (land s1 h (hashShape q h).2 (some .rejected))
      | (.ok (none, false), s1) => .next (land s1 none (hashShape q none).2 (some .rejected))
      | (.ok (some h, false), s1) => match ((hashRecord q h (laneVals q lane)).run).run s1 with
        | (.ok b, s2) => .next (land s2 (some h) b none)
        | (.error e, s2) => .next (land s2 (some h) (hashNan h q.sel) (some e))

end Sys2Proof.Machine
end

