-- ==== Sys2Proof/Machine/Lanes.lean ====
section
/-!
DEFINITION. Cross-lane instructions (spec/11_isa_lanes_conversion.md, R226 to R232).
-/
namespace Sys2Proof.Machine

/-! ## `vperm` and `vshfl` (R226 to R228) -/

/-- Source lane of `vperm` in lane l: index within its sub-group. -/
def permLane (sub idx l : Nat) : Nat := l - l % sub + idx % sub
/-- Source lane of `vshfl` by mode: 0 `.xor`, 1 `.up`, 2 `.down`, 3 `.bcast` (R227). -/
def shflLane (mode sub n l : Nat) : Nat :=
  let base := l - l % sub
  match mode with
  | 0 => base + (l ^^^ n) % sub
  | 1 => base + (((l : Int) - n) % sub).toNat
  | 2 => base + (l + n) % sub
  | _ => base + n % sub

/-- Issue a crossbar exchange: the values are read now, from every live lane, and wait for the crossbar; the destination and the mask
pair are interlocked, and `ts` rises (R227, R228). `src` is the source lane. -/
def crossbarBody (f : FmtT) (src : Group → Nat → Nat) (t : State) : Res :=
  let x := me t
  let cnt := if f.op.getLsbD 3 then 2 else 1
  let ls := activeLanes t t.cur
  let got := ls.map (fun l =>
    let j := src x l
    (l, if laneIn x.live j then srcBits x cnt 0 f.a j else 0))
  let dead := maskOf (ls.filter (fun l => !laneIn x.live (src x l)))
  let mk := f.op.getLsbD 2
  let o : Op :=
    { g := t.cur, kind := .perm dead (if mk then some f.c.toNat else none), issuedAt := t.clock, path := some 0, counted := true,
      size := 4 * cnt, got := got, dv := (List.range cnt).map (f.d.toNat + ·),
      du := if mk then [f.c.toNat, f.c.toNat + 1] else [], handler := handlerOf x }
  .next (advance (addOp t o) t.cur)

def execVperm (f : FmtT) (s : State) : Res :=
  issueOn (some 0) true (sigVpermOf (widthOf s s.cur) f) (fun t =>
    crossbarBody f (fun x l => permLane (subWidth f.op) (srcWord x f.kb f.b l).toNat l) t) s
def execVshfl (f : FmtT) (s : State) : Res :=
  issueOn (some 0) true (sigVshflOf (widthOf s s.cur) f) (fun t =>
    crossbarBody f (fun x l =>
      shflLane (f.op.toNat / 16 % 8) (subWidth f.op) (srcWord x f.kb f.b l).toNat l) t) s

/-! ## `vrdl` and `vwrl` (R229) -/

/-- A source of kind 2 whose value differs from lane to lane: `%laneid`. -/
def laneSource (k : BitVec 2) (n : Byte) : Bool := k == 2 && n == 0
/-- Whether b is `%laneid`, which has no one value in an instruction that reads it once: the next open value stands for it.
DESIGN CHOICE: notes/assumptions/131.md. -/
def passLane (t : State) (k : BitVec 2) (n : Byte) : State := passFree t (laneSource k n).toNat

/-- The lane they act on: b mod W, whatever exec holds.
DESIGN CHOICE: notes/assumptions/131.md. -/
def oneLane (t : State) (f : FmtT) : Nat :=
  (if laneSource f.kb f.b then freeNat t else (uniWord (me t) f.kb f.b).toNat) % widthOf t t.cur

/-- `vrdl`: a live lane's value into sd or its pair, 0 from a lane that is not live. -/
def execVrdl (f : FmtT) (s : State) : Res :=
  issue (sigVrdlOf f) (fun t =>
    let x := me t
    let j := oneLane t f
    let v := if laneIn x.live j then srcBits x (if f.op = 8 then 2 else 1) 0 f.a j else 0
    let u := passLane t f.kb f.b
    if f.op = 8 then finishU2 u f.d (BitVec.ofNat 64 v) else finishU u f.d (BitVec.ofNat 32 v)) s

/-- `vwrl`: a uniform or special value into one live lane. It needs a physical register when that lane is live, whatever exec holds. -/
def execVwrl (f : FmtT) (s : State) : Res :=
  issueWith none true (if laneIn (me s).live (oneLane s f) then newDests s s.cur (sigVwrlOf f) else 0) (sigVwrlOf f) (fun t =>
    let x := me t
    let j := oneLane t f
    let cnt := if f.op = 8 then 2 else 1
    let u := passLane t f.kb f.b
    .next (advance (if laneIn x.live j then modMe u (setVlanes f.d.toNat cnt j (srcBits x cnt f.ka f.a j)) else u) t.cur)) s

/-! ## `vred` and `vscan` (R230 to R232) -/

/-- The operator of oper and type (Table 11-5) on the bits of two elements, with the flags it meets. -/
def lanesOp (fpctl : Word) (mode : RMode) (oper ty x y : Nat) : Nat × Nat :=
  if ty < 4 then
    (match oper with
      | 0 => (x + y) % 2 ^ typeBits ty
      | 1 => vminOf ty x y
      | 2 => vmaxOf ty x y
      | 3 => x &&& y
      | 4 => x ||| y
      | _ => x ^^^ y, 0)
  else
    let fm := if ty = 4 then f32 else f64
    let ftz := if ty = 4 then ftz32 fpctl else ftz64 fpctl
    let a := fread fm ftz x
    let b := fread fm ftz y
    match oper with
    | 0 => fresOf fm mode ftz (fadd mode a b)
    | 1 => (fencode fm (fmin a b), 0)
    | _ => (fencode fm (fmax a b), 0)

/-- One level of the tree of R231: adjacent results combine; one present operand passes unchanged. -/
def treeLevel (op : Nat → Nat → Nat × Nat) : List (Option Nat) → List (Option Nat) × Nat
  | a :: b :: t =>
    let (r, fl) := treeLevel op t
    match a, b with
    | some x, some y => (some (op x y).1 :: r, fl ||| (op x y).2)
    | some x, none => (some x :: r, fl)
    | none, y => (y :: r, fl)
  | l => (l, 0)

/-- The tree over a sub-group: `n` levels. -/
def treeReduce (op : Nat → Nat → Nat × Nat) : Nat → List (Option Nat) → Option Nat × Nat
  | 0, l => (l.headD none, 0)
  | n + 1, l =>
    let (l1, f1) := treeLevel op l
    let (v, f2) := treeReduce op n l1
    (v, f1 ||| f2)

/-- The inclusive prefix over the lanes of a sub-group from a seed (R232): (lane, value) pairs and flags. -/
def scanFrom (op : Nat → Nat → Nat × Nat) (a : Nat → Nat) : List Nat → Nat → List (Nat × Nat) × Nat
  | [], _ => ([], 0)
  | l :: t, acc =>
    let (v, f1) := op acc (a l)
    let (r, f2) := scanFrom op a t v
    ((l, v) :: r, f1 ||| f2)

/-- Registers of one element of a `vred` type. -/
def redRegs (ty : Nat) : Nat := if ty = 2 ∨ ty = 3 ∨ ty = 5 then 2 else 1

/-- The source of `vred` and `vscan` in lane l, after the modifiers of a float type. -/
def redSrc (x : Group) (f : FmtT) (ty l : Nat) : Nat :=
  signMods (32 * redRegs ty) f.na f.aa (srcBits x (redRegs ty) f.ka f.a l)

/-- Write pairs of lane and value and finish with the flags met. -/
def finishPairs (t : State) (d : Byte) (cnt : Nat) (r : List (Nat × Nat)) (met : Nat) : Res :=
  .next (finishFlags (modMe t (fun x => r.foldl (fun y p => setVlanes d.toNat cnt p.1 p.2 y) x)) t.cur met)

/-- The operator of an instruction of the group. -/
def redOp (x : Group) (f : FmtT) : Nat → Nat → Nat × Nat :=
  lanesOp x.fpctl (modeFor x.fpctl f.rnd false) (f.op.toNat / 32) (f.op.toNat / 4 % 8)

/-- `vred`: each sub-group reduced over its active lanes in a fixed tree. -/
def execVred (f : FmtT) (s : State) : Res :=
  issueOn none (f.op.toNat / 4 % 8 != 5) (sigVredOf (widthOf s s.cur) f) (fun t =>
    let x := me t
    let ty := f.op.toNat / 4 % 8
    let sub := subWidth f.op
    let act := activeMask t t.cur
    let parts := (List.range (widthOf t t.cur / sub)).map (fun k =>
      let ls := (List.range sub).map (k * sub + ·)
      let (v, fl) := treeReduce (redOp x f) (Nat.log2 sub)
        (ls.map (fun l => if laneIn act l then some (redSrc x f ty l) else none))
      ((ls.filter (laneIn act)).map (fun l => (l, v.getD 0)), fl))
    finishPairs t f.d (redRegs ty) (parts.flatMap (·.1)) (parts.foldl (fun m p => m ||| p.2) 0)) s

/-- The seed of `vscan`; of `%laneid` the next open value stands for it.
DESIGN CHOICE: notes/assumptions/131.md. -/
def scanSeed (t : State) (f : FmtT) (cnt : Nat) : Nat :=
  if laneSource f.kb f.b then freeNat t % 2 ^ (32 * cnt) else srcBits (me t) cnt f.kb f.b 0

/-- `vscan`: an inclusive prefix in each sub-group, from a uniform or special seed. -/
def execVscan (f : FmtT) (s : State) : Res :=
  issueOn none (f.op.toNat / 4 % 8 != 5) (sigVscanOf (widthOf s s.cur) f) (fun t =>
    let x := me t
    let ty := f.op.toNat / 4 % 8
    let sub := subWidth f.op
    let act := activeMask t t.cur
    let seed := scanSeed t f (redRegs ty)
    let parts := (List.range (widthOf t t.cur / sub)).map (fun k =>
      scanFrom (redOp x f) (redSrc x f ty) (((List.range sub).map (k * sub + ·)).filter (laneIn act)) seed)
    finishPairs (passLane t f.kb f.b) f.d (redRegs ty) (parts.flatMap (·.1)) (parts.foldl (fun m p => m ||| p.2) 0)) s

end Sys2Proof.Machine
end

