-- ==== Sys2Proof/Machine/QuayCores.lean ====
section
/-!
DEFINITION. Quay cores: any-hit groups, `pqlaunch`, and the return trap (spec/15_rays_and_quay.md, R310, R317 to R320; R447, R479, R480).

A `pqlaunch` forms a grid; its record is read, and its groups are placed, at that grid's `TEAM_PLACEMENT`.
-/
namespace Sys2Proof.Machine

/-! ## Room and start (R317) -/

/-- Groups that stand on a core and have not ended. -/
def liveGroupsOn (s : State) (core : Nat) : Nat :=
  ((teamsOn s core).flatMap (groupsOf s)).countP (fun g => !(grp s g).ended)

/-- A quay core of stack `k` with fewer than four groups and a free range of `n` bytes, and the range's base. -/
def quayRoom (s : State) (k n : Nat) : Option (Nat × Nat) :=
  (List.range 8).findSome? (fun i =>
    let core := numCores + 8 * k + i
    if 4 ≤ liveGroupsOn s core then none else (findRange s core n).map (fun a => (core, a)))

/-- Bytes of the backing region of a group that quay cores started, and of its place in the spill area: the region, its scratchpad
allocation and the allocation's full/empty bits (R318). -/
def quayBacking : Nat := 16384
def quayPlaceSize : Nat := 2 ^ 18
/-- Places of a stack's spill area for groups. -/
def quayPlaces : Nat := 4096
/-- Address of place `i` of stack `k`'s spill area: the backing region of a group, at a physical address (R318). -/
def quaySpill (s : State) (k i : Nat) : Nat := 2 ^ 63 + reservedBase s 2 k + quayPlaceSize * i
/-- The lowest place of stack `k`'s spill area that no group holds. -/
def quayPlace (s : State) (k : Nat) : Option Nat :=
  (List.range quayPlaces).find? (fun i => s.groups.all (fun x => x.ended || x.backing != quaySpill s k i))

/-- Start one group on a quay core, as a team of one group, with these lanes. -/
def startQuay (s : State) (grid : Nat) (core base place teamid ngroups lanes origin : Nat) (args : List Word) : State :=
  let h := (Sys2Proof.Machine.grid s grid).hdr
  let gr := Sys2Proof.Machine.grid s grid
  let x : Team := { grid, teamid, core, ngroups, entry := gr.entry, hdr := h, allocBase := base, allocSize := allocOf h, placedAt := timeOf s }
  let g := s.groups.length
  let budget := (h.roles.headD { lanes := 8, budget := 1 }).budget
  let y := startGroup s s.teams.length x gr 0 0 lanes budget (quaySpill s (quayStackOf core) place) args
  let s1 := clearScratch s (locTeam core base) x.allocSize
  clearImage { s1 with teams := s1.teams ++ [x],
                       groups := s1.groups ++ [{ y with origin, backSize := quayBacking, active := true, entryStamp := s.clock }] } g

/-- Read and check the kernel header of a program of quay cores: physical, in an arena; it must admit width 8 and fit (R319). -/
def quayHeader (s : State) (core k ctx entry : Nat) : State × Except FilterErr Header :=
  if entry < headerSize ∨ entry % 64 ≠ 0 then (s, .error .rejected)
  else match ((quayRead core k ctx (entry - headerSize) headerSize).run).run s with
    | (.error e, s1) => (s1, .error e)
    | (.ok b, s1) => match parseHeader b with
      | .error _ => (s1, .error .rejected)
      | .ok h => (s1, if admits h 8 ∧ allocOf h ≤ 131072 then .ok h else .error .rejected)

/-! ## Any-hit groups (R310, R319, R479) -/

/-- A ray ends with an any-hit failure. -/
def anyHitFails (s : State) (b : Nat) : State :=
  modBarge s b (fun x => { x with place := .ended, unit := none, work := [], cand := none, status := 6, failed := x.ahk })

/-- Put a candidate into lane `l` of a group (R310). -/
def loadCandidate (b : Barge) (l : Nat) (x : Group) : Group :=
  let h := b.cand.getD { t := 0, uv := 0, prim := 0, inst := 0 }
  let vals := [h.t, h.uv, h.prim, h.inst] ++ b.ray.take 6
  ((List.range vals.length).zip vals).foldl (fun x p => setVlane p.1 l (BitVec.ofNat 32 p.2) x) x

/-- Start a group over candidates of one directory on a quay core. -/
def startAnyHit (s : State) (bs : List Nat) (h : Header) (core base place : Nat) : State :=
  let b0 := bargeAt s (bs.headD 0)
  let tr := traceAt s b0.trace
  let g0 := (op s tr.op).g
  let i := gridOf s g0
  let gr : Grid :=
    { ctx := tr.ctx, queue := i.queue, command := i.command, privileged := i.privileged, entry := b0.ahk, code := s.codes.length, hdr := h,
      width := 8, fpctl := i.fpctl, placed := 1, phase := .running, parent := some (grp s g0 |> fun x => (team s x.team).grid) }
  let s1 : State := { s with grids := s.grids ++ [gr], codes := s.codes ++ [{ ctx := tr.ctx, text := (0, 2 ^ 52), flat := true }] }
  let s2 := startQuay s1 s.grids.length core base place 0 1 bs.length (coreOf s g0)
    [BitVec.ofNat 32 b0.ahd, BitVec.ofNat 32 (b0.ahd / 2 ^ 32)]
  let g := s.groups.length
  let s3 := modGrp s2 g (fun x =>
    ((List.range bs.length).zip bs).foldl (fun x p => loadCandidate (bargeAt s p.2) p.1 x) { x with anyHit := true })
  ((List.range bs.length).zip bs).foldl (fun s p => modBarge s p.2 (fun b => { b with place := .testing g p.1 })) s3

/-- `ANY_HIT_GROUP_START`: a quay core of a stack gathers up to eight candidates of one directory into a group. A program that cannot be
started fails their rays. -/
def execAnyHitGroupStart (stack : Nat) (s : State) : Res :=
  match bargesWith s (fun b => b.place == .candidate && b.stack == stack) with
  | [] => .next s
  | b :: rest =>
    let x := bargeAt s b
    let tr := traceAt s x.trace
    let bs := (b :: rest.filter (fun c =>
      (traceAt s (bargeAt s c).trace).dir == tr.dir && (traceAt s (bargeAt s c).trace).ctx == tr.ctx)).take 8
    match quayHeader s (bargeCore s x) stack tr.ctx x.ahk with
    | (_, .error .held) => .next s
    | (s1, .error _) => .next (bs.foldl anyHitFails s1)
    | (s1, .ok h) =>
      if (h.roles.headD { lanes := 0, budget := 0 }).budget < 10 then .next (bs.foldl anyHitFails s1)
      else match quayRoom s1 stack (allocOf h), quayPlace s1 stack with
        | some (core, base), some place => .next (startAnyHit s1 bs h core base place)
        | _, _ => .next s

/-- The value that v0 of lane `l` held when the lane exited. -/
def exitValue (x : Group) (l : Nat) : Nat := ((x.exitV0.find? (fun p => p.1 == l)).map (fun p => p.2.toNat)).getD 0

/-- A decision reaches its barge, which goes on; none: a word it reads is held by an `mcas`. -/
def decide1 (g : Nat) (s : State) (b : Nat) : Option State :=
  match (bargeAt s b).place with
  | .testing h l =>
    let x := grp s g
    let v := exitValue x l
    let accept (s : State) : State := modBarge s b (fun y => match y.cand with
      | some c => acceptHit c y
      | none => y)
    let first := bitOf (traceAt s (bargeAt s b).trace).flags 1
    if h ≠ g then some s
    else if x.stranded ∨ !laneIn x.exited l ∨ 2 < v then some (anyHitFails s b)
    else if v = 0 then goOn (modBarge s b (fun y => { y with cand := none })) b false
    else if v = 2 ∨ first then some (modBarge (accept s) b rayEnds)
    else goOn (accept s) b false
  | _ => some s

/-- `ANY_HIT_DECISION`: an any-hit group has ended; each lane's decision is its v0 at its `exit`. -/
def execAnyHitDecision (g : Nat) (s : State) : Res :=
  .next (if (grp s g).anyHit ∧ (grp s g).ended then ((List.range s.quay.barges.length).foldlM (decide1 g) s).getD s else s)

/-- `ANY_HIT_BUDGET_EXCEEDED`: an any-hit group that has issued 2^24 instructions is ended before the next one. -/
def execAnyHitBudgetExceeded (g : Nat) (s : State) : Res :=
  let x := grp s g
  .next (if spent x && x.live != 0 && !x.ending && onCore s g then
    endGroup (logGroup s g 0x0C20 1 ((teamOf s g).idCore.getD (coreOf s g)) none) g else s)

/-! ## `pqlaunch` (R320, R447) -/

/-- The effect of `pqlaunch`. -/
def pqlaunchBody (f : FmtE) (t : State) : Res :=
  let g := t.cur
  let rec_ := (spair (me t) f.a.toNat).toNat
  let land := (sreg (me t) f.b.toNat).toNat
  let i := gridOf t g
  let k := stackOverCore (coreOf t g)
  let refuse (d : Nat) : Res :=
    .next (raiseDeferred (advance t g) g (handlerOf (me t)) { cause := 0x0A, detail := d, addr := some rec_ })
  if landingBad t g land then .next (takeTrap t g 8 0 (some (5 * 2 ^ 60 + land)))
  else if !i.privileged then refuse 3
  else if rec_ % 64 ≠ 0 ∨ !arenaOk t k i.ctx rec_ 64 true true ∨ !physOk t.poundSize rec_ 64 then refuse 2
  else
    let n := t.tows.length
    let c : Tow := { oper := 0xFE, g, desc := rec_, named := rec_, landing := landingLoc t g land, acq := acqOf f, rel := relOf f,
                     before := t.ops.length }
    let gr : Grid := { ctx := i.ctx, queue := i.queue, command := i.command, privileged := true, width := 8, fpctl := i.fpctl,
                       parent := some (teamOf t g).grid, pq := some n }
    let s1 : State := { t with tows := t.tows ++ [c], grids := t.grids ++ [gr] }
    .next (advance (addOp s1
      { g := g, kind := .descriptor n, issuedAt := t.clock, size := 64, handler := handlerOf (me t),
        lanes := [{ lane := 0, addr := rec_, named := rec_, data := 0, cmp := 0, pound := true }] }) g)

/-- `pqlaunch`: launches groups on quay cores. -/
def execPqlaunch (f : FmtE) (s : State) : Res := issueOn none false (sigPqlaunchOf f) (pqlaunchBody f) s

/-- The core that issued a command. -/
def launchCore (s : State) (c : Tow) : Nat := coreOf s c.g

/-- A command ends without launching anything, with a status. -/
def pqReject (s : State) (n status : Nat) : State :=
  let c := towOf s n
  let s1 := if status = 1 then logGroup s c.g 0x0918 1 0 (some c.named) else s
  modTow s1 n (fun c => { c with phase := .finishing, status })

/-- Stacks of a mask, in ascending order. -/
def maskStacks (m : Nat) : List Nat := (List.range 24).filter (bitOf m)

/-- A launch record's own checks (Table 15-10, R447). -/
def pqRecordOk (s : State) (c : Tow) : Bool :=
  let f (off n : Nat) : Nat := recField c.bytes off n
  f 8 4 != 0 && decide (f 8 4 < 2 ^ 24) && f 0xC 2 != 0 && decide (f 0xC 2 ≤ 32) && f 0xE 2 == (gridOf s c.g).ctx &&
    decide (f 0x18 4 ≤ 4096) && f 0x20 32 == 0

/-- Status of a failed read of a quay program (Table 26-1). -/
def quayStatus : FilterErr → Nat
  | .rejected => 1
  | .outside _ => 2
  | .unread _ => 4
  | .held => 0

/-- Log a failed read of a quay program. -/
def logQuayRead (s : State) (g : Nat) : FilterErr → State
  | .rejected => s
  | .held => s
  | .outside a => logGroup s g 0x0914 1 0 (some (2 ^ 63 + a % 2 ^ 60))
  | .unread a => logUnread s g a

/-- Form the grid of a `pqlaunch` whose record has been read: its header and its argument block are read by the first stack, once no word
of them is held by an `mcas`. -/
def formQuayGrid (s : State) (i n : Nat) : State :=
  let c := towOf s n
  let f (off len : Nat) : Nat := recField c.bytes off len
  let k := (maskStacks (f 8 4)).headD 0
  let ctx := (grid s i).ctx
  let core := launchCore s c
  let fails (t : State) (e : FilterErr) : State := if e = .held then s else pqReject (logQuayRead t c.g e) n (quayStatus e)
  if !pqRecordOk s c then pqReject s n 1
  else match quayHeader s core k ctx (f 0 8) with
    | (s1, .error e) => fails s1 e
    | (s1, .ok h) =>
      if f 0x18 4 < 4 * h.argwords then pqReject s1 n 1
      else match if f 0x18 4 = 0 then (.ok [], s1) else ((quayRead core k ctx (f 0x10 8) (f 0x18 4)).run).run s1 with
        | (.error e, s2) => fails s2 e
        | (.ok args, s2) =>
          let s3 : State := { s2 with codes := s2.codes ++ [{ ctx, text := (0, 2 ^ 52), flat := true }] }
          modTow (modGrid s3 i (fun x =>
            { x with entry := f 0 8, hdr := h, code := s2.codes.length, args, onStacks := f 8 4, perStack := f 0xC 2, phase := .running })) n
            (fun c => { c with phase := .running })

/-- Groups a `pqlaunch` grid places in all. -/
def quayTotal (x : Grid) : Nat := (maskStacks x.onStacks).length * x.perStack

/-- Place the next group of a `pqlaunch` grid, on the lowest quay core of its stack that has room. -/
def placeQuayNext (s : State) (i : Nat) : State :=
  let x := grid s i
  if x.perStack = 0 ∨ quayTotal x ≤ x.placed then s
  else
    let k := (maskStacks x.onStacks).getD (x.placed / x.perStack) 0
    match quayRoom s k (allocOf x.hdr), quayPlace s k with
    | some (core, base), some place =>
      let lanes := min 8 (x.hdr.roles.headD { lanes := 8, budget := 1 }).lanes
      modGrid (startQuay s i core base place (x.placed % x.perStack) x.perStack lanes (launchCore s (towOf s (x.pq.getD 0))) (argWords x.hdr x.args))
        i (fun x => { x with placed := x.placed + 1 })
    | _, _ => s

/-- What `TEAM_PLACEMENT` does for the grid of a `pqlaunch`. -/
def placeQuayGrid (s : State) (i n : Nat) : State :=
  match (towOf s n).phase with
  | .reading => readDescriptor s n
  | .queued => if acquired s (towOf s n).g (towOf s n).before (towOf s n).acq then formQuayGrid s i n else s
  | .running => placeQuayNext s i
  | _ => s

/-- Groups of a grid, by their teams. -/
def gridGroups (s : State) (i : Nat) : List Nat := (List.range s.groups.length).filter (fun g => (teamOf s g).grid == i)

/-- The release of a `pqlaunch`: every write of its groups in the reach of its scope has been performed (R129, R320). -/
def groupsReleased (s : State) (c : Tow) (gs : List Nat) : Bool := match c.rel with
  | none => true
  | some sc => s.ops.all (fun x =>
      !gs.contains x.g || x.finished || !isWriting x || (waitingLanes x).all (fun r => !inReach s c.g sc r.addr))

/-- `PQLAUNCH_COMPLETE`: when every group has ended the status word is written and 64 is added to the landing; a rejected record is
completed so at once. -/
def execPqlaunchComplete (n : Nat) (s : State) : Res :=
  let c := towOf s n
  match (List.range s.grids.length).find? (fun i => (grid s i).pq == some n) with
  | none => .next s
  | some i =>
    let gs := gridGroups s i
    let ready : Bool := match c.phase with
      | .finishing => true
      | .running => (grid s i).placed == quayTotal (grid s i) && gs.all (fun g => (grp s g).ended) && groupsReleased s c gs
      | _ => false
    if !ready ∨ !unlocked s noOp c.desc 64 then .next s
    else
      let status := if gs.any (fun g => (grp s g).stranded) then 4 else c.status
      let s1 := writeStatus (modTow s n (fun c => { c with status })) n
      .next (modGrid (modTow (landingCount s1 (launchCore s c) c.landing 64) n (fun c => { c with phase := .done })) i
        (fun x => { x with phase := .complete }))

/-! ## The return trap (R318, R319, R480) -/

/-- Nothing the group has issued is still under way. -/
def quiet (s : State) (g : Nat) : Bool := countersZero (grp s g).counters && s.ops.all (fun x => x.g != g || x.finished)

/-- Write the bytes of a moving group's scratchpad allocation, and their full/empty bits, to its place in the spill area. -/
def saveScratch (s : State) (g : Nat) : State × Bool :=
  let t := teamOf s g
  let loc := locTeam t.core t.allocBase
  match checkRead s loc t.allocSize with
  | (s1, some b) => (logAccErr s1 (some g) 0 (.data b), false)
  | (s1, none) =>
    writeSpan s1 (backSpace s1 g) ((grp s1 g).backing + quayBacking) (readBytes s1.mem loc t.allocSize ++ fullBytes s1 loc t.allocSize)

/-- Write a group's state to the spill area: its written registers, its context image and its scratchpad allocation (R318). -/
def saveMoving (s : State) (g : Nat) : State × Bool :=
  match saveRegs g (List.range 256) s with
  | (s1, some _) => (s1, false)
  | (s1, none) => match writeSpan s1 (backSpace s1 g) (grp s1 g).backing (imageBytes s1 g) with
    | (s2, false) => (s2, false)
    | (s2, true) => saveScratch s2 g

/-- End a group whose return trap cannot be completed (R480). -/
def strandGroup (s : State) (g detail : Nat) : State :=
  let s1 := logGroup s g 0x0C21 1 detail (some (grp s g).backing)
  endGroup (modGrp s1 g (fun x => { x with stranded := true })) g

/-- `RETURN_TRAP`: a group that met an instruction its quay core does not execute is written to the spill area and moves to its origin
core. -/
def execReturnTrap (g : Nat) (s : State) : Res :=
  let x := grp s g
  if x.returning ≠ 1 ∨ x.live = 0 ∨ !quiet s g then .next s
  else match saveMoving s g with
    | (s1, false) => .next (strandGroup s1 g 0)
    | (s1, true) => .next (modTeam (modGrp s1 g (fun x => { leaveActive x with returning := 2, returnAt := timeOf s, mapped := 0 })) x.team
      (fun t => { t with core := x.origin, idCore := some t.core, allocBase := 0, allocSize := 0 }))

/-- Return slots of a core that are taken: one for each partition (R318). -/
def slotTaken (s : State) (core part : Nat) : Bool :=
  (List.range s.groups.length).any (fun g => (grp s g).returnSlot == some part && !(grp s g).ended && coreOf s g == core)

/-- Copy a moved group's scratchpad allocation of `n` bytes from the spill area to its temporary one. A group whose bytes cannot be read
ends as one whose save area cannot be (R418).
DEDUCED: notes/assumptions/133.md. -/
def restoreScratch (s : State) (g n : Nat) : State :=
  let a := (grp s g).backing + quayBacking
  let loc := locTeam (coreOf s g) (teamOf s g).allocBase
  match readSpan s (backSpace s g) a (n + n / 32) with
  | (s1, .error _) => endGroup (logGroup s1 g 0x01F3 2 0 (some a)) g
  | (s1, .ok b) => setFullBytes (wrBytes (clearScratch s1 loc n) loc (b.take n)) loc n (b.drop n)

/-- `RETURN_SLOT_RESUME`: the moved group obtains a return slot and a temporary allocation together, and resumes. -/
def execReturnSlotResume (g : Nat) (s : State) : Res :=
  let x := grp s g
  let core := coreOf s g
  let n := allocOf (teamOf s g).hdr
  if x.returning ≠ 2 then .next s
  else match (List.range 4).find? (fun p => !slotTaken s core p), findRange s core n with
    | some p, some base =>
      let s1 := modTeam (modGrp s g (fun x => { x with returning := 0, returnSlot := some p, readyStamp := some s.clock })) x.team
        (fun t => { t with allocBase := base, allocSize := n })
      .next (restoreScratch s1 g n)
    | _, _ => .next s

/-- `RETURN_TRAP_TIMEOUT`: 1 ms without a return slot and an allocation. -/
def execReturnTrapTimeout (g : Nat) (s : State) : Res :=
  let x := grp s g
  .next (if x.returning = 2 ∧ x.returnAt + 1000000 ≤ timeOf s then strandGroup s g 1 else s)

end Sys2Proof.Machine
end

