-- ==== Sys2Proof/Machine/Placement.lean ====
section
/-!
DEFINITION. Placing and retiring teams, deadlines and reaches (spec/17_scheduler.md, R343 to R346, R350 to R353; spec/02_execution_model.md,
R35, R38, R39, R43, R44, R46; R421, R489).
-/
namespace Sys2Proof.Machine

/-! ## Deadlines and rungs (R352, R353, R489) -/

/-- T(q): the mean of the last 64 durations at a rung, when there are at least 8; otherwise the record's estimate.
DEDUCED: notes/assumptions/56.md. -/
def teamTime (x : Grid) (q : Nat) : Nat :=
  let ds := ((x.durations.filter (fun d => d.1 == q)).take 64).map (·.2)
  if 8 ≤ ds.length then ds.foldl (· + ·) 0 / ds.length else x.cost.getD q 0

/-- Teams of a grid that stand on their cores. -/
def residentTeams (s : State) (i : Nat) : List Nat :=
  (List.range s.teams.length).filter (fun t => (team s t).grid == i && holdsCore (team s t))

/-- F(q): the projected finish at a rung. -/
def finishAt (s : State) (i q : Nat) : Nat :=
  let x := grid s i
  let rs := residentTeams s i
  let left := rs.foldl (fun n t => max n (teamTime x (team s t).rung - (timeOf s - (team s t).placedAt))) 0
  let u := x.nteams - x.placed
  let p := max 1 rs.length
  timeOf s + left + (u + p - 1) / p * teamTime x q

/-- The projection passes deadline − guard at a rung. -/
def lateAt (s : State) (i q : Nat) : Bool := decide ((grid s i).deadline.toNat < finishAt s i q + (grid s i).guard)

/-- Raise the rung while the projection is late (R353). -/
def raiseRung (i : Nat) : Nat → State → State
  | 0, s => s
  | n + 1, s =>
    if (grid s i).rung < (grid s i).rungmax ∧ lateAt s i (grid s i).rung then
      raiseRung i n (modGrid s i (fun x => { x with rung := x.rung + 1 }))
    else s

/-- Whether the launcher evaluates a grid's projection: it has been launched, and a team of it is still to be placed. -/
def projected (s : State) (i : Nat) : Bool :=
  let x := grid s i
  x.deadline != 0 && !s.duty.getLsbD 4 && x.phase != .complete && decide (x.placed < x.nteams)

/-- A record of the launcher that names a grid. -/
def gridSource (x : Grid) : LaunchSource := { ctx := x.ctx, queue := x.queue, command := x.command }

/-- Evaluate the projection; a grid that is late at rungmax is logged once (R489). -/
def project (s : State) (i : Nat) : State :=
  if !projected s i then s
  else
    let s1 := raiseRung i 3 s
    let x := grid s1 i
    if x.rung = x.rungmax ∧ lateAt s1 i x.rung ∧ !x.late then
      let s2 := logRecord s1 { seq := 0, time := 0, code := 0x0F01, cls := 4, context := x.ctx, queue := x.queue.getD 0xFFFF,
                               command := x.command.getD 0xFFFFFFFF, detail := x.rung }
      modGrid s2 i (fun x => { x with late := true })
    else s1

/-- `DEADLINE_PROJECTION`: the launcher projects a grid's finish. -/
def execDeadlineProjection (i : Nat) (s : State) : Res := .next (project s i)

/-! ## The choice of a core (R345) -/

/-- The cores adjacent to a place, and its die (R17). -/
def coresNear (s : State) (p : Nat) : Option (List Nat × Nat) :=
  match regionOf s.poundSize p with
  | .stack k => some ((List.range 48).map (fun i => 288 * (k / 6) + 48 * (k % 6) + i), k / 6)
  | .lpddr c => some ((List.range 288).map (288 * (c / 16) + ·), c / 16)
  | _ => none

/-- Where a placement address lies: the cores adjacent to it, and its die. -/
def preference (s : State) (x : Grid) (teamid : Nat) : State × Option (List Nat × Nat) :=
  if x.place = 0 then (s, none)
  else match readSpan s (launcherSpace x.ctx x.privileged) (x.place + 8 * teamid) 8 with
    | (s1, .error _) => (s1, none)
    | (s1, .ok b) =>
      let a := recField b 0 8
      let d := bitField a 27 2
      if bitField a 60 4 = 4 ∧ bitField a 29 31 = 0 then (s1, some ((List.range 288).map (288 * d + ·), d))
      else match locating s1 (launcherSpace x.ctx x.privileged) a 1 {} with
        | (s2, .error _) => (s2, none)
        | (s2, .ok (p, _)) => (s2, coresNear s2 p)

/-- A core takes new teams of a reach: it lies in the reach, is not marked to leave it (R46, R350), and hosts no resumed team of the other
reach (R47). -/
def coreOpen (s : State) (gfx : Bool) (core : Nat) : Bool :=
  inReachOf s gfx core && ((dieReach s (core / 288)).mark.map (·.1)) != some (core % 288) &&
    (teamsOn s core).all (fun t => fromQuay s t || (grid s (team s t).grid).gfx == gfx)

/-- Of a list of cores, the one with the most free group slots on which a team fits; ties go to the lower number. -/
def bestCore (s : State) (gfx : Bool) (h : Header) (n : Nat) (cores : List Nat) : Option Nat :=
  leastBy (fun c => (128 - freeSlots s c) * 2048 + c) (cores.filter (fun c => coreOpen s gfx c && fitsCore s c h n))

/-- The core a team is placed on, with a preference or without one. -/
def chooseCore (s : State) (x : Grid) (near : Option (List Nat × Nat)) (h : Header) (n : Nat) : Option Nat :=
  let all := List.range numCores
  match near with
  | none => bestCore s x.gfx h n all
  | some (near, die) => (bestCore s x.gfx h n near).orElse (fun _ =>
      (bestCore s x.gfx h n (all.filter (fun c => c / 288 == die))).orElse (fun _ => bestCore s x.gfx h n all))

/-! ## Placing a team (R39, R340, R343, R344) -/

/-- Stride of a grid's team slots for a header.
DEDUCED: notes/assumptions/55.md. -/
def slotStride (x : Grid) (h : Header) : Nat := saveSize h + groupCount h x.width * x.backing
/-- The lowest team slot of a grid's pool that no team of it holds. -/
def freeSlot (s : State) (i : Nat) : Option Nat :=
  let held := (s.teams.filter (fun t => t.grid == i && t.phase != .retired)).map (·.slot)
  (List.range (grid s i).slots).find? (fun k => !held.contains k)

/-- Segments in use on a die: base and size.
DESIGN CHOICE: notes/assumptions/54.md. -/
def dieSegs (s : State) (d : Nat) : List (Nat × Nat) :=
  (s.launch.kept.map (fun k => (k.bases.getD d 0, k.size))) ++
    ((s.grids.filter (fun x => x.phase == .running && x.segSize != 0)).map (fun x => (x.segs.getD d 0, x.segSize)))
/-- The lowest base at which a segment finds room on a die (R102). -/
def findSeg (s : State) (d n : Nat) : Option Nat :=
  ((List.range (dieBytes / segGranule)).find? (fun k => decide (segGranule * k + n ≤ dieBytes) &&
    (dieSegs s d).all (fun p => decide (segGranule * k + n ≤ p.1) || decide (p.1 + p.2 ≤ segGranule * k)))).map (segGranule * ·)

/-- The segments of a grid at its first placement: those its segid names, or new ones on every die. -/
def takeSegs (s : State) (x : Grid) : Option (List Nat × Nat) :=
  if x.segid ≠ 0 then (keptSeg s x.ctx x.segid).map (fun k => (k.bases, k.size))
  else if x.segSize = 0 then some ([0, 0, 0, 0], 0)
  else ((List.range 4).mapM (fun d => findSeg s d x.segSize)).map (fun l => (l, x.segSize))

/-- A grant takes effect: its die flights are at phase 0 with no members, and the tokens of its domains are 0 (R343). -/
def applyGrant (s : State) (x : Grid) : State :=
  let s1 : State := { s with sync := { s.sync with flights := (List.range 4).foldl (fun m d =>
    mapClear (2 ^ 40 + 4096 * d + x.flightFirst) x.flightCount m) s.sync.flights } }
  ((List.range 64).filter (fun n => x.domains.getLsbD n)).foldl (fun s n =>
    modUnits s (fun u =>
      { u with counts := mapClear (2 ^ 24 * n) (2 ^ 24) u.counts,
               current := mapClear (2 ^ 30 + 2 ^ 24 * n) (2 ^ 24) (mapClear (2 ^ 24 * n) (2 ^ 24) u.current),
               closed := u.closed.filter (fun p => p.1 % 2 ^ 30 / 2 ^ 24 != n) })) s1

/-- The first placement of a grid. -/
def firstPlacement (s : State) (i : Nat) : Option State :=
  if (grid s i).placed ≠ 0 then some s
  else if (grid s i).grantWait ∨ grantBusy s (grid s i) then none
  else (takeSegs s (grid s i)).map (fun p =>
    modGrid (applyGrant s (grid s i)) i (fun x => { x with segs := p.1, segSize := p.2, phase := .running }))

/-- Place a grid's next team, if it fits now. -/
def placeNext (s : State) (i : Nat) : Option State :=
  match firstPlacement s i with
  | none => none
  | some s0 =>
    let (s1, near) := preference s0 (grid s0 i) (grid s0 i).placed
    let x := grid s1 i
    let (entry, h) := variantOf x x.rung
    let n := groupCount h x.width
    if x.nteams ≤ x.placed then none
    else match freeSlot s1 i, chooseCore s1 x near h n with
      | some slot, some core =>
        let t : Team :=
          { grid := i, teamid := x.placed, core, ngroups := n, entry, hdr := h, rung := x.rung,
            allocBase := (findRange s1 core (allocOf h)).getD 0, allocSize := allocOf h, tileMap := (freeTiles s1 core).take h.ztiles,
            slot, placedNo := s1.teams.length, placedAt := timeOf s1 }
        some (modGrid (startTeam s1 t (argWords h x.args) (x.pool + slot * slotStride x h)) i (fun x =>
          { x with placed := x.placed + 1, waitingSince := timeOf s1 }))
      | _, _ => none

/-- Place the `n` teams of a co-resident grid, whole or not at all (R38). -/
def placeWhole (i : Nat) : Nat → State → Option State
  | 0, s => some s
  | n + 1, s => (placeNext s i).bind (placeWhole i n)

/-- What placing a grid's next team, or a co-resident grid, gives; none when it does not fit. -/
def placeGrid (s : State) (i : Nat) : Option State :=
  if s.bar.hot ∨ (grid s i).parent.isSome ∨ (grid s i).phase = .complete then none
  else if (grid s i).cores ∧ (grid s i).placed = 0 then placeWhole i (grid s i).nteams s
  else placeNext s i

/-! ## Whose turn it is (R346) -/

/-- Room for a parked team on its core: a team slot, group slots for the groups that have not ended, scratchpad and tiles (R35, R358). -/
def teamFits (s : State) (t : Nat) : Bool :=
  let x := team s t
  let open_ (p : Nat) : Nat := (groupsOf s t).countP (fun g => !(grp s g).ended && (grp s g).gid % 4 == p)
  x.phase == .parked && decide (((teamsOn s x.core).filter (fun t => !fromQuay s t)).length < 16) &&
    (List.range 4).all (fun p => decide (slotsUsed s x.core p + open_ p ≤ 32)) &&
    (findRange s x.core x.allocSize).isSome && decide (x.tileMap.length ≤ (freeTiles s x.core).length)

/-- A parked team takes its room. -/
def takeRoom (s : State) (t : Nat) : State :=
  modTeam s t (fun y => { y with phase := .resident, allocBase := (findRange s y.core y.allocSize).getD 0,
                                 tileMap := (freeTiles s y.core).take y.tileMap.length })

/-- The teams that resume with a team: of a co-resident grid, every parked one. -/
def resumeSet (s : State) (t : Nat) : List Nat :=
  let j := (team s t).grid
  if (grid s j).cores then (List.range s.teams.length).filter (fun u => (team s u).grid == j && (team s u).phase == .parked) else [t]

/-- Teams find room one after another. -/
def roomFor : List Nat → State → Bool
  | [], _ => true
  | t :: rest, s => teamFits s t && roomFor rest (takeRoom s t)

/-- A parked team can resume now: it fits on its core, and of a co-resident grid every parked team does (R346, R358). -/
def resumeFits (s : State) (t : Nat) : Bool := (team s t).phase == .parked && roomFor (resumeSet s t) s

/-- Grid `j` is served before grid `i`: a higher prio, or the same with a command that started first. -/
def servedBefore (s : State) (j i : Nat) : Bool :=
  decide ((grid s i).prio < (grid s j).prio) || ((grid s j).prio == (grid s i).prio && decide ((grid s j).order < (grid s i).order))

/-- Nothing that is served before grid `i` in its reach fits now. -/
def placeTurn (s : State) (i : Nat) : Bool :=
  (List.range s.grids.length).all (fun j =>
    (grid s j).gfx != (grid s i).gfx || !servedBefore s j i || (placeGrid s j).isNone) &&
  (List.range s.teams.length).all (fun t =>
    let x := grid s (team s t).grid
    x.gfx != (grid s i).gfx || decide (x.prio < (grid s i).prio) || !resumeFits s t)

/-- `TEAM_PLACEMENT`: the launcher places a grid's next team, when it is the grid's turn and the team fits. -/
def execTeamPlacement (i : Nat) (s : State) : Res :=
  match (grid s i).pq with
  | some n => .next (placeQuayGrid s i n)
  | none =>
    if !placeTurn s i ∨ !memoryFree s then .next s
    else match placeGrid s i with
      | none => .next s
      | some s1 => .next (project s1 i)

/-! ## Retirement (R43, R44, R401, R421) -/

/-- The run that a team's sequencer holds. -/
def runOfTeam (s : State) (t : Nat) : Option Nat :=
  (List.range s.runs.length).find? (fun r => (runAt s r).team == t && !(runAt s r).ended)

/-- A run is stopped at a team flight that no group can signal any longer: in `mflwait`, or in `mflsig` on its early bit (R44). -/
def runStuck (s : State) (r : Nat) : Bool :=
  let x := runAt s r
  x.writes.isEmpty && x.reading.isNone && (match (streamFetch s r).2 with
    | .error _ => false
    | .ok w => match streamInstr w with
      | .mflwait f => bitOf x.waits f.a.toNat &&
        !phasePassed (flight s (teamFlight x.team f.a.toNat)).phase (BitVec.ofNat 32 (scalar x f.b.toNat))
      | .mflsig f => bitOf x.signals f.a.toNat && earlySet (flight s (teamFlight x.team f.a.toNat)) (.run r)
      | _ => false)

/-- The completions that a team's retirement, and its save, wait for have come: its engine commands, and every access of its groups. A command
that still waits for a place in its queue has not been issued.
DESIGN CHOICE: notes/assumptions/136.md. -/
def teamQuiet (s : State) (t : Nat) : Bool :=
  s.tows.all (fun c => (grp s c.g).team != t || c.phase == .done || c.phase == .waiting) && s.ops.all (fun x => (grp s x.g).team != t || x.finished)

/-- Drain a retiring team's entries, one after another in one event: each failure has its record (R421).
DESIGN CHOICE: notes/assumptions/139.md. -/
def retireDrain (s : State) (t : Nat) : State :=
  let (s1, fs) := drainTeam s t
  fs.foldl (fun s p => logGroupBy s p.1.g 0x010A 2 (drainError p.1 p.2)) s1

/-- Steps 4 and 5 of R43. -/
def freeTeam (s : State) (t : Nat) : State :=
  modTeam { s with sync := { s.sync with windows := s.sync.windows.filter (fun p => (p.2.map (·.team)) != some t),
                                         flights := mapClear (16 * t) 16 s.sync.flights } } t
    (fun x => { x with phase := .retired, drains := [] })

/-- The lowest segid a context does not hold; none when it holds 255 (R340, R341). -/
def newSegid (s : State) (ctx : Nat) : Option Nat := ((List.range 255).map (· + 1)).find? (fun k => (keptSeg s ctx k).isNone)

/-- The segments that a completing grid keeps, and the segid under which: its own, or a new one. One that finds 255 segids held keeps none.
DESIGN CHOICE: notes/assumptions/134.md. -/
def keptSegid (s : State) (x : Grid) : Option Nat :=
  if !x.keep then none else if x.segid = 0 then newSegid s x.ctx else some x.segid

/-- A grid's last team has retired: it completes, with its done word and its command (R340, R401). -/
def completeGrid (s : State) (i : Nat) : State :=
  let x := grid s i
  let s1 := modGrid s i (fun x => { x with phase := .complete })
  let s2 := match if x.segid = 0 then keptSegid s x else none with
    | some segid => modLaunch s1 (fun l => { l with kept := l.kept ++ [{ ctx := x.ctx, segid, bases := x.segs, size := x.segSize }] })
    | none => s1
  let s3 := signalDone s2 (gridSource x) x.done x.failed (match keptSegid s x with
    | some segid => segid * 2 ^ 32
    | none => 1)
  modLaunch s3 (fun l => { l with commands := l.commands.map (fun c => if c.grid = some i then { c with done := true } else c) })

/-- A team retires, and its grid counts it. -/
def retireTeam (s : State) (t : Nat) : State :=
  let x := team s t
  let s1 := modGrid (freeTeam (retireDrain s t) t) x.grid (fun y =>
    { y with retired := y.retired + 1, durations := (x.rung, timeOf s - x.placedAt) :: y.durations })
  let y := grid s1 x.grid
  if y.parent.isSome then s1
  else if y.retired = y.nteams then completeGrid s1 x.grid else project s1 x.grid

/-- `TEAM_RETIREMENT`: after a team's last group has ended, its stream and its copies end, its entries are drained, its windows close and
its place is free. A stream that waits for a flight no group can signal is halted first. -/
def execTeamRetirement (t : Nat) (s : State) : Res :=
  let gs := groupsOf s t
  if (team s t).phase ≠ .resident ∨ gs = [] ∨ !gs.all (fun g => (grp s g).ended) then .next s
  else match runOfTeam s t with
    | some r => .next (if runStuck s r then
        endRun (logTeam s t 0x0808 2 0 none) r 8 (((runAt s r).pc - (runAt s r).first) / 8) else s)
    | none =>
      if !teamQuiet s t ∨ !(drainOrder s t).all (fun e => unlocked s noOp e.addr (typeBits e.ty / 8)) ∨
          (grid s (team s t).grid).done.any (fun a => !unlocked s noOp a 8) then .next s
      else .next (retireTeam s t)

/-! ## Reaches (R46, R350, R351) -/

/-- Deadline-bound graphics grids with a team on a die. -/
def deadlineGrids (s : State) (d : Nat) : List Nat :=
  (List.range s.grids.length).filter (fun i =>
    (grid s i).gfx && (grid s i).deadline != 0 && (grid s i).phase == .running && (residentTeams s i).any (fun t => (team s t).core / 288 == d))

/-- The target of a hardware step (R351).
DEDUCED: notes/assumptions/57.md. -/
def hardwareTarget (s : State) (d : Nat) : Nat :=
  let x := dieReach s d
  let gs := deadlineGrids s d
  if s.duty.getLsbD 5 ∨ gs = [] then x.target
  else if gs.any (fun i => lateAt s i (grid s i).rung) then clampTarget x (x.target + 1)
  else if gs.all (fun i => decide (finishAt s i (grid s i).rung + 2 * (grid s i).guard ≤ (grid s i).deadline.toNat)) then
    clampTarget x (x.target - 1)
  else x.target

/-- `REACH_BALANCER_STEP`: at most once every 20 µs a die's balancer compares G with G* and marks one core. -/
def execReachBalancerStep (d : Nat) (s : State) : Res :=
  let x := dieReach s d
  let due : Bool := match x.stepped with
    | none => true
    | some t => decide (t + 20000 ≤ timeOf s)
  if 4 ≤ d ∨ !due then .next s
  else
    let target := hardwareTarget s d
    let mark := match x.mark with
      | some m => some m
      | none => if target < x.bound then some (x.bound - 1, timeOf s) else if x.bound < target then some (x.bound, timeOf s) else none
    .next (modReach s d (fun x => { x with target, mark, stepped := some (timeOf s) }))

/-- `REACH_CORE_MOVE`: a marked core whose teams have retired or been saved changes reach. -/
def execReachCoreMove (d : Nat) (s : State) : Res :=
  match (dieReach s d).mark with
  | none => .next s
  | some (c, _) =>
    .next (if teamsOn s (288 * d + c) ≠ [] then s
      else modReach s d (fun x => { x with mark := none, bound := if c < x.bound then x.bound - 1 else x.bound + 1 }))

/-- The teams that are pre-empted with a team: of a co-resident grid, every one (R357). -/
def stopSet (s : State) (t : Nat) : List Nat :=
  let j := (team s t).grid
  if (grid s j).cores then (List.range s.teams.length).filter (fun u => (team s u).grid == j) else [t]

/-- Stop a team for pre-emption (R358). -/
def stopTeam (s : State) (t : Nat) : State :=
  if (team s t).phase = .resident then modTeam s t (fun x => { x with phase := .stopping }) else s

/-- `REACH_PREEMPT_TIMEOUT`: 100 µs after a core was marked, under a reach command with its pre-empt bit, the core pre-empts its teams, those of
a co-resident grid with all its teams. -/
def execReachPreemptTimeout (d : Nat) (s : State) : Res :=
  match (dieReach s d).mark with
  | some (c, t) => .next (if (dieReach s d).preempt ∧ t + 100000 ≤ timeOf s then
      (((teamsOn s (288 * d + c)).filter (fun t => !fromQuay s t)).flatMap (stopSet s)).foldl stopTeam s else s)
  | none => .next s

end Sys2Proof.Machine
end

