-- ==== Sys2Proof/Machine/Bar.lean ====
section
/-!
DEFINITION. What the host reads in BAR0: the registers and the Porman mailbox (spec/18_host_links_time.md, R361, R371, R377, Tables 18-2 to
18-6, 18-14 and 18-15; R8, R351, R376, R397, R406, R407, R449, R485, R495).
-/
namespace Sys2Proof.Machine

/-- The 8 bytes at a BAR0 offset, a multiple of 8, are one register, which only a dword accesses whole. -/
def isDwordReg (off : Nat) : Bool :=
  off == 8 || (decide (0x1000 ≤ off) && decide (off < 0x3000) && off % 64 == 0) || (decide (0x4000 ≤ off) && decide (off < 0x4400)) ||
    (decide (0x5000 ≤ off) && decide (off < 0x5040)) || off == 0x6008 ||
    (decide (0x7000 ≤ off) && decide (off < 0x7100) && decide (0x10 ≤ off % 64) && decide (off % 64 ≤ 0x20)) ||
    off == 0x8000 || off == 0x8010 || off == 0xA000 || off == 0xA100 || off == 0x16000

/-- A BAR0 access reaches whole registers, naturally aligned. -/
def barWhole (off size : Nat) : Bool :=
  off % size == 0 && (size == 8 || (size == 4 && !isDwordReg (off / 8 * 8)))

/-- One half of a dword: the low word at an offset that is a multiple of 8, the high word after it. -/
def half (off v : Nat) : Nat := if off % 8 = 0 then v % 2 ^ 32 else v / 2 ^ 32 % 2 ^ 32

/-- The four bytes of a region of bytes from an index. -/
def fourOf (b : Nat → Byte) (i : Nat) : Nat := (b i).toNat + 2 ^ 8 * (b (i + 1)).toNat + 2 ^ 16 * (b (i + 2)).toNat + 2 ^ 24 * (b (i + 3)).toNat

/-- A word of a queue entry (Table 18-3). -/
def queueWord (x : Queue) (o : Nat) : Nat :=
  if o < 8 then half o x.ring.toNat
  else if o = 8 then x.size % 2 ^ 8 + x.prio % 2 ^ 8 * 2 ^ 8 + x.gfx.toNat * 2 ^ 16 + x.privileged.toNat * 2 ^ 17 + x.enabled.toNat * 2 ^ 23
  else if o = 0xC then x.ctx % 2 ^ 16 + x.vector % 2 ^ 16 * 2 ^ 16
  else if o = 0x10 then x.head
  else 0

/-- A word of an output's block (Table 18-6). -/
def outputWord (x : Output) (o : Nat) : Nat := if o = 0x20 ∨ o = 0x24 then half o x.frames else blockWord x.words (o / 4)

/-- A port's status word (Table 27-2). -/
def portWord (x : Port) : Nat := x.state % 4 + x.lanes % 2 ^ 8 * 2 ^ 8 + min x.retrains 0xFFFF * 2 ^ 16

/-- A word of the Porman mailbox, by mailbox offset (Table 18-15). A mailbox that serves only the restore protocol shows nothing else but the
attestation state (R406, R407).
DEDUCED: notes/assumptions/137.md. -/
def mailWord (s : State) (off : Nat) : Nat :=
  let b := s.bar
  if off = 0xA004 then b.roff
  else if off = 0xA008 then b.rlen
  else if off = 0xA00C then b.rstat
  else if off = 0x24 then (if b.damaged then 0x80 else b.attest)
  else if b.damaged then 0
  else if off < 0x20 then fourOf (fun i => b.nonce.getD i 0) off
  else if 0x100 ≤ off ∧ off < 0x1000 then fourOf (fun i => b.report.getD i 0) (off - 0x100)
  else if 0x1000 ≤ off ∧ off < 0x6000 then fourOf Config.certificate (off - 0x1000)
  else if off = 0x6000 ∨ off = 0x6004 then half off (s.dbg.base.getD 0)
  else if off = 0x6008 then s.dbg.hold.toNat
  else if 0x8000 ≤ off ∧ off < 0x8040 then portWord (portAt s ((off - 0x8000) / 4))
  else 0

/-- A word of BAR0 at an offset that is a multiple of 4 (Table 18-2): read-only, read-write and write-1-to-clear fields as they stand;
write-only and reserved ones read zero (R8). -/
def barWord (s : State) (off : Nat) : Nat :=
  if off = 0 then 0x59390001
  else if off = 4 then s.ready.toNat + 2 * s.bar.damaged.toNat
  else if off < 0x10 then half off s.bar.cfgbase
  else if off = 0x10 then s.deviceId
  else if 0x1000 ≤ off ∧ off < 0x3000 then queueWord (queueAt s ((off - 0x1000) / 64)) (off % 64)
  else if 0x5000 ≤ off ∧ off < 0x5040 then half off (mapGet 0 s.bar.apertures ((off - 0x5000) / 8)).toNat
  else if off = 0x6000 then s.fabric.inbound
  else if off = 0x6008 ∨ off = 0x600C then half off s.fabric.sources.toNat
  else if 0x6040 ≤ off ∧ off < 0x6080 then fourOf (fun i => BitVec.ofNat 8 (routeOf s i)) (off - 0x6040)
  else if 0x7000 ≤ off ∧ off < 0x7100 then outputWord (outputAt s ((off - 0x7000) / 64)) (off % 64)
  else if off = 0x8000 ∨ off = 0x8004 then half off (timeOf s)
  else if off = 0x8008 then (s.bar.freq % 2 ^ 32).toNat
  else if off = 0x8018 then s.bar.locked.toNat
  else if off = 0x9000 then s.duty.toNat
  else if 0x9010 ≤ off ∧ off < 0x9020 then
    let x := dieReach s ((off - 0x9010) / 4)
    x.gmin + x.gmax * 2 ^ 16
  else if off = 0xA000 ∨ off = 0xA004 then half off s.log.base.toNat
  else if off = 0xA008 then s.log.en.toNat + s.log.size * 2 ^ 4 + s.log.ovf.toNat * 2 ^ 8
  else if off = 0xA00C then s.log.head
  else if off = 0xA010 then s.log.tail
  else if off = 0xA014 then lostWord s
  else if 0x10000 ≤ off ∧ off < 0x20000 then mailWord s (off - 0x10000)
  else 0

/-- The host reads `size` bytes of BAR0: whole registers, or a completer abort (R449). A read of loglost clears it. -/
def barRead (s : State) (off size : Nat) : State :=
  if 2 ^ 20 ≤ off then s
  else if !barWhole off size then hostAbort s 0x0920 off
  else
    let v := barWord s off + (if size = 8 then barWord s (off + 4) * 2 ^ 32 else 0)
    hostReply (if off ≤ 0xA014 ∧ 0xA014 < off + size then clearLost s else s) (.data v)

end Sys2Proof.Machine
end

