-- ==== Sys2Proof/Machine/Background.lean ====
section
/-!
DEFINITION. Porman: bring-up, the arithmetic clock, background work, module reset, code objects, attestation and firmware restore
(spec/18_host_links_time.md, R375, R376, R378, R379; spec/23_faults_reporting.md, R405 to R407; spec/01_device_overview.md, R20;
R23, R107, R111, R131, R350, R462, R495).
-/
namespace Sys2Proof.Machine

/-! ## Bring-up (R375) -/

/-- P for a draw: 0, 2, 4 or 8 GiB (R107). -/
def poundChoice (x : Nat) : Nat := match x % 4 with
  | 0 => 0
  | 1 => 2 ^ 31
  | 2 => 2 ^ 32
  | _ => 2 ^ 33

/-- Keys of the tag records that fail their check, or that cannot be read. -/
def badTags (s : State) : List Nat :=
  let failing := (s.tags.filter (fun t => !tagOk t.2)).map (·.1)
  let unread := (s.bad.filter (fun b => decide (2 ^ 61 ≤ b.1) && b.2 == .lasting)).map (fun b => (b.1 - 2 ^ 61) / 4)
  (failing ++ unread).eraseDups

/-- Rewrite the tag records found in error as invalid, each logged with its index (R462). -/
def repairTags (s : State) : State :=
  (badTags s).foldl (fun s k =>
    logModule (setBad { s with tags := mapSet 0 k 0 s.tags } (tagUnit k) .sound) 0x090B 3 4 (k / 2 ^ 24) (k % 2 ^ 24) 0) s

/-- Units of 32 KiB that the spill areas and the holding store's spill take together in a stack. -/
def reservedRun : Nat := reservedSizes.foldl (· + ·) 0

/-- What Porman reserves, in units of 32 KiB: the configuration region (3) and the debug mailbox (1) in stack 0, and the run of the reserved
areas in each stack, all apart; `n` units of a stack are free, and `draw` gives the open choices. -/
def reserve (n : Nat) (draw : Nat → Nat) : Nat × Nat × List (Nat × Nat) :=
  let room := n - reservedRun
  let cfg := draw 0 % (room - 3)
  let box := if draw 1 % (room - 3) < cfg then draw 1 % (room - 3) else draw 1 % (room - 3) + 3
  let at_ := draw 2 % room
  let run := if cfg < at_ ∧ at_ < cfg + 3 then cfg else at_
  let past (x : Nat) : Nat := if x < run then x else x + reservedRun
  (past cfg, past box, (0, run) :: ((List.range 23).map (fun k => (k + 1, draw (3 + k) % room))))

/-- Steps 2 to 5 of bring-up: P, unless it is fixed already, and each die's G are set; the configuration region, the debug mailbox, the
spill areas and the holding store's are reserved apart from each other; the module is ready.
DESIGN CHOICE: notes/assumptions/91.md. -/
def bringUp (s : State) : State :=
  let draw (i : Nat) : Nat := (Config.freeBits (s.free + i)).toNat
  let p := if s.bar.brought then s.poundSize else poundChoice (draw 0)
  let (cfg, box, reserved) := reserve ((48 * 2 ^ 30 - p) / 32768) (fun i => draw (5 + i))
  let s1 := repairTags { s with poundSize := p, dbg := { s.dbg with base := some (32768 * box) } }
  let s2 := (List.range 4).foldl (fun s d => modReach s d (fun x =>
    { x with bound := draw (1 + d) % 289, target := clampTarget x (draw (1 + d) % 289), mark := none })) s1
  let s3 := modBar s2 (fun b => { b with cfgbase := 32768 * cfg, brought := true, damaged := false, change := rd s2 (32768 * cfg) 8, reserved,
                                         attest := if b.attest = 0x80 then 0 else b.attest })
  passFree { s3 with ready := true } 31

/-- A commit that is under way is interrupted, and leaves the image damaged (R406). -/
def tearCommit (b : Bar) : Bar := { b with torn := b.torn || b.committing, committing := false }

/-- `POWER_ON_BRINGUP`: the firmware's signature is checked; a sound image brings the module up, a damaged one leaves it to be restored
(R375, R406). -/
def execPowerOnBringup (s : State) : Res :=
  if s.ready then .next s
  else
    let s1 := modBar s tearCommit
    .next (if !s1.bar.torn && Config.imageSigned s1.bar.firmware then bringUp s1
      else logModule (modBar s1 (fun b => { b with damaged := true, attest := 0x80, rstat := 0 })) 0x0701 5 11 0 0 0)

/-! ## The arithmetic clock (R20, R379) -/

/-- Watts that the module draws at most. -/
def powerLimit : Nat := 4500

/-- `POWER_LIMIT_THROTTLE`: above the limit the arithmetic clock is lowered; at or below it the clock may rise again, up to the clock
of the inlet.
DESIGN CHOICE: notes/assumptions/93.md. -/
def execPowerLimitThrottle (watts : Nat) (s : State) : Res :=
  let x := freeNat s
  .next (passFree (modBar s (fun b =>
    { b with khz := if powerLimit < watts then (if b.khz = 0 then 0 else x % b.khz) else max b.khz (min b.inletKhz x) })) 1)

/-- Arithmetic clock by inlet temperature, in kHz (Table 18-10). -/
def inletClock (celsius : Nat) : Nat :=
  if celsius ≤ 35 then 2250000 else if celsius ≤ 40 then 2100000 else if celsius ≤ 45 then 1900000 else if celsius ≤ 50 then 1500000
  else 1000000

/-- `INLET_CLOCK_STEP`: the inlet's clock is set, and a step is logged; above 50 °C no new team is placed.
DEDUCED: notes/assumptions/94.md. -/
def execInletClockStep (celsius : Nat) (s : State) : Res :=
  let k := inletClock celsius
  let s1 := modBar s (fun b => { b with hot := decide (50 < celsius) })
  if k = s.bar.inletKhz then .next s1
  else .next (logModule (modBar s1 (fun b => { b with inletKhz := k, khz := if b.khz = b.inletKhz then k else min b.khz k })) 0x0606 4 11 0 0 0)

/-! ## Scrubs, calibration and monitors (R378, R405, Table 23-7) -/

/-- Scrub a unit of storage: a correctable or transient error is written back corrected, a lasting one is left and logged as latent. -/
def scrubUnit (s : State) (a kind unit detail : Nat) : State :=
  let log (s : State) (code cls flags : Nat) : State :=
    logRecord s { seq := 0, time := 0, addr := badAddr a, code, cls, flags, unitKind := kind, unit, detail }
  match badAt s a with
  | .sound => s
  | .correctable => log (setBad s a .sound) 0x0601 0 1
  | .transient => log (setBad s a .sound) 0x0601 0 7
  | .lasting =>
    if !inDieScratch a then log s 0x0602 3 3
    else match checkSources s (rebuildSources a) with
      | (s1, true) => log (setBad s1 a .sound) 0x0601 0 7
      | (s1, false) => log s1 0x0602 3 3

/-- `PATROL_SCRUB`: reads 64-byte unit number `unit` of the physical map: of a stack, its carve-out included, or of LPDDR6. -/
def execPatrolScrub (unit : Nat) (s : State) : Res :=
  let a := 64 * unit
  if a < 24 * 2 ^ 36 ∧ a % 2 ^ 36 < 48 * 2 ^ 30 then .next (scrubUnit s a 3 (a / 2 ^ 36) (a / 512 % 64))
  else match regionOf 0 a with
    | .lpddr c => .next (scrubUnit s a 5 c c)
    | _ => .next s

/-- `SCRATCHPAD_SCRUB`: reads one 128-byte line of die-scratchpad slice `unit`, 0 to 255, or of the team scratchpad of core
`unit` − 256.
DEDUCED: notes/assumptions/96.md. -/
def execScratchpadScrub (unit line : Nat) (s : State) : Res :=
  let base := if unit < 256 then locDie (unit / 64) ((64 * line + unit % 64) * 128) else locTeam (unit - 256) (128 * line)
  let room := if unit < 256 then 2 ^ 27 / 128 / 64 else 2 ^ 19 / 128
  if room ≤ line ∨ 256 + numCores ≤ unit then .next s
  else .next ((List.range 32).foldl (fun s i =>
    let (_, _, kind, u, detail) := badCodes (base + 4 * i)
    scrubUnit s (base + 4 * i) kind u detail) s)

/-- A calibration's outcome: a failure whose next succeeds, and a second failure in succession, are logged.
DEDUCED: notes/assumptions/95.md. -/
def calibrate (s : State) (key kind unit detail : Nat) (ok : Bool) : State :=
  let n := mapGet 0 s.bar.calFailed key
  let put (v : Nat) : State := modBar s (fun b => { b with calFailed := mapSet 0 key v b.calFailed })
  if ok then (if n = 0 then s else logModule (put 0) 0x0603 0 kind unit detail 0)
  else if n = 0 then put 1 else logModule (put 0) 0x0604 1 kind unit detail 0

/-- `DRAM_CALIBRATION`: of channel 64·k + c of stack k, below 1,536, or of LPDDR6 channel − 1,536. -/
def execDramCalibration (channel : Nat) (ok : Bool) (s : State) : Res :=
  if channel < 1536 then .next (calibrate s channel 3 (channel / 64) (channel % 64) ok)
  else if channel < 1600 then .next (calibrate s channel 5 (channel - 1536) (channel - 1536) ok)
  else .next s

/-- `SERDES_CALIBRATION`: of Camtos port 0 to 15, of PCIe (16), or of display output − 17. -/
def execSerdesCalibration (port : Nat) (ok : Bool) (s : State) : Res :=
  if port < 16 then .next (calibrate s (2 ^ 16 + port) 8 port port ok)
  else if port = 16 then .next (calibrate s (2 ^ 16 + port) 9 0 0 ok)
  else if port < 21 then .next (calibrate s (2 ^ 16 + port) 10 (port - 17) (port - 17) ok)
  else .next s

/-- `ROW_ACTIVITY_MITIGATION`: takes a share of a channel's bandwidth (Table 18-9) and changes nothing stored. -/
def execRowActivityMitigation (_stack _channel : Nat) (s : State) : Res := .next s

/-- `AGING_MONITOR`: a monitor past its limit is logged. -/
def execAgingMonitor (unit : Nat) (s : State) : Res := .next (logModule s 0x0605 4 11 unit 0 0)

/-! ## Module reset (R23, R107, R131, R398) -/

/-- `MODULE_RESET`: every register takes its reset value: the core clocks and `%clock` are zero, density histories are empty, sequence
numbers start again and P may change at the next bring-up. Stored data and its errors, the firmware image and the hardware clock stay;
tag records are invalid, but for those in error.
DEDUCED: notes/assumptions/92.md. -/
def execModuleReset (s : State) : Res :=
  .next { State.reset with
    agenda := s.agenda, cur := s.cur, curCore := s.curCore, free := s.free, mem := s.mem, full := s.full, bad := s.bad,
    tags := s.tags.filter (fun t => !tagOk t.2), poundSize := s.poundSize, msix := s.msix, ptpNs := s.ptpNs, ptpFrac := s.ptpFrac,
    bar := { firmware := s.bar.firmware, torn := s.bar.torn || s.bar.committing } }

/-! ## Code objects (R23, R111) -/

/-- Forget the histories of a code object's entry points. -/
def forgetDensity (s : State) (code : Nat) : State :=
  { s with density := s.density.filter (fun d => d.1 / 2 ^ 57 != code) }

/-- Code objects of a context that overlap a range of addresses. -/
def codesOver (s : State) (ctx base size : Nat) : List Nat :=
  (List.range s.codes.length).filter (fun i =>
    let c := s.codes.getD i {}
    c.loaded && !c.flat && c.ctx == ctx && decide (c.base < base + size) && decide (base < c.base + 32768 * c.pages.length))

/-- A code object is no longer loaded. -/
def unloadCode (s : State) (code : Nat) : State :=
  forgetDensity { s with codes := s.codes.modify code (fun c => { c with loaded := false }) } code

/-- Translate the 32 KiB of a code object in turn, each from a page with the execute bit; a failure is logged and leaves its place in
the map empty. With each page, whether the pound may hold it (R108). -/
def codePages (ctx : Nat) : Nat → Nat → State → State × List (Option Nat × Bool)
  | 0, _, s => (s, [])
  | n + 1, va, s =>
    match translating s ctx va { exec := true } true with
    | (s0, .error e) =>
      let (s1, l) := codePages ctx n (va + 32768) (logAccErr s0 none va e)
      (s1, (none, false) :: l)
    | (s0, .ok (p, pte)) =>
      let (s1, l) := codePages ctx n (va + 32768) s0
      (s1, (some p, bitOf pte 6) :: l)

/-- `CODE_OBJECT_LOAD`: builds the code map of `size` bytes from `base`, in which `.text` and `.mstream` lie from and to the addresses
given; an object it overlaps is replaced.
DEDUCED: notes/assumptions/98.md. -/
def execCodeObjectLoad (ctx base size text textEnd mstream mstreamEnd : Nat) (s : State) : Res :=
  if base % 32768 ≠ 0 ∨ 2 ^ 57 < base + size then .next s
  else
    let s1 := (codesOver s ctx base size).foldl unloadCode s
    let (s2, pages) := codePages ctx ((size + 32767) / 32768) base s1
    .next (forgetDensity { s2 with codes := s2.codes ++ [{ ctx, base, pages := pages.map (·.1), pounds := pages.map (·.2),
                                                           text := (text, textEnd), mstream := (mstream, mstreamEnd) }] }
      s2.codes.length)

/-- `CODE_OBJECT_UNLOAD`: no launch finds the object any longer, and its histories are cleared; segments stay (R341). -/
def execCodeObjectUnload (code : Nat) (s : State) : Res := .next (unloadCode s code)

/-! ## Attestation (R376, R407) -/

/-- Start attestation. A damaged mailbox serves only the restore protocol. -/
def startAttestation (s : State) : State :=
  if s.bar.damaged then modBar s (fun b => { b with attest := 0x80 })
  else if s.bar.attest = 1 then logModule s 0x0704 4 11 0 0 0
  else modBar s (fun b => { b with attest := if Config.identityKey then 1 else 0x80 })
/-- `ATTESTATION_START`: the host writes 1 to the attestation command. -/
def execAttestationStart (s : State) : Res := .next (startAttestation s)

/-- Bytes of the configuration region (Table 18-5). -/
def configSize : Nat := 0x18000
/-- The settings of BAR0, as offsets and lengths: its registers outside the mailbox that the host can set and read.
DESIGN CHOICE: notes/assumptions/97.md. -/
def settingRanges : List (Nat × Nat) :=
  [(0x10, 4), (0x1000, 0x2000), (0x5000, 64), (0x6000, 128), (0x7000, 256), (0x8008, 4), (0x9000, 4), (0x9010, 16), (0xA000, 12)]
/-- Their bytes. -/
def settingBytes (s : State) : List Byte :=
  settingRanges.flatMap (fun r => (List.range (r.2 / 4)).flatMap (fun i => toBytesLE 4 (barWord s (r.1 + 4 * i))))

/-- A report without its signature: nonce, firmware digest, the digest of the configuration region and the settings, part and serial
number. -/
def reportBody (s : State) : List Byte :=
  s.bar.nonce ++ Config.sha256 s.bar.firmware ++ Config.sha256 (readBytes s.mem s.bar.cfgbase configSize ++ settingBytes s) ++
    Config.partAndSerial

/-- Porman finishes a report that is under way.
DESIGN CHOICE: notes/assumptions/97.md. -/
def finishReport (s : State) : State :=
  if s.bar.attest = 1 then modBar s (fun b => { b with attest := 2, report := reportBody s ++ Config.identitySignature (reportBody s) })
  else s

/-! ## Firmware restore (R406, Table 23-8) -/

/-- The restore protocol is served: of a damaged image, or while every queue is disabled; and no commit is under way.
DEDUCED: notes/assumptions/99.md. -/
def restoreServed (s : State) : Bool := (s.bar.damaged || s.launch.queues.all (fun q => !q.2.enabled)) && !s.bar.committing

/-- Set rstat. -/
def setRstat (s : State) (v : Nat) : State := modBar s (fun b => { b with rstat := v })

/-- Bytes of an image at most. -/
def imageMax : Nat := 2 ^ 24

/-- Append the chunk buffer's bytes to the image. -/
def appendChunk (s : State) : State :=
  let b := s.bar
  if !restoreServed s then s
  else if b.rlen = 0 ∨ 16384 < b.rlen ∨ b.roff ≠ b.image.length then setRstat s 0x80
  else if imageMax < b.image.length + b.rlen then setRstat s 0x82
  else setRstat (modBar s (fun b => { b with image := b.image ++ (List.range b.rlen).map (fun i => mapGet 0 b.rbuf i) })) 2
/-- `RESTORE_APPEND`: appends the chunk buffer's bytes to the image. -/
def execRestoreAppend (s : State) : Res := .next (appendChunk s)

/-- A commit starts: it is busy until Porman has finished it. -/
def startCommit (s : State) : State :=
  if !restoreServed s then s else setRstat (modBar s (fun b => { b with committing := true })) 1
/-- `RESTORE_COMMIT`: verifies and commits the image. -/
def execRestoreCommit (s : State) : Res := .next (startCommit s)

/-- Porman finishes a commit that is under way: an image whose signature is good becomes the firmware, and bring-up follows; another is
discarded.
DEDUCED: notes/assumptions/99.md. -/
def finishCommit (s : State) : State :=
  let image := s.bar.image
  if !s.bar.committing then s
  else if Config.imageSigned image then
    bringUp (setRstat (modBar s (fun b => { b with firmware := image, image := [], committing := false, torn := false })) 3)
  else logModule (setRstat (modBar s (fun b => { b with image := [], committing := false })) 0x81) 0x0702 5 11 0 0 0

/-- Discard the appended bytes. -/
def discardImage (s : State) : State := if !restoreServed s then s else setRstat (modBar s (fun b => { b with image := [] })) 0
/-- `RESTORE_DISCARD`: discards the appended bytes. -/
def execRestoreDiscard (s : State) : Res := .next (discardImage s)

/-! ## Rebuilds for a busy bank (R103, R460) -/

/-- A read of the line of die-scratchpad location `a` is rebuilt because its bank is busy: a correctable error of a source is corrected; a
lasting one has the rebuild discarded, and is logged as a scrub finding.
DEDUCED: notes/assumptions/96.md. -/
def busyRebuild (s : State) (a : Nat) : State :=
  if !inDieScratch a then s
  else
    let sources := (List.range 32).flatMap (fun i => rebuildSources (a / 128 * 128 + 4 * i))
    if sources.any (fun w => badAt s w == .lasting) then
      sources.foldl (fun s w =>
        let (_, _, kind, unit, detail) := badCodes w
        scrubUnit s w kind unit detail) s
    else (checkSources s sources).1

end Sys2Proof.Machine
end

