-- ==== Sys2Proof/Machine/Registers.lean ====
section
/-!
DEFINITION. What the host writes in BAR0 (spec/18_host_links_time.md, R361, R362, R377; R8, R351, R371, R376, R380, R397, R404, R406, R407,
R449, R485, R501).
-/
namespace Sys2Proof.Machine

/-- Write `n` bytes of a number into a table of bytes from index `i`. -/
def setBytes (i : Nat) : Nat → Nat → List (Nat × Byte) → List (Nat × Byte)
  | 0, _, m => m
  | n + 1, v, m => setBytes (i + 1) n (v / 256) (mapSet 0 i (BitVec.ofNat 8 v) m)

/-- Write route table bytes. -/
def setRoutes (i : Nat) : Nat → Nat → List (Nat × Nat) → List (Nat × Nat)
  | 0, _, m => m
  | n + 1, v, m => setRoutes (i + 1) n (v / 256) (mapSet 0 i (v % 256) m)

/-- Write bytes of the attestation nonce (R376, R407).
DEDUCED: notes/assumptions/71.md. -/
def writeNonce (s : State) (i n v : Nat) : State :=
  if s.bar.damaged then s
  else if s.bar.attest = 1 then logModule s 0x0704 4 11 0 0 0
  else modBar s (fun b => { b with nonce := b.nonce.take i ++ toBytesLE n v ++ b.nonce.drop (i + n) })

/-- The restore command: append, commit or discard (Table 23-8). -/
def restoreCommand (s : State) (v : Nat) : State := match v with
  | 1 => appendChunk s
  | 2 => startCommit s
  | 3 => discardImage s
  | _ => s

/-- A write in the Porman mailbox, by mailbox offset (Table 18-15). A damaged image leaves only the restore protocol (R406).
DEDUCED: notes/assumptions/137.md. -/
def writeMail (s : State) (off n v : Nat) : State :=
  if off = 0xA000 then restoreCommand s v
  else if off = 0xA004 then modBar s (fun b => { b with roff := v })
  else if off = 0xA008 then modBar s (fun b => { b with rlen := v })
  else if 0xC000 ≤ off ∧ off < 0x10000 then modBar s (fun b => { b with rbuf := setBytes (off - 0xC000) n v b.rbuf })
  else if s.bar.damaged then s
  else if off < 0x20 then writeNonce s off n v
  else if off = 0x20 then (if v = 1 ∨ s.bar.attest = 1 then startAttestation s else s)
  else if off = 0x6008 then writeHold s (BitVec.ofNat 32 v)
  else if off = 0x8040 then writeRetrain s (BitVec.ofNat 32 v)
  else s

/-- A write of `n` bytes to the register at a BAR0 offset (Table 18-2): read-only registers and reserved bytes take nothing.
DEDUCED: notes/assumptions/70.md. -/
def writeReg (s : State) (off n v : Nat) : State :=
  if off = 0x10 then { s with deviceId := v % 64 }
  else if 0x1000 ≤ off ∧ off < 0x3000 then writeQueue s ((off - 0x1000) / 64) (off % 64) n v
  else if 0x4000 ≤ off ∧ off < 0x4400 then doorbell s ((off - 0x4000) / 8) v
  else if 0x5000 ≤ off ∧ off < 0x5040 then
    modBar s (fun b => { b with apertures := mapSet 0 ((off - 0x5000) / 8) (BitVec.ofNat 64 (v % 2 + bitField v 33 19 * 2 ^ 33)) b.apertures })
  else if off = 0x6000 then { s with fabric := { s.fabric with inbound := v % 2 ^ 16 } }
  else if off = 0x6008 then { s with fabric := { s.fabric with sources := BitVec.ofNat 64 v } }
  else if 0x6040 ≤ off ∧ off < 0x6080 then { s with fabric := { s.fabric with routes := setRoutes (off - 0x6040) n v s.fabric.routes } }
  else if 0x7000 ≤ off ∧ off < 0x7100 then writeBlock s ((off - 0x7000) / 64) (off % 64) n v
  else if off = 0x8008 then setFreq s (BitVec.ofNat 32 v).toInt
  else if off = 0x8010 then applyOffset s (BitVec.ofNat 64 v).toInt
  else if off = 0x9000 then writeDuty s (BitVec.ofNat 32 v)
  else if 0x9010 ≤ off ∧ off < 0x9020 then writeLimits s ((off - 0x9010) / 4) (BitVec.ofNat 32 v)
  else if off = 0xA000 then (if s.log.en then s else { s with log := { s.log with base := BitVec.ofNat 64 v } })
  else if off = 0xA008 then writeLogctl s (BitVec.ofNat 32 v)
  else if off = 0xA010 then { s with log := { s.log with tail := v } }
  else if off = 0xA100 then faultreply s (v % 2 ^ 63) (bitOf v 63)
  else if 0x10000 ≤ off ∧ off < 0x20000 then writeMail s (off - 0x10000) n v
  else s

/-- A dword from this offset is one write: one register, or fields that are written together. -/
def oneWrite (off : Nat) : Bool :=
  isDwordReg off || (decide (0x1000 ≤ off) && decide (off < 0x3000)) || (decide (0x6040 ≤ off) && decide (off < 0x6080)) ||
    (decide (0x7000 ≤ off) && decide (off < 0x7100)) || (decide (0x10000 ≤ off) && decide (off < 0x10020)) ||
    (decide (0x1C000 ≤ off) && decide (off < 0x20000))

/-- `REGISTER_WRITE`: a host write to BAR0. A dword over two word registers writes both.
DEDUCED: notes/assumptions/68.md. -/
def execRegisterWrite (offset size : Nat) (data : Nat) (s : State) : Res :=
  if 2 ^ 20 ≤ offset then .next s
  else if !barWhole offset size then .next (hostAbort s 0x0920 offset)
  else
    let s0 := hostReply s .quiet
    if size = 4 ∨ oneWrite offset then .next (writeReg s0 offset size (data % 2 ^ (8 * size)))
    else .next (writeReg (writeReg s0 offset 4 (data % 2 ^ 32)) (offset + 4) 4 (data / 2 ^ 32 % 2 ^ 32))

end Sys2Proof.Machine
end

