-- ==== Sys2Proof/Machine/Save.lean ====
section
/-!
DEFINITION. Pre-emption: the choice of a victim, the save of a team and its resumption (spec/17_scheduler.md, R357, R358, Table 17-5;
spec/03_programmer_state.md, R63 to R65, Tables 3-7 and 3-8; R41, R293, R404, R417, R418).
-/
namespace Sys2Proof.Machine

/-! ## Starting a pre-emption (R357) -/

/-- A group holds a `qy` or `cq` operation, a waiting `.fe` or `.take` lane, or an engine command that names its team's landings. -/
def teamBusy (s : State) (t : Nat) : Bool :=
  s.ops.any (fun x => (grp s x.g).team == t && !x.finished && (x.path == some 3 || x.path == some 4)) ||
    s.sync.waiters.any (fun w => (grp s (op s w.1).g).team == t) ||
    s.tows.any (fun c => (grp s c.g).team == t && c.phase != .done && c.phase != .waiting)
/-- A command of a team is held for page-fault service (R404). -/
def teamHeld (s : State) (t : Nat) : Bool := s.held.any (fun h => match h.who with
  | .access o _ => (grp s (op s o).g).team == t
  | .group g _ => (grp s g).team == t
  | .tow c => (grp s (towOf s c).g).team == t)

/-- The teams a pre-emption for grid `i` may choose. -/
def candidates (s : State) (i : Nat) : List Nat :=
  (List.range s.teams.length).filter (fun t =>
    let x := team s t
    x.phase == .resident && !fromQuay s t && !isQuayCore x.core && inReachOf s (grid s i).gfx x.core &&
      decide ((grid s x.grid).prio < (grid s i).prio) && x.spared != some i)

/-- The order of R357, as a number: the least is chosen. A team with a held command comes last (R404). -/
def victimKey (s : State) (t : Nat) : Nat :=
  let x := team s t
  (((teamHeld s t).toNat * 64 + (grid s x.grid).prio) * 2 + (teamBusy s t).toNat) * 2 ^ 80 + (2 ^ 64 - 1 - x.placedNo) * 2 ^ 16 +
    (2 ^ 16 - 1 - x.core)

/-- A grid's next team has waited for 2 µs, and lacks nothing but room on a core. -/
def mustPreempt (s : State) (i : Nat) : Bool :=
  let x := grid s i
  x.parent.isNone && x.phase != .complete && decide (x.placed < x.nteams) && decide (x.waitingSince + 2000 ≤ timeOf s) && !s.bar.hot &&
    (firstPlacement s i).isSome && (freeSlot s i).isSome && (placeGrid s i).isNone &&
    (List.range s.teams.length).all (fun t => (team s t).phase != .stopping || !inReachOf s x.gfx (team s t).core)

/-- `PREEMPTION_START`: an unplaced team that has waited 2 µs chooses a victim of lower priority, which stops. The teams of a co-resident
grid stop together. -/
def execPreemptionStart (i : Nat) (s : State) : Res :=
  match if mustPreempt s i then leastBy (victimKey s) (candidates s i) else none with
  | none => .next s
  | some v => .next ((stopSet s v).foldl (fun s t => stopTeam (modTeam s t (fun x => { x with spared := some i })) t) s)

/-! ## The context image (Tables 3-7 and 3-8) -/

/-- The loop register at an offset of an image. -/
def loopAt (b : List Byte) (off : Nat) : LoopReg :=
  { start := BitVec.ofNat 64 (recField b off 8), stop := BitVec.ofNat 64 (recField b (off + 8) 8),
    count := BitVec.ofNat 32 (recField b (off + 16) 4) }

/-- The check of R418 on an image. -/
def imageOk (s : State) (g : Nat) (b : List Byte) : Bool :=
  let x := grp s g
  let f (off n : Nat) : Nat := recField b off n
  let st := f 8 4
  let code := bitField st 4 5
  f 0 1 == 1 && bitOf st 0 && f 1 1 == widthCode (widthOf s g) && f 2 1 == x.role && f 3 1 == x.gid && f 4 4 == (teamOf s g).teamid &&
    f 0xC 1 == x.launched && f 0x20 8 &&& (2 ^ x.launched - 1) == f 0x20 8 && f 0x18 8 &&& f 0x20 8 == f 0x18 8 &&
    f 0x28 6 == 0 && f 0xD 3 == 0 && f 0x2E 2 == 0 && f 0x6C 4 == 0 && f 0x120 224 == 0 && decide (st < 2 ^ 9) &&
    (List.range 4).all (fun i => f (0x80 + 32 * i + 20) 12 == 0) && checkPc s g (BitVec.ofNat 64 (f 0x10 8)) == .good &&
    decide (code ≤ 14) && bitOf st 2 == (code != 0) && (code != 0 || (f 0x60 8 == 0 && f 0x68 4 == 0))

/-- Block codes whose instruction has not taken effect, so that it issues again (R64). -/
def reissued (w : Wait) : Bool := w.code == 6 || w.code == 7 || (decide (11 ≤ w.code) && decide (w.code ≤ 14)) || (w.code == 9 && w.opnd != 0)

/-- A group with the fields of an image; its wait is evaluated again.
DEDUCED: notes/assumptions/63.md. -/
def withImage (s : State) (b : List Byte) (x : Group) : Group :=
  let q (off : Nat) : DWord := BitVec.ofNat 64 (recField b off 8)
  let w (off : Nat) : Word := BitVec.ofNat 32 (recField b off 4)
  let st := recField b 8 4
  let wait : Wait := { code := bitField st 4 5, obj := recField b 0x60 8, opnd := recField b 0x68 4 }
  let wait := if reissued wait then {} else wait
  { x with pc := q 0x10, exec := q 0x18, live := q 0x20, intrap := bitOf st 1, halted := bitOf st 3, fpctl := w 0x30, fpflags := w 0x34,
           trapbase := q 0x38, trappc := q 0x40, trapexec := q 0x48, trapcause := w 0x50, trapen := w 0x54, faultaddr := q 0x58, wait,
           backing := recField b 0x70 8, spill := q 0x78, lc0 := loopAt b 0x80, lc1 := loopAt b 0xA0, lc2 := loopAt b 0xC0,
           lc3 := loopAt b 0xE0, written := BitVec.ofNat 256 (recField b 0x100 32),
           sregs := (List.range 256).foldl (fun m n => mapSet 0 n (w (0x200 + 4 * n)) m) [],
           waitEarly := false, waitUnder := x.waitUnder && wait.code == 1, waitRuns := s.runs.length,
           drained := x.drained && wait.code == 9,
           clause := none, mapped := 0, active := false, readyStamp := some s.clock, stalledOn := none, pairing := .alone }

/-! ## The team's save area (Table 17-5) -/

/-- Address of a team's slot in its pool (R344). -/
def teamRegion (s : State) (t : Nat) : Nat :=
  let x := team s t
  (grid s x.grid).pool + x.slot * slotStride (grid s x.grid) x.hdr

/-- The space of a team's save area. -/
def areaSpace (s : State) (t : Nat) : Space :=
  launcherSpace (grid s (team s t).grid).ctx (grid s (team s t).grid).privileged

/-- The state of a team's stream, as the save area holds it. -/
def streamBytes (x : Run) : List Byte :=
  let loop (l : LoopReg) : List Byte := toBytesLE 8 l.start.toNat ++ toBytesLE 8 l.stop.toNat ++ toBytesLE 4 l.count.toNat ++ zeros 4
  toBytesLE 8 x.pc ++ toBytesLE 4 x.status ++ toBytesLE 4 x.flags ++ (List.range 16).flatMap (fun n => toBytesLE 4 (scalar x n)) ++
    toBytesLE 2 x.signals ++ toBytesLE 2 x.waits ++ toBytesLE 4 x.holders ++ loop x.loop0 ++ loop x.loop1 ++
    toBytesLE 4 (x.tile.getD 0xFFFFFFFF) ++ zeros 116 ++ (List.range 128).flatMap (fun i => toBytesLE 2 (mapGet 0 x.slots i))

/-- The open window entries of a team, and each entry's word. -/
def windowBytes (s : State) (t : Nat) : List Byte :=
  let at_ (e : Nat) : Option Window := (mapGet none s.sync.windows (64 * (team s t).core + e)).filter (fun w => w.team == t)
  toBytesLE 8 ((List.range 64).foldl (fun m e => m + (if (at_ e).isSome then 2 ^ e else 0)) 0) ++
    (List.range 64).flatMap (fun e => toBytesLE 4 (match at_ e with
      | some w => w.line + w.writer + 4 * w.single.toNat
      | none => 0))

/-- The accumulator tiles of a team, in the image of R56. -/
def tileBytes (s : State) (t : Nat) : List Byte :=
  let x := team s t
  x.tileMap.flatMap (fun p => (List.range 4096).flatMap (fun e => toBytesLE 4 (mapGet 0 s.tiles (4096 * (64 * x.core + p) + e))))

/-- Offset of the scratchpad allocation in a team's save area. -/
def areaScratch (x : Team) : Nat := 0x400 + 16384 * x.tileMap.length

/-- The save area of a team. -/
def areaBytes (s : State) (t : Nat) : List Byte :=
  let x := team s t
  let run := runOfTeam s t
  let loc := locTeam x.core x.allocBase
  toBytesLE 4 1 ++ toBytesLE 4 (1 + 2 * run.isSome.toNat) ++ toBytesLE 4 x.core ++ toBytesLE 4 x.tileMap.length ++ toBytesLE 4 x.allocSize ++
    zeros 4 ++ windowBytes s t ++ zeros 224 ++ (match run with
      | some r => streamBytes (runAt s r)
      | none => zeros 512) ++ tileBytes s t ++ readBytes s.mem loc x.allocSize ++ fullBytes s loc x.allocSize

/-- The save area of a team as it is read back: version, saved, of this core, with its t and A, and nothing in what Table 17-5 reserves
(R9).
DEDUCED: notes/assumptions/63.md. -/
def areaOk (x : Team) (b : List Byte) : Bool :=
  let f (off n : Nat) : Nat := recField b off n
  f 0 4 == 1 && bitOf (f 4 4) 0 && decide (f 4 4 < 4) && f 8 4 == x.core && f 0xC 4 == x.tileMap.length && f 0x10 4 == x.allocSize &&
    f 0x14 4 == 0 && f 0x120 224 == 0 && f 0x26C 4 == 0 && f 0x284 4 == 0 && f 0x28C 116 == 0

/-! ## `redb` entries of a parked team (R358) -/

/-- Set where the entries of a team to its own scratchpad stand: `place` gives the location, and the pound bit, of an offset. -/
def moveEntries (s : State) (t : Nat) (place : Nat → Option (Nat × Bool)) : State :=
  { s with sync := { s.sync with redb := s.sync.redb.map (fun e =>
      if e.team = t ∧ bitField e.named 60 4 = 5 then
        match place (e.named % 2 ^ 19) with
        | some (a, pound) => { e with addr := a, pound }
        | none => e
      else e) } }
/-- While the team is parked its scratchpad is in the save area. -/
def entriesOut (s : State) (t : Nat) : State :=
  moveEntries s t (fun off => match locate s (areaSpace s t) (teamRegion s t + areaScratch (team s t) + off) 1 {} with
    | .ok p => some p
    | .error _ => none)
/-- Once it is back they stand in its allocation. -/
def entriesBack (s : State) (t : Nat) : State :=
  moveEntries s t (fun off => some (locTeam (team s t).core ((team s t).allocBase + off), false))

/-! ## The save (R65, R358, R417) -/

/-- Groups of a team that have not ended. -/
def openGroups (s : State) (t : Nat) : List Nat := (groupsOf s t).filter (fun g => !(grp s g).ended)

/-- What a save waits for (R65, R263, R293): nothing of the team's groups, engine commands or stream is under way.
DEDUCED: notes/assumptions/118.md. -/
def saveReady (s : State) (t : Nat) : Bool :=
  teamQuiet s t && (openGroups s t).all (fun g => countersZero (grp s g).counters && !(grp s g).ending && (grp s g).filling.isNone &&
    s.pins.all (fun p => p.g != g)) &&
    (match runOfTeam s t with
      | some r => (runAt s r).reading.isNone && (runAt s r).writes.isEmpty
      | none => true)

/-- What an instruction of the group's that waits for a place has ready is given up: it issues again (R64). -/
def withdraw (s : State) (g : Nat) : State :=
  { s with tows := s.tows.map (fun c => if c.g = g ∧ c.phase = .waiting then { c with phase := .done } else c),
           bar := { s.bar with frels := s.bar.frels.filter (fun p => p.1 != g) } }

/-- The wait of a group whose instruction has taken effect, so that the pc is past it (R64). -/
def waitStands (x : Group) : Bool :=
  (x.wait.code == 1 && !x.waitEarly) || x.wait.code == 2 || x.wait.code == 4 || x.wait.code == 8 || x.wait.code == 10 ||
    (x.wait.code == 9 && x.wait.opnd == 0)

/-- Take the error pending at a stopped group as part of its save: trap entry, over its wait if it has one (R417). An instruction that has
not taken effect is given up, and issues again after the handler.
DEDUCED: notes/assumptions/143.md. -/
def trapInSave (s : State) (g : Nat) : State :=
  let x := grp s g
  let s1 := withdraw (takePending (modGrp s g (fun x => { x with wait := {} })) g) g
  if waitStands x ∧ (grp s1 g).live ≠ 0 then modGrp s1 g (fun y => { y with wait := x.wait, waitUnder := true }) else s1

/-- Errors that reach a stopped group are answered as part of its save (R413, R417). -/
def settleGroup (s : State) (g : Nat) : State :=
  let x := grp s g
  match x.doomed with
  | some c => doubleFault s g c
  | none => if !x.intrap ∧ x.pending ≠ [] ∧ !x.halted ∧ x.live ≠ 0 then trapInSave s g else s

/-- Write back the spill-stack bytes the cache holds for group `g`: whether all could be written. -/
def saveSpill (s : State) (g : Nat) : State × Bool :=
  match saveSpillBytes g (s.spilled.filter (fun p => decide (spillLoc g 0 ≤ p.1) && decide (p.1 < spillLoc (g + 1) 0))) s with
  | (s1, true) => (spillClear s1 g, true)
  | r => r

/-- What a save has met: the registers whose slot writes failed, each with its group and why, and the first address that could not be
saved. -/
structure SaveFault where
  slots : List (Nat × Nat × AccErr) := []
  addr : Option Nat := none
deriving DecidableEq, Repr

/-- One more failed address. -/
def SaveFault.area (f : SaveFault) (a : Nat) : SaveFault := { f with addr := some (f.addr.getD a) }
/-- Whether a save met a failure. -/
def SaveFault.any (f : SaveFault) : Bool := f.addr.isSome

/-- Write a group's spill stack and image: whether both could be written. -/
def saveImage (s : State) (g : Nat) : State × Bool :=
  match saveSpill s g with
  | (s1, true) => writeSpan s1 (backSpace s1 g) (grp s1 g).backing (imageBytes s1 g)
  | r => r

/-- Save the registers, the spill stack and the image of each group. -/
def saveGroups : List Nat → SaveFault → State → State × SaveFault
  | [], f, s => (s, f)
  | g :: t, f, s => match saveRegs g (List.range 256) s with
    | (s1, some (n, e)) => saveGroups t { (f.area (slotAddr s1 g n)) with slots := f.slots ++ [(g, n, e)] } s1
    | (s1, none) => match saveImage s1 g with
      | (s2, true) => saveGroups t f s2
      | (s2, false) => saveGroups t (f.area (grp s2 g).backing) s2

/-- The tile elements and scratchpad bytes a save reads: whether they can be read (R474, R448).
DEDUCED: notes/assumptions/62.md. -/
def saveSources (s : State) (t : Nat) : State × Bool :=
  let x := team s t
  if s.bad.isEmpty then (s, true)
  else match tilesSound t (x.tileMap.flatMap (fun p => (List.range 4096).map (fun e => (p, e)))) s with
    | (s1, some (p, e)) => (logTeam s1 t 0x0931 1 (p + e * 2 ^ 6) none, false)
    | (s1, none) => match checkRead s1 (locTeam x.core x.allocBase) x.allocSize with
      | (s2, none) => (s2, true)
      | (s2, some b) => (logAccErr s2 none 0 (.data b), false)

/-- Save a team (R358 step 3). -/
def saveTeam (s : State) (t : Nat) : State × SaveFault :=
  match saveGroups (openGroups s t) {} s with
  | (s1, f) =>
    if f.any then (s1, f)
    else match saveSources s1 t with
      | (s2, false) => (s2, f.area (teamRegion s2 t))
      | (s2, true) => match writeSpan s2 (areaSpace s2 t) (teamRegion s2 t) (areaBytes s2 t) with
        | (s3, false) => (s3, f.area (teamRegion s3 t))
        | (s3, true) => (s3, f)

/-- The pre-emption of a team is cancelled (R417): it goes on, and each group whose slot write failed answers for it.
DEDUCED: notes/assumptions/61.md. -/
def cancelSave (s : State) (t : Nat) (f : SaveFault) : State :=
  logTeam (f.slots.foldl (fun s p => slotWriteFailed s p.1 p.2.1 p.2.2) (modTeam s t (fun x => { x with phase := .resident }))) t 0x01F2 1 0
    f.addr

/-- A saved team gives up its core (R358 step 4). -/
def parkTeam (s : State) (t : Nat) : State :=
  modTeam ((openGroups s t).foldl (fun s g => modGrp (withdraw s g) g (fun x => { leaveActive x with mapped := 0 })) (entriesOut s t)) t
    (fun x => { x with phase := .parked, spared := none })

/-- `PREEMPTION_SAVE`: a stopped team with nothing under way is saved, and its place on the core is free. A group that the errors of step 2
end does so first. -/
def execPreemptionSave (t : Nat) (s : State) : Res :=
  if (team s t).phase ≠ .stopping ∨ !saveReady s t ∨ !memoryFree s then .next s
  else
    let s0 := (openGroups s t).foldl settleGroup s
    if !saveReady s0 t then .next s0
    else match saveTeam s0 t with
      | (s1, f) => .next (if f.any then cancelSave s1 t f else parkTeam s1 t)

/-! ## Resumption (R41, R293, R358, R418) -/

/-- The words that a group's registers hold in their slots, as the image's map names them; a slot that cannot be read is left to the fill
that will need it. -/
def loadSlots (g : Nat) : List Nat → State → State
  | [], s => s
  | n :: t, s =>
    if !regIn (grp s g).written n then loadSlots g t s
    else match readSpan s (backSpace s g) (slotAddr s g n) (4 * widthOf s g) with
      | (_, .error _) => loadSlots g t s
      | (s1, .ok b) => loadSlots g t (modGrp s1 g (fun x =>
          { x with vregs := (List.range (widthOf s g)).foldl (fun m l =>
              mapSet 0 (64 * n + l) (BitVec.ofNat 32 (recField b (4 * l) 4)) m) (mapClear (64 * n) 64 x.vregs) }))

/-- The wait-table entries of group `g` are cancelled. -/
def dropArmed (s : State) (g : Nat) : State :=
  { s with sync := { s.sync with armed := s.sync.armed.filter (fun e => e.g != g) } }

/-- A wait on an address, as the image names it, is evaluated again, with the data of the wait-table entry that was kept (R358): it is over
if a write ended it while the group was parked (R41), or if its test holds now; else its entry stands again. One whose address cannot be
reached keeps its old entry.
DEDUCED: notes/assumptions/63.md. -/
def watchAgain (s : State) (g : Nat) : State :=
  let x := grp s g
  match x.woke.orElse (fun _ => s.sync.armed.find? (fun e => e.g == g)) with
  | none => unblock s g
  | some e =>
    let s1 := modGrp (dropArmed s g) g (fun x => { x with woke := none })
    let arm (s : State) (e : Armed) : State := { s with sync := { s.sync with armed := s.sync.armed ++ [e] } }
    if x.woke.isSome ∧ e.named = x.wait.obj ∧ e.cond = x.wait.opnd then wakeGroup s1 e
    else match atomLoc s1 g false x.wait.obj e.size { read := true, atom := true } with
      | (s2, .error _) => arm s2 e
      | (s2, .ok (a, _)) =>
        let e1 : Armed := { e with addr := a, home := homeOf s2 a, named := x.wait.obj, cond := x.wait.opnd }
        if armedTest e1 (rd s2 a e1.size) then wakeGroup s2 e1 else arm s2 e1

/-- A group's wait, from its image (R64, R65, R418). Those on a flight, a landing, a counter, a run, a drain or a fence end as those of a
group that was never saved. A flight that was broken while the group was parked breaks its wait now (R420).
DEDUCED: notes/assumptions/63.md. -/
def waitAgain (s : State) (g : Nat) : State :=
  let x := grp s g
  if x.wait.code = 4 then watchAgain s g
  else
    let s1 := modGrp (dropArmed s g) g (fun x => { x with woke := none })
    match x.wait.code with
    | 1 => match flightWord s1 g x.wait.obj with
      | .flight k _ => match (flight s1 k).broken with
        | some code => if phasePassed (flight s1 k).phase (BitVec.ofNat 32 x.wait.opnd) then s1 else breakWait code s1 g
        | none => s1
      | _ => s1
    | 3 => if wordCame s1 g then unblock s1 g else s1
    | 9 => if x.drained ∨ (teamOf s1 g).drains.any (fun p => p.1 == g) then s1 else askDrain s1 x.team g
    | _ => s1

/-- Resume a group from its image; one that fails the check ends with code 0x01F4.
DEDUCED: notes/assumptions/63.md. -/
def resumeGroup (s : State) (g : Nat) : State :=
  let a := (grp s g).backing
  match readSpan s (backSpace s g) a imageSize with
  | (s1, .error _) => endGroup (logGroup s1 g 0x01F4 2 0 (some a)) g
  | (s1, .ok b) =>
    if !imageOk s1 g b then endGroup (logGroup s1 g 0x01F4 2 0 (some a)) g
    else
      let s2 := modGrp s1 g (withImage s1 b)
      let s3 := loadSlots g (List.range 256) (if pcIndex (grp s2 g).pc = 0 then s2 else reenterClause s2 g)
      let s4 := (writeSpan s3 (backSpace s3 g) (a + 8) (toBytesLE 1 (recField b 8 1 / 2 * 2))).1
      if (grp s4 g).live = 0 then endGroup s4 g else waitAgain s4 g

/-- The state of a stream as a save area holds it. -/
def withStream (b : List Byte) (x : Run) : Run :=
  let loop (off : Nat) : LoopReg := { start := BitVec.ofNat 64 (recField b off 8), stop := BitVec.ofNat 64 (recField b (off + 8) 8),
                                      count := BitVec.ofNat 32 (recField b (off + 16) 4) }
  let tile := recField b 0x288 4
  { x with pc := recField b 0x200 8, status := recField b 0x208 4, flags := recField b 0x20C 4,
           scalars := (List.range 16).foldl (fun m n => mapSet 0 n (BitVec.ofNat 32 (recField b (0x210 + 4 * n) 4)) m) [],
           signals := recField b 0x250 2, waits := recField b 0x252 2, holders := recField b 0x254 4, loop0 := loop 0x258, loop1 := loop 0x270,
           tile := if tile = 0xFFFFFFFF then none else some tile,
           slots := (List.range 128).foldl (fun m i => mapSet 0 i (recField b (0x300 + 2 * i) 2) m) [] }

/-- Put a team's tiles, scratchpad and full/empty bits back from its save area. -/
def restoreStorage (s : State) (t : Nat) (b : List Byte) : State :=
  let x := team s t
  let loc := locTeam x.core x.allocBase
  let s1 := clearTiles (clearScratch s loc x.allocSize) x.core x.tileMap
  let tiles := ((List.range x.tileMap.length).zip x.tileMap).foldl (fun m p => (List.range 4096).foldl (fun m e =>
    mapSet 0 (4096 * (64 * x.core + p.2) + e) (recField b (0x400 + 16384 * p.1 + 4 * e) 4) m) m) s1.tiles
  let scratch := b.drop (areaScratch x)
  setFullBytes { wrBytes s1 loc (scratch.take x.allocSize) with tiles } loc x.allocSize (scratch.drop x.allocSize)

/-- Every group of a team that still goes on ends, with a record. -/
def endTeam (s : State) (t code : Nat) : State :=
  ((openGroups s t).filter (fun g => !(grp s g).ending)).foldl (fun s g => endGroup (logGroup s g code 2 0 (some (teamRegion s t))) g) s

/-- Resume a parked team on its core. -/
def resumeTeam (s : State) (t : Nat) : State :=
  let s1 := takeRoom s t
  let x := team s1 t
  match readSpan s1 (areaSpace s1 t) (teamRegion s1 t) (areaScratch x + x.allocSize + x.allocSize / 32) with
  | (s2, .error _) => entriesBack (endTeam s2 t 0x01F3) t
  | (s2, .ok b) =>
    if !areaOk x b then entriesBack (endTeam s2 t 0x01F4) t
    else
      let s3 := entriesBack (restoreStorage s2 t b) t
      let s4 := match runOfTeam s3 t with
        | some r => if bitOf (recField b 4 4) 1 then modRun s3 r (withStream b) else s3
        | none => s3
      ((openGroups s4 t).filter (fun g => !(grp s4 g).ending)).foldl resumeGroup s4

/-- Nothing that is served before a parked team in its reach fits now (R346): a grid of higher priority, or a parked team of higher
priority, or of the same and of a grid whose command started first.
DEDUCED: notes/assumptions/64.md. -/
def resumeTurn (s : State) (t : Nat) : Bool :=
  let i := (team s t).grid
  let x := grid s i
  (List.range s.grids.length).all (fun j =>
    (grid s j).gfx != x.gfx || decide ((grid s j).prio ≤ x.prio) || (placeGrid s j).isNone) &&
  (List.range s.teams.length).all (fun u =>
    (grid s (team s u).grid).gfx != x.gfx || !servedBefore s (team s u).grid i || !resumeFits s u)

/-- `TEAM_RESUME`: a parked team that fits on its core again, when it is its turn, is read back and goes on; of a co-resident grid, every
parked team with it. -/
def execTeamResume (t : Nat) (s : State) : Res :=
  if !resumeFits s t ∨ !resumeTurn s t ∨ !memoryFree s then .next s
  else .next ((resumeSet s t).foldl resumeTeam s)

end Sys2Proof.Machine
end

