-- ==== Sys2Proof/Machine/Dispatch.lean ====
section
/-! DEFINITION. One meaning for each operation and event of the part. -/

namespace Sys2Proof.Machine

/-- The meaning of one operation or event. -/
def exec (i : Instr) (s : State) : Host.Outcome State Fault Refusal :=
  match i with
  | .sadd f => Sys2Proof.Machine.execSadd f s
  | .saddImm f => Sys2Proof.Machine.execSaddImm f s
  | .ssub f => Sys2Proof.Machine.execSsub f s
  | .ssubImm f => Sys2Proof.Machine.execSsubImm f s
  | .smul f => Sys2Proof.Machine.execSmul f s
  | .smulImm f => Sys2Proof.Machine.execSmulImm f s
  | .smulh f => Sys2Proof.Machine.execSmulh f s
  | .smulhImm f => Sys2Proof.Machine.execSmulhImm f s
  | .sand f => Sys2Proof.Machine.execSand f s
  | .sandImm f => Sys2Proof.Machine.execSandImm f s
  | .sor f => Sys2Proof.Machine.execSor f s
  | .sorImm f => Sys2Proof.Machine.execSorImm f s
  | .sxor f => Sys2Proof.Machine.execSxor f s
  | .sxorImm f => Sys2Proof.Machine.execSxorImm f s
  | .sandn f => Sys2Proof.Machine.execSandn f s
  | .sandnImm f => Sys2Proof.Machine.execSandnImm f s
  | .sshl f => Sys2Proof.Machine.execSshl f s
  | .sshlImm f => Sys2Proof.Machine.execSshlImm f s
  | .sshr f => Sys2Proof.Machine.execSshr f s
  | .sshrImm f => Sys2Proof.Machine.execSshrImm f s
  | .ssra f => Sys2Proof.Machine.execSsra f s
  | .ssraImm f => Sys2Proof.Machine.execSsraImm f s
  | .smin f => Sys2Proof.Machine.execSmin f s
  | .sminImm f => Sys2Proof.Machine.execSminImm f s
  | .smax f => Sys2Proof.Machine.execSmax f s
  | .smaxImm f => Sys2Proof.Machine.execSmaxImm f s
  | .scmp f => Sys2Proof.Machine.execScmp f s
  | .scmpImm f => Sys2Proof.Machine.execScmpImm f s
  | .ssel f => Sys2Proof.Machine.execSsel f s
  | .sselImm f => Sys2Proof.Machine.execSselImm f s
  | .smov f => Sys2Proof.Machine.execSmov f s
  | .sadd64 f => Sys2Proof.Machine.execSadd64 f s
  | .sadd64Imm f => Sys2Proof.Machine.execSadd64Imm f s
  | .ssub64 f => Sys2Proof.Machine.execSsub64 f s
  | .ssub64Imm f => Sys2Proof.Machine.execSsub64Imm f s
  | .sbfe f => Sys2Proof.Machine.execSbfe f s
  | .sbfeImm f => Sys2Proof.Machine.execSbfeImm f s
  | .sbfi f => Sys2Proof.Machine.execSbfi f s
  | .sbfiImm f => Sys2Proof.Machine.execSbfiImm f s
  | .spopc f => Sys2Proof.Machine.execSpopc f s
  | .sclz f => Sys2Proof.Machine.execSclz f s
  | .sffs f => Sys2Proof.Machine.execSffs f s
  | .sli f => Sys2Proof.Machine.execSli f s
  | .sldk f => Sys2Proof.Machine.execSldk f s
  | .srd f => Sys2Proof.Machine.execSrd f s
  | .swr f => Sys2Proof.Machine.execSwr f s
  | .mget f => Sys2Proof.Machine.execMget f s
  | .mset f => Sys2Proof.Machine.execMset f s
  | .mand f => Sys2Proof.Machine.execMand f s
  | .mandn f => Sys2Proof.Machine.execMandn f s
  | .mor f => Sys2Proof.Machine.execMor f s
  | .mxor f => Sys2Proof.Machine.execMxor f s
  | .mcnt f => Sys2Proof.Machine.execMcnt f s
  | .ret f => Sys2Proof.Machine.execRet f s
  | .exit f => Sys2Proof.Machine.execExit f s
  | .nop f => Sys2Proof.Machine.execNop f s
  | .yield f => Sys2Proof.Machine.execYield f s
  | .bkpt f => Sys2Proof.Machine.execBkpt f s
  | .trapret f => Sys2Proof.Machine.execTrapret f s
  | .br f => Sys2Proof.Machine.execBr f s
  | .bz f => Sys2Proof.Machine.execBz f s
  | .bnz f => Sys2Proof.Machine.execBnz f s
  | .bs f => Sys2Proof.Machine.execBs f s
  | .call f => Sys2Proof.Machine.execCall f s
  | .loop f => Sys2Proof.Machine.execLoop f s
  | .lbrk f => Sys2Proof.Machine.execLbrk f s
  | .sleep f => Sys2Proof.Machine.execSleep f s
  | .trap f => Sys2Proof.Machine.execTrap f s
  | .vadd f => Sys2Proof.Machine.execVadd f s
  | .vaddImm f => Sys2Proof.Machine.execVaddImm f s
  | .vsub f => Sys2Proof.Machine.execVsub f s
  | .vsubImm f => Sys2Proof.Machine.execVsubImm f s
  | .vmul f => Sys2Proof.Machine.execVmul f s
  | .vmulImm f => Sys2Proof.Machine.execVmulImm f s
  | .vmulh f => Sys2Proof.Machine.execVmulh f s
  | .vmulhImm f => Sys2Proof.Machine.execVmulhImm f s
  | .vmad f => Sys2Proof.Machine.execVmad f s
  | .vmadImm f => Sys2Proof.Machine.execVmadImm f s
  | .vand f => Sys2Proof.Machine.execVand f s
  | .vandImm f => Sys2Proof.Machine.execVandImm f s
  | .vor f => Sys2Proof.Machine.execVor f s
  | .vorImm f => Sys2Proof.Machine.execVorImm f s
  | .vxor f => Sys2Proof.Machine.execVxor f s
  | .vxorImm f => Sys2Proof.Machine.execVxorImm f s
  | .vandn f => Sys2Proof.Machine.execVandn f s
  | .vandnImm f => Sys2Proof.Machine.execVandnImm f s
  | .vshl f => Sys2Proof.Machine.execVshl f s
  | .vshlImm f => Sys2Proof.Machine.execVshlImm f s
  | .vshr f => Sys2Proof.Machine.execVshr f s
  | .vshrImm f => Sys2Proof.Machine.execVshrImm f s
  | .vsra f => Sys2Proof.Machine.execVsra f s
  | .vsraImm f => Sys2Proof.Machine.execVsraImm f s
  | .vmin f => Sys2Proof.Machine.execVmin f s
  | .vminImm f => Sys2Proof.Machine.execVminImm f s
  | .vmax f => Sys2Proof.Machine.execVmax f s
  | .vmaxImm f => Sys2Proof.Machine.execVmaxImm f s
  | .vcmp f => Sys2Proof.Machine.execVcmp f s
  | .vcmpImm f => Sys2Proof.Machine.execVcmpImm f s
  | .vsel f => Sys2Proof.Machine.execVsel f s
  | .vmov f => Sys2Proof.Machine.execVmov f s
  | .vabs f => Sys2Proof.Machine.execVabs f s
  | .vbfe f => Sys2Proof.Machine.execVbfe f s
  | .vbfi f => Sys2Proof.Machine.execVbfi f s
  | .vpopc f => Sys2Proof.Machine.execVpopc f s
  | .vclz f => Sys2Proof.Machine.execVclz f s
  | .vaddc f => Sys2Proof.Machine.execVaddc f s
  | .vsad f => Sys2Proof.Machine.execVsad f s
  | .vdot4 f => Sys2Proof.Machine.execVdot4 f s
  | .vli f => Sys2Proof.Machine.execVli f s
  | .fadd f => Sys2Proof.Machine.execFadd f s
  | .faddImm f => Sys2Proof.Machine.execFaddImm f s
  | .fsub f => Sys2Proof.Machine.execFsub f s
  | .fsubImm f => Sys2Proof.Machine.execFsubImm f s
  | .fmul f => Sys2Proof.Machine.execFmul f s
  | .fmulImm f => Sys2Proof.Machine.execFmulImm f s
  | .ffma f => Sys2Proof.Machine.execFfma f s
  | .ffmaImm f => Sys2Proof.Machine.execFfmaImm f s
  | .fmin f => Sys2Proof.Machine.execFmin f s
  | .fminImm f => Sys2Proof.Machine.execFminImm f s
  | .fmax f => Sys2Proof.Machine.execFmax f s
  | .fmaxImm f => Sys2Proof.Machine.execFmaxImm f s
  | .fcmp f => Sys2Proof.Machine.execFcmp f s
  | .fcmpImm f => Sys2Proof.Machine.execFcmpImm f s
  | .ffrac f => Sys2Proof.Machine.execFfrac f s
  | .frnd f => Sys2Proof.Machine.execFrnd f s
  | .fclass f => Sys2Proof.Machine.execFclass f s
  | .hfma2 f => Sys2Proof.Machine.execHfma2 f s
  | .hadd2 f => Sys2Proof.Machine.execHadd2 f s
  | .hmul2 f => Sys2Proof.Machine.execHmul2 f s
  | .hdot2 f => Sys2Proof.Machine.execHdot2 f s
  | .dadd f => Sys2Proof.Machine.execDadd f s
  | .dmul f => Sys2Proof.Machine.execDmul f s
  | .dfma f => Sys2Proof.Machine.execDfma f s
  | .dcmp f => Sys2Proof.Machine.execDcmp f s
  | .frcp f => Sys2Proof.Machine.execFrcp f s
  | .frsq f => Sys2Proof.Machine.execFrsq f s
  | .fsqrt f => Sys2Proof.Machine.execFsqrt f s
  | .fdiv f => Sys2Proof.Machine.execFdiv f s
  | .fexp2 f => Sys2Proof.Machine.execFexp2 f s
  | .flog2 f => Sys2Proof.Machine.execFlog2 f s
  | .fsin f => Sys2Proof.Machine.execFsin f s
  | .fcos f => Sys2Proof.Machine.execFcos f s
  | .cvt f => Sys2Proof.Machine.execCvt f s
  | .vperm f => Sys2Proof.Machine.execVperm f s
  | .vshfl f => Sys2Proof.Machine.execVshfl f s
  | .vrdl f => Sys2Proof.Machine.execVrdl f s
  | .vwrl f => Sys2Proof.Machine.execVwrl f s
  | .vred f => Sys2Proof.Machine.execVred f s
  | .vscan f => Sys2Proof.Machine.execVscan f s
  | .tld f => Sys2Proof.Machine.execTld f s
  | .tst f => Sys2Proof.Machine.execTst f s
  | .dld f => Sys2Proof.Machine.execDld f s
  | .dst f => Sys2Proof.Machine.execDst f s
  | .pld f => Sys2Proof.Machine.execPld f s
  | .pst f => Sys2Proof.Machine.execPst f s
  | .atop f => Sys2Proof.Machine.execAtop f s
  | .atcas f => Sys2Proof.Machine.execAtcas f s
  | .atcas128 f => Sys2Proof.Machine.execAtcas128 f s
  | .mcas f => Sys2Proof.Machine.execMcas f s
  | .redb f => Sys2Proof.Machine.execRedb f s
  | .redf f => Sys2Proof.Machine.execRedf f s
  | .waita f => Sys2Proof.Machine.execWaita f s
  | .fence f => Sys2Proof.Machine.execFence f s
  | .tcopy f => Sys2Proof.Machine.execTcopy f s
  | .txform f => Sys2Proof.Machine.execTxform f s
  | .tremote f => Sys2Proof.Machine.execTremote f s
  | .tflush f => Sys2Proof.Machine.execTflush f s
  | .tfill f => Sys2Proof.Machine.execTfill f s
  | .fork f => Sys2Proof.Machine.execFork f s
  | .rdv f => Sys2Proof.Machine.execRdv f s
  | .rast f => Sys2Proof.Machine.execRast f s
  | .trace f => Sys2Proof.Machine.execTrace f s
  | .qfilt f => Sys2Proof.Machine.execQfilt f s
  | .qhash f => Sys2Proof.Machine.execQhash f s
  | .callq f => Sys2Proof.Machine.execCallq f s
  | .tokacq f => Sys2Proof.Machine.execTokacq f s
  | .tokskip f => Sys2Proof.Machine.execTokskip f s
  | .enqr f => Sys2Proof.Machine.execEnqr f s
  | .frel f => Sys2Proof.Machine.execFrel f s
  | .wopen f => Sys2Proof.Machine.execWopen f s
  | .wclose f => Sys2Proof.Machine.execWclose f s
  | .flreg f => Sys2Proof.Machine.execFlreg f s
  | .fldrop f => Sys2Proof.Machine.execFldrop f s
  | .flarr f => Sys2Proof.Machine.execFlarr f s
  | .flwait f => Sys2Proof.Machine.execFlwait f s
  | .fladv f => Sys2Proof.Machine.execFladv f s
  | .binit f => Sys2Proof.Machine.execBinit f s
  | .bxp f => Sys2Proof.Machine.execBxp f s
  | .bwait f => Sys2Proof.Machine.execBwait f s
  | .waitp f => Sys2Proof.Machine.execWaitp f s
  | .pqlaunch f => Sys2Proof.Machine.execPqlaunch f s
  | .mma f => Sys2Proof.Machine.execMma f s
  | .mcb f => Sys2Proof.Machine.execMcb f s
  | .mzero f => Sys2Proof.Machine.execMzero f s
  | .mzld f => Sys2Proof.Machine.execMzld f s
  | .mzst f => Sys2Proof.Machine.execMzst f s
  | .mscal f => Sys2Proof.Machine.execMscal f s
  | .mflsig f => Sys2Proof.Machine.execMflsig f s
  | .mflwait f => Sys2Proof.Machine.execMflwait f s
  | .mloop f => Sys2Proof.Machine.execMloop f s
  | .mend f => Sys2Proof.Machine.execMend f s
  | .mnop f => Sys2Proof.Machine.execMnop f s
  | .unallocatedOpcode word => Sys2Proof.Machine.execUnallocatedOpcode word s
  | .unallocatedStreamWord word => Sys2Proof.Machine.execUnallocatedStreamWord word s
  | .clauseEntry g => Sys2Proof.Machine.execClauseEntry g s
  | .deferredTrap g => Sys2Proof.Machine.execDeferredTrap g s
  | .doubleFault g => Sys2Proof.Machine.execDoubleFault g s
  | .haltedGroupTimeout g => Sys2Proof.Machine.execHaltedGroupTimeout g s
  | .breakpointMatch g => Sys2Proof.Machine.execBreakpointMatch g s
  | .stepTrap g => Sys2Proof.Machine.execStepTrap g s
  | .returnTrap g => Sys2Proof.Machine.execReturnTrap g s
  | .returnSlotResume g => Sys2Proof.Machine.execReturnSlotResume g s
  | .returnTrapTimeout g => Sys2Proof.Machine.execReturnTrapTimeout g s
  | .slotWriteFailure g reg => Sys2Proof.Machine.execSlotWriteFailure g reg s
  | .registerFillDone g reg => Sys2Proof.Machine.execRegisterFillDone g reg s
  | .loadResultLanding op lanes => Sys2Proof.Machine.execLoadResultLanding op lanes s
  | .storePerformed op lanes => Sys2Proof.Machine.execStorePerformed op lanes s
  | .atomicAtHome op lane => Sys2Proof.Machine.execAtomicAtHome op lane s
  | .scFloorPublish core => Sys2Proof.Machine.execScFloorPublish core s
  | .scApplyAtHome op lane => Sys2Proof.Machine.execScApplyAtHome op lane s
  | .crossbarGrant op => Sys2Proof.Machine.execCrossbarGrant op s
  | .peerAccessAtOwner op lane => Sys2Proof.Machine.execPeerAccessAtOwner op lane s
  | .poundAccess addr write data => Sys2Proof.Machine.execPoundAccess addr write data s
  | .mcasAdmission op => Sys2Proof.Machine.execMcasAdmission op s
  | .mcasLockGrant op => Sys2Proof.Machine.execMcasLockGrant op s
  | .mcasResult op => Sys2Proof.Machine.execMcasResult op s
  | .mcasLockTimeout op => Sys2Proof.Machine.execMcasLockTimeout op s
  | .reductionDrain team => Sys2Proof.Machine.execReductionDrain team s
  | .redfRelease g => Sys2Proof.Machine.execRedfRelease g s
  | .fenceComplete g => Sys2Proof.Machine.execFenceComplete g s
  | .flightWaitersReleased flight => Sys2Proof.Machine.execFlightWaitersReleased flight s
  | .earlyArrivalRelease g => Sys2Proof.Machine.execEarlyArrivalRelease g s
  | .bwaitRelease g => Sys2Proof.Machine.execBwaitRelease g s
  | .pathWaitRelease g => Sys2Proof.Machine.execPathWaitRelease g s
  | .sleepExpiry g => Sys2Proof.Machine.execSleepExpiry g s
  | .activeSetEntry core partition => Sys2Proof.Machine.execActiveSetEntry core partition s
  | .pendingStarvation core partition => Sys2Proof.Machine.execPendingStarvation core partition s
  | .towQueueSlot g => Sys2Proof.Machine.execTowQueueSlot g s
  | .towCommandStart cmd => Sys2Proof.Machine.execTowCommandStart cmd s
  | .txformExecution cmd => Sys2Proof.Machine.execTxformExecution cmd s
  | .towCommandComplete cmd => Sys2Proof.Machine.execTowCommandComplete cmd s
  | .forkServed g => Sys2Proof.Machine.execForkServed g s
  | .rdvRelease g => Sys2Proof.Machine.execRdvRelease g s
  | .mmaPinRelease run => Sys2Proof.Machine.execMmaPinRelease run s
  | .mmaTileWrite run => Sys2Proof.Machine.execMmaTileWrite run s
  | .groupEnd g => Sys2Proof.Machine.execGroupEnd g s
  | .teamRetirement team => Sys2Proof.Machine.execTeamRetirement team s
  | .teamPlacement grid => Sys2Proof.Machine.execTeamPlacement grid s
  | .preemptionStart grid => Sys2Proof.Machine.execPreemptionStart grid s
  | .preemptionSave team => Sys2Proof.Machine.execPreemptionSave team s
  | .teamResume team => Sys2Proof.Machine.execTeamResume team s
  | .traceAdmission trace => Sys2Proof.Machine.execTraceAdmission trace s
  | .returnSlotsGranted g => Sys2Proof.Machine.execReturnSlotsGranted g s
  | .bargeArrival barge => Sys2Proof.Machine.execBargeArrival barge s
  | .traversalTurn stack treelet => Sys2Proof.Machine.execTraversalTurn stack treelet s
  | .topStep barge => Sys2Proof.Machine.execTopStep barge s
  | .anyHitGroupStart stack => Sys2Proof.Machine.execAnyHitGroupStart stack s
  | .anyHitDecision g => Sys2Proof.Machine.execAnyHitDecision g s
  | .anyHitBudgetExceeded g => Sys2Proof.Machine.execAnyHitBudgetExceeded g s
  | .hitRecordLanding barge => Sys2Proof.Machine.execHitRecordLanding barge s
  | .qfiltRecord op lane => Sys2Proof.Machine.execQfiltRecord op lane s
  | .qhashRecord op lane => Sys2Proof.Machine.execQhashRecord op lane s
  | .pqlaunchComplete cmd => Sys2Proof.Machine.execPqlaunchComplete cmd s
  | .calledQueueRoom g => Sys2Proof.Machine.execCalledQueueRoom g s
  | .calledRecordApply batch => Sys2Proof.Machine.execCalledRecordApply batch s
  | .batchHeld batch => Sys2Proof.Machine.execBatchHeld batch s
  | .tessellatorRecord batch => Sys2Proof.Machine.execTessellatorRecord batch s
  | .returnRecordLanding batch => Sys2Proof.Machine.execReturnRecordLanding batch s
  | .tokacqPerformed op => Sys2Proof.Machine.execTokacqPerformed op s
  | .tokenMatchEntry op => Sys2Proof.Machine.execTokenMatchEntry op s
  | .matchTableRoom g => Sys2Proof.Machine.execMatchTableRoom g s
  | .commandLaunch queue index => Sys2Proof.Machine.execCommandLaunch queue index s
  | .commandGraph queue index => Sys2Proof.Machine.execCommandGraph queue index s
  | .commandWait queue index => Sys2Proof.Machine.execCommandWait queue index s
  | .commandSignal queue index => Sys2Proof.Machine.execCommandSignal queue index s
  | .commandReach queue index => Sys2Proof.Machine.execCommandReach queue index s
  | .commandRung queue index => Sys2Proof.Machine.execCommandRung queue index s
  | .commandRelease queue index => Sys2Proof.Machine.execCommandRelease queue index s
  | .commandReserved queue index => Sys2Proof.Machine.execCommandReserved queue index s
  | .grantWaitEnd grid => Sys2Proof.Machine.execGrantWaitEnd grid s
  | .reachBalancerStep die => Sys2Proof.Machine.execReachBalancerStep die s
  | .reachCoreMove die => Sys2Proof.Machine.execReachCoreMove die s
  | .reachPreemptTimeout die => Sys2Proof.Machine.execReachPreemptTimeout die s
  | .deadlineProjection grid => Sys2Proof.Machine.execDeadlineProjection grid s
  | .doorbell queue data => Sys2Proof.Machine.execDoorbell queue data s
  | .queueEnable queue => Sys2Proof.Machine.execQueueEnable queue s
  | .queueDisable queue => Sys2Proof.Machine.execQueueDisable queue s
  | .hostBar2Access offset size write data => Sys2Proof.Machine.execHostBar2Access offset size write data s
  | .registerWrite offset size data => Sys2Proof.Machine.execRegisterWrite offset size data s
  | .dutyModeWrite data => Sys2Proof.Machine.execDutyModeWrite data s
  | .reachLimitWrite die data => Sys2Proof.Machine.execReachLimitWrite die data s
  | .displayBlockWrite output offset data => Sys2Proof.Machine.execDisplayBlockWrite output offset data s
  | .timeFreqWrite data => Sys2Proof.Machine.execTimeFreqWrite data s
  | .timeOffsetWrite data => Sys2Proof.Machine.execTimeOffsetWrite data s
  | .logctlWrite data => Sys2Proof.Machine.execLogctlWrite data s
  | .loglostRead => Sys2Proof.Machine.execLoglostRead s
  | .faultreplyRetry seq => Sys2Proof.Machine.execFaultreplyRetry seq s
  | .faultreplyFail seq => Sys2Proof.Machine.execFaultreplyFail seq s
  | .heldFaultTimeout seq => Sys2Proof.Machine.execHeldFaultTimeout seq s
  | .configChangeReload => Sys2Proof.Machine.execConfigChangeReload s
  | .attestationStart => Sys2Proof.Machine.execAttestationStart s
  | .restoreAppend => Sys2Proof.Machine.execRestoreAppend s
  | .restoreCommit => Sys2Proof.Machine.execRestoreCommit s
  | .restoreDiscard => Sys2Proof.Machine.execRestoreDiscard s
  | .retrainWordWrite data => Sys2Proof.Machine.execRetrainWordWrite data s
  | .debugHoldWrite data => Sys2Proof.Machine.execDebugHoldWrite data s
  | .debugMailboxReload => Sys2Proof.Machine.execDebugMailboxReload s
  | .camtosWriteCommand port index => Sys2Proof.Machine.execCamtosWriteCommand port index s
  | .camtosAddCommand port index => Sys2Proof.Machine.execCamtosAddCommand port index s
  | .camtosReservedOp port index => Sys2Proof.Machine.execCamtosReservedOp port index s
  | .camtosBodyFlit port index => Sys2Proof.Machine.execCamtosBodyFlit port index s
  | .camtosResponse port index => Sys2Proof.Machine.execCamtosResponse port index s
  | .linkAck port seq => Sys2Proof.Machine.execLinkAck port seq s
  | .linkNak port seq => Sys2Proof.Machine.execLinkNak port seq s
  | .linkCreditUpdate port vc credits => Sys2Proof.Machine.execLinkCreditUpdate port vc credits s
  | .flitCrcFail port => Sys2Proof.Machine.execFlitCrcFail port s
  | .linkControlPeriodic port => Sys2Proof.Machine.execLinkControlPeriodic port s
  | .replayTimeout port => Sys2Proof.Machine.execReplayTimeout port s
  | .portRetrain port ok => Sys2Proof.Machine.execPortRetrain port ok s
  | .hostRetrainTimeout port => Sys2Proof.Machine.execHostRetrainTimeout port s
  | .ptpEventMessage message sequence seconds nanos => Sys2Proof.Machine.execPtpEventMessage message sequence seconds nanos s
  | .ptpLockChange locked => Sys2Proof.Machine.execPtpLockChange locked s
  | .frameStart output => Sys2Proof.Machine.execFrameStart output s
  | .frameBufferRetire output => Sys2Proof.Machine.execFrameBufferRetire output s
  | .displayPendingRoom g => Sys2Proof.Machine.execDisplayPendingRoom g s
  | .powerOnBringup => Sys2Proof.Machine.execPowerOnBringup s
  | .powerLimitThrottle watts => Sys2Proof.Machine.execPowerLimitThrottle watts s
  | .inletClockStep celsius => Sys2Proof.Machine.execInletClockStep celsius s
  | .patrolScrub unit => Sys2Proof.Machine.execPatrolScrub unit s
  | .scratchpadScrub unit line => Sys2Proof.Machine.execScratchpadScrub unit line s
  | .dramCalibration channel ok => Sys2Proof.Machine.execDramCalibration channel ok s
  | .serdesCalibration port ok => Sys2Proof.Machine.execSerdesCalibration port ok s
  | .rowActivityMitigation stack channel => Sys2Proof.Machine.execRowActivityMitigation stack channel s
  | .agingMonitor unit => Sys2Proof.Machine.execAgingMonitor unit s
  | .moduleReset => Sys2Proof.Machine.execModuleReset s
  | .codeObjectLoad ctx base size text textEnd mstream mstreamEnd => Sys2Proof.Machine.execCodeObjectLoad ctx base size text textEnd mstream mstreamEnd s
  | .codeObjectUnload code => Sys2Proof.Machine.execCodeObjectUnload code s
  | .camtosPortConnect port => Sys2Proof.Machine.execCamtosPortConnect port s

end Sys2Proof.Machine
end

