-- ==== Sys2Proof/Machine/Turns.lean ====
section
/-!
DEFINITION. The small operations a step is made of: whose turn it is, the members of a pair, the passing of time, and the placement of
a one-instruction program.
-/
namespace Sys2Proof.Machine

/-- Group `g` acts. -/
def actAs (s : State) (g : Nat) : State := { s with cur := g }
/-- The sequencer of core `c` acts. -/
def actAsCore (s : State) (c : Nat) : State := { s with curCore := c }
/-- The turns that are left. -/
def setAgenda (s : State) (l : List Turn) : State := { s with agenda := l }

/-- The first member of a pair issues (R152).
DEDUCED: notes/assumptions/117.md. -/
def pairFirst (s : State) (g : Nat) : State := modGrp s g (fun x => { x with pairing := .first, pairFlags := 0 })
/-- The second member of a pair issues (R152). -/
def pairSecond (s : State) (g : Nat) : State := modGrp s g (fun x => { x with pairing := .second })
/-- Both members of a pair have issued. -/
def pairDone (s : State) (g : Nat) : State := finishPair s g

/-- What group `g` does next in its turn: nothing, where its partition picks another group. -/
def pickedUp (s : State) (g : Nat) : NextUp := if mayTurn s g then nextUp s g else .act s

/-- What a matrix sequencer does next. -/
inductive NextWord where
  | act (s : State)
  | word (s : State) (i : Instr)
deriving Repr

/-- The next word of the stream of core `c`: of the run its sequencer holds, while it can act; a word that cannot be fetched halts the
run, once its tile updates are done (R275, R291, R440). -/
def nextStream (s : State) (c : Nat) : NextWord :=
  match runOn s c with
  | none => .act s
  | some r =>
    if (actingRun s).isNone then .act s
    else match streamFetch s r with
      | (s1, .error e) => .act (if (runAt s r).writes.isEmpty then haltRun s1 r (.code e) else s)
      | (s1, .ok w) => .word s1 (streamInstr w)

/-- Units of 2^-32 ns that the hardware clock advances while its oscillator counts `ns`: under the frequency adjustment, and 1,000 ppm
slow while a backward offset is absorbed; with what is left of that offset (R371). -/
def clockRate (s : State) (ns : Nat) : Nat × Nat :=
  let run : Nat := (ns * (2 ^ 32 + s.bar.freq)).toNat
  let slow := min s.bar.debt (min run (ns * 2 ^ 32 / 1000))
  (run - slow, s.bar.debt - slow)

/-- Time passes: arithmetic clocks, and nanoseconds of the hardware clock's oscillator (R57, R370, R371). Porman finishes a report,
or a commit, that is under way (R406, R407), and what was ready and did not issue in the clock that ends is noted (R355).
DEDUCED: notes/assumptions/107.md. -/
def passClocks (s : State) (n ns : Nat) : State :=
  let (run, debt) := clockRate s ns
  let t := s.ptpNs.toNat * 2 ^ 32 + s.ptpFrac + run
  let s1 := if n = 0 then s else noteIdle s
  finishCommit (finishReport
    { s1 with clock := s.clock + n, ptpNs := BitVec.ofNat 64 (t / 2 ^ 32), ptpFrac := t % 2 ^ 32, bar := { s.bar with debt } })

/-- Virtual address of the placed program's one clause. -/
def placedBase : Nat := 0x10000

/-- The group of a placed program: every lane of 32 live, every register its own, in the middle of a clause of one instruction. -/
def placedGroup (t w : Nat) : Group :=
  { team := t, launched := 32, budget := 256, pc := mkPc placedBase 0, exec := widthMask 32, live := widthMask 32,
    clause := some { cls := 0, count := 1, wpath := 7, wthresh := 0, pair := 0, yield := false }, words := [some (BitVec.ofNat 64 w)] }

/-- The header of a placed program. -/
def placedHeader : Header :=
  { vregs := 256, sregs := 256, teamScratch := 4096, roles := [{ lanes := 32, budget := 256 }] }

/-- Place a program of one instruction with the word `w`: a code object, a grid of one team of one group of 32 lanes on core 0, and
the word in the object's memory.
DESIGN CHOICE: notes/assumptions/3.md. -/
def placeProgram (s : State) (w : Nat) : State :=
  { s with
    agenda := [],
    cur := s.groups.length,
    groups := s.groups ++ [placedGroup s.teams.length w],
    teams := s.teams ++ [{ grid := s.grids.length, ngroups := 1, entry := placedBase, hdr := placedHeader, allocSize := 4096 }],
    grids := s.grids ++ [{ entry := placedBase, code := s.codes.length, hdr := placedHeader, privileged := true, phase := .running, placed := 1 }],
    codes := s.codes ++ [{ base := placedBase, pages := [some 0], text := (placedBase, placedBase + 16) }],
    mem := writeLE s.mem 8 8 w }

end Sys2Proof.Machine
end

