-- ==== Sys2Proof/Machine/Step.lean ====
section
/-!
DEFINITION. One step of the module: the next turn of the agenda, or, when the agenda is empty, a step of the group that acts.
-/
namespace Sys2Proof.Machine

/-- Group `g` takes its next step: what is due at its instruction boundary, or its next instruction, or the two members of a pair,
which issue together (R21, R152, R422). An instruction issues when the group's partition picks it (R355). -/
def groupTurn (s : State) (g : Nat) : Host.Outcome State Fault Refusal :=
  match pickedUp (actAs s g) g with
  | .act t => .next t
  | .one i => exec i (actAs s g)
  | .two i j => match exec i (pairFirst (actAs s g) g) with
    | .next t => match exec j (pairSecond t g) with
      | .next u => .next (pairDone u g)
      | r => r
    | r => r

/-- The matrix sequencer of core `c` takes its next word (R154, R275). -/
def streamTurn (s : State) (c : Nat) : Host.Outcome State Fault Refusal :=
  match nextStream (actAsCore s c) c with
  | .act t => .next t
  | .word t i => exec i t

/-- One step.
DESIGN CHOICE: notes/assumptions/1.md. -/
def step (s : State) : Host.Outcome State Fault Refusal :=
  match s.agenda with
  | [] => groupTurn s s.cur
  | .group g :: rest => groupTurn (setAgenda s rest) g
  | .stream c :: rest => streamTurn (setAgenda s rest) c
  | .event i :: rest => if i.isGroup ∨ i.isStream then .fault .noSuchTurn else exec i (setAgenda s rest)
  | .clocks n ns :: rest => .next (passClocks (setAgenda s rest) n ns)
  | .upset a b :: rest => .next (setBad (setAgenda s rest) a b)
  | .flit port f :: rest => .next (flitArrives (setAgenda s rest) port f)
  | .barRead off n :: rest => .next (barRead (setAgenda s rest) off n)
  | .hostStore a n data :: rest => .next (hostStore (setAgenda s rest) a n data)
  | .rebuild a :: rest => .next (busyRebuild (setAgenda s rest) a)

/-- The state with an instruction placed where the next step fetches it: the load of a one-instruction program and the placement of
its team, in the middle of its one clause (notes/assumptions/3.md). -/
def State.withFetchWord (s : State) (_nbits w : Nat) : State := placeProgram s w

end Sys2Proof.Machine
end

