-- ==== Sys2Proof/Safety.lean ====
section
/-!
DEFINITION. What the claims take for a good state, for an instruction that can issue, and for what an instruction leaves alone.
-/
namespace Sys2Proof.Machine

/-- Memory in its canonical form: addresses strictly rising, and no listed byte equal to what an unlisted one reads as. -/
def Memory.wf (m : List Host.Cell) : Bool := mapWf 0 m

/-- A step that goes on. -/
def goesOn (s : State) : Prop := ∃ t, step s = .next t

/-! ## What issues (R49, R51, R55, R149, R422) -/

/-- Nothing stands in the way of an instruction with the operands `sg` of the acting group: the group can issue, its fields are legal, no
outstanding operation or pin holds its registers, the path counter it raises has room, its registers are mapped, and its destinations
find physical registers. `quay` says whether a quay core executes it. -/
def issuesWith (path : Option Nat) (quay : Bool) (sg : Sig) (s : State) : Bool :=
  canIssue s s.cur && (!isQuayCore (coreOf s s.cur) || quay) && decide (readiness s s.cur path sg = .go) &&
    physRoom s s.cur (freshDests s s.cur sg)

/-- The acting group issues instruction `i`. -/
def issues (path : Option Nat) (quay : Bool) (i : Instr) (s : State) : Bool :=
  match sigOf (widthOf s s.cur) i with
  | some sg => issuesWith path quay sg s
  | none => false

/-! ## What stays -/

/-- The registers of a group, but for its pc and its loop registers. -/
structure Registers where
  sregs : List (Nat × Word)
  vregs : List (Nat × Word)
  exec : DWord
  live : DWord
  fpctl : Word
  fpflags : Word
  trapen : Word
  trapbase : DWord
  trapcause : Word
  trappc : DWord
  trapexec : DWord
  faultaddr : DWord
  spill : DWord
  intrap : Bool
  halted : Bool
  counters : Counters
deriving DecidableEq, Repr

/-- The registers of a group. -/
def registers (x : Group) : Registers :=
  { sregs := x.sregs, vregs := x.vregs, exec := x.exec, live := x.live, fpctl := x.fpctl, fpflags := x.fpflags, trapen := x.trapen,
    trapbase := x.trapbase, trapcause := x.trapcause, trappc := x.trappc, trapexec := x.trapexec, faultaddr := x.faultaddr,
    spill := x.spill, intrap := x.intrap, halted := x.halted, counters := x.counters }

/-- Of the module only the groups' own records and the count of issues differ: memory, full/empty bits, tiles, operations in flight,
engines, links, logs and every register outside the groups are the same. -/
def onlyGroups (s t : State) : Prop := t = { s with groups := t.groups, seq := t.seq }

/-- Every byte of memory reads as before. -/
def sameMemory (s t : State) : Prop := ∀ a, byteAt t.mem a = byteAt s.mem a

/-- Every other group keeps its registers. -/
def othersKept (s t : State) : Prop := ∀ h, h ≠ s.cur → registers (grp t h) = registers (grp s h)

/-- The pc moves to the next instruction of the clause, and the loop registers stay, where the instruction is not its clause's last. -/
def movesOn (s t : State) : Prop :=
  pcIndex (me s).pc + 1 < (clauseOf (me s)).count →
    (grp t s.cur).pc = mkPc (pcHeader (me s).pc) (pcIndex (me s).pc + 1) ∧ (grp t s.cur).lc0 = (me s).lc0 ∧
      (grp t s.cur).lc1 = (me s).lc1 ∧ (grp t s.cur).lc2 = (me s).lc2 ∧ (grp t s.cur).lc3 = (me s).lc3

/-- An instruction changed nothing but registers of its own group: those outside the group, memory and every other group are as before,
and the pc moves on. -/
def groupOnly (s t : State) : Prop := onlyGroups s t ∧ sameMemory s t ∧ othersKept s t ∧ movesOn s t

/-- No register of the acting group changes but the uniform registers of a list. -/
def uniformFrame (s t : State) (ws : List Nat) : Prop :=
  groupOnly s t ∧ (∀ n, n ∉ ws → sreg (grp t s.cur) n = sreg (me s) n) ∧
    registers (grp t s.cur) = { registers (me s) with sregs := (grp t s.cur).sregs }

/-- The registers a list of writes names hold their values, and no other register changed. -/
def wrote (s t : State) (ws : List (Nat × Word)) : Prop :=
  (∀ w ∈ ws, sreg (grp t s.cur) w.1 = w.2) ∧ uniformFrame s t (ws.map (·.1))

/-- No register of the acting group changes but active lanes of the vector registers of a list, and the sticky flags, which take in the
set `met`. A register whose fill failed (R415) and that is written is whole again. -/
def vectorFrame (s t : State) (ws : List Nat) (met : Nat) : Prop :=
  groupOnly s t ∧
    (∀ n l, l < 64 → (n ∉ ws ∨ laneIn (activeMask s s.cur) l = false ∧ backed (me s) n = false) →
      vlane (grp t s.cur) n l = vlane (me s) n l) ∧
    registers (grp t s.cur) =
      { registers (me s) with vregs := (grp t s.cur).vregs, fpflags := (me s).fpflags ||| BitVec.ofNat 32 met }

/-- The active lanes of `cnt` registers from n hold a value, its low word in the lowest register; nothing else changed. -/
def lanesWrote (s t : State) (n cnt : Nat) (v : Nat → Nat) (met : Nat) : Prop :=
  (∀ l, l < 64 → laneIn (activeMask s s.cur) l = true → ∀ k, k < cnt →
    vlane (grp t s.cur) (n + k) l = BitVec.ofNat 32 (v l / 2 ^ (32 * k))) ∧
    vectorFrame s t ((List.range cnt).map (n + ·)) met

end Sys2Proof.Machine
end

