-- ==== Sys2Proof/Certificates/Slice0/Obligations.lean ====
section
/-!
DEFINITION. The statements of this row: what the rules of spec/ say that instructions and the machine do. The tables and predicates the
statements share stand in `Sys2Proof.Claims`.
-/
namespace Sys2Proof.Claims
open Sys2Proof.Machine

/-! ## Uniform instructions (chapter 09) -/

/-- An instruction of the acting group that only writes uniform registers: when it does, and the registers with their values. -/
structure UniformRow (α : Type) where
  instr : α → Instr
  holds : α → State → Bool := fun _ _ => true
  writes : α → State → List (Nat × Word)

/-- One register. -/
def one (d : Byte) (v : Word) : List (Nat × Word) := [(d.toNat, v)]
/-- An even pair, the low word in the register named (R52). -/
def two (d : Byte) (v : DWord) : List (Nat × Word) := [(d.toNat, v.extractLsb' 0 32), (d.toNat + 1, v.extractLsb' 32 32)]
/-- A register, or a pair, by the number of registers that a type code takes. -/
def byType (t : Nat) (d : Byte) (w : Word) (v : DWord) : List (Nat × Word) := if typeRegs t = 2 then two d v else one d w

/-- Sources of a uniform instruction of format T as words and as pairs. -/
def uA (f : FmtT) (s : State) : Word := uniWord (me s) f.ka f.a
def uB (f : FmtT) (s : State) : Word := uniWord (me s) f.kb f.b
def uC (f : FmtT) (s : State) : Word := uniWord (me s) f.kc f.c
def pA (f : FmtT) (s : State) : DWord := uniPair (me s) f.ka f.a
def pB (f : FmtT) (s : State) : DWord := uniPair (me s) f.kb f.b
/-- Source of a uniform instruction of format I. -/
def iA (f : FmtI) (s : State) : Word := uniWord (me s) f.ka f.a

/-- An operand as the type of op[3:0] reads it. -/
def tA (f : FmtT) (s : State) : Int := typed (f.op.toNat % 16) (uA f s).toNat
def tB (f : FmtT) (s : State) : Int := typed (f.op.toNat % 16) (uB f s).toNat
def tI (f : FmtI) (s : State) : Int := typed f.op.toNat (iA f s).toNat
def tImm (f : FmtI) : Int := typed f.op.toNat f.imm.toNat

/-- Arithmetic, selection, bit fields and counts of format T (Tables 9-3 and 9-4, R180 to R183). -/
def arithT : List (UniformRow FmtT) :=
  [ { instr := .sadd, writes := fun f s => one f.d (uA f s + uB f s) },
    { instr := .ssub, writes := fun f s => one f.d (uA f s - uB f s) },
    { instr := .smul, writes := fun f s => one f.d (uA f s * uB f s) },
    { instr := .smulh, writes := fun f s => one f.d (mulhWord (f.op.toNat % 16) (uA f s) (uB f s)) },
    { instr := .sand, writes := fun f s => one f.d (uA f s &&& uB f s) },
    { instr := .sor, writes := fun f s => one f.d (uA f s ||| uB f s) },
    { instr := .sxor, writes := fun f s => one f.d (uA f s ^^^ uB f s) },
    { instr := .sandn, writes := fun f s => one f.d (uA f s &&& ~~~ uB f s) },
    { instr := .sshl, writes := fun f s => one f.d (uA f s <<< (uB f s).toNat) },
    { instr := .sshr, writes := fun f s => one f.d (uA f s >>> (uB f s).toNat) },
    { instr := .ssra, writes := fun f s => one f.d ((uA f s).sshiftRight (uB f s).toNat) },
    { instr := .smin, writes := fun f s => one f.d (if tA f s ≤ tB f s then uA f s else uB f s) },
    { instr := .smax, writes := fun f s => one f.d (if tB f s ≤ tA f s then uA f s else uB f s) },
    { instr := .scmp
      writes := fun f s => one f.d (if intCond (f.op.toNat / 16)
          (if typeRegs (f.op.toNat % 16) = 2 then typed (f.op.toNat % 16) (pA f s).toNat else tA f s)
          (if typeRegs (f.op.toNat % 16) = 2 then typed (f.op.toNat % 16) (pB f s).toNat else tB f s) then 1 else 0) },
    { instr := .ssel, writes := fun f s => one f.d (if uC f s = 0 then uB f s else uA f s) },
    { instr := .smov, writes := fun f s => byType f.op.toNat f.d (uA f s) (pA f s) },
    { instr := .sadd64, writes := fun f s => two f.d (pA f s + pB f s) },
    { instr := .ssub64, writes := fun f s => two f.d (pA f s - pB f s) },
    { instr := .sbfe, writes := fun f s => one f.d (bfeWord (f.op == 0) (uA f s) (uB f s)) },
    { instr := .sbfi, writes := fun f s => one f.d (bfiWord (sreg (me s) f.d.toNat) (uA f s) (uB f s)) },
    { instr := .spopc
      writes := fun f s => one f.d (BitVec.ofNat 32
        (if typeRegs f.op.toNat = 2 then popCount (pA f s).toNat 64 else popCount (uA f s).toNat 32)) },
    { instr := .sclz
      writes := fun f s => one f.d (BitVec.ofNat 32
        (if typeRegs f.op.toNat = 2 then leadingZeros (pA f s).toNat 64 else leadingZeros (uA f s).toNat 32)) },
    { instr := .sffs
      writes := fun f s => one f.d (match if typeRegs f.op.toNat = 2 then lowestBit (pA f s).toNat 64 else lowestBit (uA f s).toNat 32 with
        | some i => BitVec.ofNat 32 i
        | none => 0xFFFFFFFF) } ]

/-- Their immediate forms, the immediate in the place of b, and the instructions that read constants and system registers (R179 to
R186). -/
def arithI : List (UniformRow FmtI) :=
  [ { instr := .saddImm, writes := fun f s => one f.d (iA f s + f.imm) },
    { instr := .ssubImm, writes := fun f s => one f.d (iA f s - f.imm) },
    { instr := .smulImm, writes := fun f s => one f.d (iA f s * f.imm) },
    { instr := .smulhImm, writes := fun f s => one f.d (mulhWord f.op.toNat (iA f s) f.imm) },
    { instr := .sandImm, writes := fun f s => one f.d (iA f s &&& f.imm) },
    { instr := .sorImm, writes := fun f s => one f.d (iA f s ||| f.imm) },
    { instr := .sxorImm, writes := fun f s => one f.d (iA f s ^^^ f.imm) },
    { instr := .sandnImm, writes := fun f s => one f.d (iA f s &&& ~~~ f.imm) },
    { instr := .sshlImm, writes := fun f s => one f.d (iA f s <<< f.imm.toNat) },
    { instr := .sshrImm, writes := fun f s => one f.d (iA f s >>> f.imm.toNat) },
    { instr := .ssraImm, writes := fun f s => one f.d ((iA f s).sshiftRight f.imm.toNat) },
    { instr := .sminImm, writes := fun f s => one f.d (if tI f s ≤ tImm f then iA f s else f.imm) },
    { instr := .smaxImm, writes := fun f s => one f.d (if tImm f ≤ tI f s then iA f s else f.imm) },
    { instr := .scmpImm
      writes := fun f s => one f.d (if intCond (immCond f.op.toNat).1 (typed (immCond f.op.toNat).2 (iA f s).toNat)
        (typed (immCond f.op.toNat).2 f.imm.toNat) then 1 else 0) },
    { instr := .sselImm, writes := fun f s => one f.d (if sreg (me s) f.d.toNat = 0 then f.imm else iA f s) },
    { instr := .sadd64Imm, writes := fun f s => two f.d (uniPair (me s) f.ka f.a + f.imm.signExtend 64) },
    { instr := .ssub64Imm, writes := fun f s => two f.d (uniPair (me s) f.ka f.a - f.imm.signExtend 64) },
    { instr := .sbfeImm, writes := fun f s => one f.d (bfeWord (f.op == 0) (iA f s) f.imm) },
    { instr := .sbfiImm, writes := fun f s => one f.d (bfiWord (sreg (me s) f.d.toNat) (iA f s) f.imm) },
    { instr := .sli
      writes := fun f _ => if f.op = 2 then two f.d (f.imm.signExtend 64)
        else if f.op = 3 then two f.d (f.imm.zeroExtend 64) else one f.d f.imm },
    { instr := .sldk
      holds := fun f s =>
        let z : Int := if f.op = 2 then 8 else 4
        let o : Int := (iA f s).toNat + f.imm.toInt
        decide (0 ≤ o) && decide (o % z = 0) && decide (o + z ≤ (gridOf s s.cur).args.length)
      writes := fun f s =>
        let o := ((iA f s).toNat + f.imm.toInt).toNat
        let args := (gridOf s s.cur).args
        if f.op = 2 then two f.d (BitVec.ofNat 64 (bytesLE ((args.drop o).take 8)))
        else one f.d (BitVec.ofNat 32 (bytesLE ((args.drop o).take 4))) },
    { instr := .srd
      holds := fun f s => (sysRead s s.cur f.imm.toNat).isSome
      writes := fun f s =>
        let v := (sysRead s s.cur f.imm.toNat).getD 0
        if sysRegs f.imm.toNat = 2 then two f.d (BitVec.ofNat 64 v) else one f.d (BitVec.ofNat 32 v) } ]

/-- First source of a mask instruction, cut to the group's width: exec when op[1] is 1 (Table 9-5). -/
def mA (f : FmtT) (s : State) : DWord :=
  (if f.op.getLsbD 1 then (me s).exec else uniPair (me s) f.ka f.a) &&& widthMask (widthOf s s.cur)
def mB (f : FmtT) (s : State) : DWord := uniPair (me s) f.kb f.b &&& widthMask (widthOf s s.cur)
/-- The result of a two-source mask instruction, cut to the group's width. -/
def maskResult (op : DWord → DWord → DWord) (f : FmtT) (s : State) : DWord := op (mA f s) (mB f s) &&& widthMask (widthOf s s.cur)

/-- Mask instructions that write uniform registers: `mget`, `mcnt`, and the two-source ones with op[0] 1 (R187). -/
def maskPairs : List (UniformRow FmtT) :=
  [ { instr := .mget, writes := fun f s => two f.d ((me s).exec &&& widthMask (widthOf s s.cur)) },
    { instr := .mcnt, writes := fun f s => one f.d (BitVec.ofNat 32 (popCount (mA f s).toNat 64)) },
    { instr := .mand, holds := fun f _ => f.op.getLsbD 0, writes := fun f s => two f.d (maskResult (· &&& ·) f s) },
    { instr := .mandn, holds := fun f _ => f.op.getLsbD 0, writes := fun f s => two f.d (maskResult (fun x y => x &&& ~~~ y) f s) },
    { instr := .mor, holds := fun f _ => f.op.getLsbD 0, writes := fun f s => two f.d (maskResult (· ||| ·) f s) },
    { instr := .mxor, holds := fun f _ => f.op.getLsbD 0, writes := fun f s => two f.d (maskResult (· ^^^ ·) f s) } ]

/-- Mask instructions that write exec: the value before the live mask cuts it (R187, R28). -/
def maskExecs : List ((FmtT → Instr) × (FmtT → State → Bool) × (FmtT → State → DWord)) :=
  [ (.mset, fun _ _ => true, fun f s => uniPair (me s) f.ka f.a &&& widthMask (widthOf s s.cur)),
    (.mand, fun f _ => !f.op.getLsbD 0, maskResult (· &&& ·)),
    (.mandn, fun f _ => !f.op.getLsbD 0, maskResult (fun x y => x &&& ~~~ y)),
    (.mor, fun f _ => !f.op.getLsbD 0, maskResult (· ||| ·)),
    (.mxor, fun f _ => !f.op.getLsbD 0, maskResult (· ^^^ ·)) ]

/-! ## System registers (R57, R58, R186) -/

/-- What `swr` leaves in the registers: `%fpctl` keeps its rounding mode when the new one is 5 to 7, reserved bits stay zero,
`%trapexec` is cut to the group's lanes, and a write to a read-only register is discarded. -/
def systemWritten (n : Nat) (wm v : DWord) (r : Registers) : Registers :=
  let lo : Word := v.extractLsb' 0 32
  if n = 0x18 then { r with fpctl := if 5 ≤ lo.toNat % 8 then (lo &&& 0x38) ||| (r.fpctl &&& 7) else lo &&& 0x3F }
  else if n = 0x19 then { r with fpflags := lo &&& 0x3F }
  else if n = 0x1B then { r with trapbase := v }
  else if n = 0x1D then { r with trappc := v }
  else if n = 0x1E then { r with trapexec := v &&& wm }
  else r

/-- The value `swr` writes: a pair for a 64-bit register, else a word. -/
def systemValue (f : FmtI) (s : State) : DWord :=
  if sysRegs f.imm.toNat = 2 then uniPair (me s) f.ka f.a else (iA f s).zeroExtend 64

/-! ## Control flow (R189 to R202) -/

/-- The address of the instruction under issue. -/
def here (s : State) : DWord := BitVec.ofNat 64 (pcHeader (me s).pc + 8 + 8 * pcIndex (me s).pc)
/-- The address after the clause under issue. -/
def after (s : State) : Nat := pcHeader (me s).pc + 8 + 8 * (clauseOf (me s)).count
/-- A branch target that is a PC value of index 0 on an 8-byte boundary (R142, R189). -/
def goodTarget (a : DWord) : Bool := decide (a.toNat < 2 ^ 57) && decide (a.toNat % 8 = 0)

/-- Control has moved: the pc holds `pc`, the clause there is still to be entered, and nothing else changed but the registers given. -/
def movedTo (s t : State) (pc : DWord) (r : Registers) : Prop :=
  onlyGroups s t ∧ sameMemory s t ∧ othersKept s t ∧ (grp t s.cur).pc = pc ∧ (grp t s.cur).clause = none ∧ registers (grp t s.cur) = r

/-- The branches: whether each is taken, and its target (R189). -/
def branches : List ((FmtI → Instr) × (FmtI → State → Bool) × (FmtI → State → DWord)) :=
  [ (.br, fun _ _ => true, fun f s => (if f.op = 1 then spair (me s) f.a.toNat else here s) + f.imm.signExtend 64),
    (.bz, fun _ s => activeMask s s.cur == 0, fun f s => here s + f.imm.signExtend 64),
    (.bnz, fun _ s => activeMask s s.cur != 0, fun f s => here s + f.imm.signExtend 64),
    (.bs, fun f s => if f.op = 1 then iA f s == 0 else iA f s != 0, fun f s => here s + f.imm.signExtend 64) ]

/-- Target of a `call`. -/
def callTarget (f : FmtI) (s : State) : DWord := (if f.op = 1 then spair (me s) f.d.toNat else here s) + f.imm.signExtend 64
/-- End clause of a `loop`. -/
def loopEndOf (f : FmtI) (s : State) : Int := (here s).toNat + f.imm.toInt

/-- The condition under which `lbrk` closes the innermost live loop (R195). -/
def breaks (f : FmtI) (s : State) : Bool :=
  if f.op = 0 then true else if f.op = 1 then activeMask s s.cur == 0 else if f.op = 2 then iA f s != 0 else iA f s == 0

/-! ## Traps (R400, R410 to R413) -/

/-- The registers of a group after it has entered its handler (R410, Table 3-6). -/
def entered (x : Group) (cause detail : Nat) (addr : Option Nat) : Registers :=
  { registers x with
    trapcause := BitVec.ofNat 32 (cause + (if addr.isSome then 256 else 0) + detail % 65536 * 65536)
    trappc := x.pc
    trapexec := x.exec
    faultaddr := match addr with
      | some a => BitVec.ofNat 64 a
      | none => x.faultaddr
    intrap := true
    exec := x.live }

/-- A group of the state has a handler and is not in it. -/
def hasHandler (s : State) (g : Nat) : Bool := decide (g < s.groups.length) && (grp s g).trapbase != 0 && !(grp s g).intrap

/-- Records go to the internal buffer, which has room; no triage by the host is asked for, and no record there can take in another
(R397, R399). -/
def logFree (s : State) : Bool :=
  !s.log.en && decide (s.log.buffer.length < 255) && !s.duty.getLsbD 1 && s.log.buffer.all (fun r => r.cls != 0)

/-- One record has been written, with its code, class and detail, the next sequence number and the time (R397, R398). -/
def recorded (s t : State) (code cls detail : Nat) : Prop :=
  logFree s = true → ∃ r, t.log.buffer = s.log.buffer ++ [r] ∧ r.code = code ∧ r.cls = cls ∧ r.detail = detail ∧
    r.seq = s.log.seq + 1 ∧ r.time = timeOf s

/-! ## Vector instructions (chapters 10 and 11) -/

/-- An instruction of the acting group that writes vector lanes: its destination, the registers of one value, the value of a lane as
bits, the arithmetic events it meets, and whether a quay core executes it. -/
structure VectorRow (α : Type) where
  instr : α → Instr
  dest : α → Byte
  regs : α → Nat := fun _ => 1
  quay : α → Bool := fun _ => true
  value : α → State → Nat → Nat
  met : α → State → Nat := fun _ _ => 0

/-- A row whose lanes deliver bits with their events. -/
def lanesMeet {α : Type} (instr : α → Instr) (dest : α → Byte) (regs : α → Nat) (quay : α → Bool)
    (r : α → State → Nat → Nat × Nat) :
    VectorRow α :=
  { instr, dest, regs, quay, value := fun f s l => (r f s l).1,
    met := fun f s => (activeLanes s s.cur).foldl (fun m l => m ||| (r f s l).2) 0 }

/-- Registers of the type op names. -/
def opRegs {w : Nat} (op : BitVec w) : Nat := typeRegs op.toNat
/-- Bits of an operand of the type op names: those of one register or of two. -/
def opBits {w : Nat} (op : BitVec w) : Nat := 32 * opRegs op

/-- Sources of a vector instruction in lane l: as bits of `n` registers. -/
def vA (n : Nat) (f : FmtT) (s : State) (l : Nat) : Nat := srcBits (me s) n f.ka f.a l
def vB (n : Nat) (f : FmtT) (s : State) (l : Nat) : Nat := srcBits (me s) n f.kb f.b l
def vC (n : Nat) (f : FmtT) (s : State) (l : Nat) : Nat := srcBits (me s) n f.kc f.c l
/-- Source of a vector instruction of format I. -/
def wA (n : Nat) (f : FmtI) (s : State) (l : Nat) : Nat := srcBits (me s) n f.ka f.a l
/-- Its immediate as the type of op extends it (R204). -/
def wImm (f : FmtI) : Nat := if f.op = 2 then (f.imm.signExtend 64).toNat else f.imm.toNat
/-- An operand read as the type of op reads it. -/
def asT {w : Nat} (op : BitVec w) (x : Nat) : Int := typed op.toNat x
/-- Bits of a bitwise or shift operation at the operand's width. -/
def atWidth {w : Nat} (op : BitVec w) (x : Nat) : BitVec (opBits op) := BitVec.ofNat (opBits op) x

/-- Integer instructions of format T (R208, R209, R211 to R214). No one of them meets an event. -/
def integerT : List (VectorRow FmtT) :=
  [ { instr := .vadd, dest := FmtT.d, regs := fun f => opRegs f.op
      value := fun f s l => narrow (asT f.op (vA (opRegs f.op) f s l) + asT f.op (vB (opRegs f.op) f s l)) f.op.toNat f.sat },
    { instr := .vsub, dest := FmtT.d, regs := fun f => opRegs f.op
      value := fun f s l => narrow (asT f.op (vA (opRegs f.op) f s l) - asT f.op (vB (opRegs f.op) f s l)) f.op.toNat f.sat },
    { instr := .vmul, dest := FmtT.d, value := fun f s l => wrapTo 32 (asT f.op (vA 1 f s l) * asT f.op (vB 1 f s l)) },
    { instr := .vmulh, dest := FmtT.d
      value := fun f s l => wrapTo 64 (asT f.op (vA 1 f s l) * asT f.op (vB 1 f s l)) / 2 ^ 32 },
    { instr := .vmad, dest := FmtT.d
      value := fun f s l =>
        narrow (asT f.op (vA 1 f s l) * asT f.op (vB 1 f s l) + asT f.op (vC 1 f s l)) f.op.toNat f.sat },
    { instr := .vand, dest := FmtT.d, regs := fun f => opRegs f.op
      value := fun f s l => vA (opRegs f.op) f s l &&& vB (opRegs f.op) f s l },
    { instr := .vor, dest := FmtT.d, regs := fun f => opRegs f.op
      value := fun f s l => vA (opRegs f.op) f s l ||| vB (opRegs f.op) f s l },
    { instr := .vxor, dest := FmtT.d, regs := fun f => opRegs f.op
      value := fun f s l => vA (opRegs f.op) f s l ^^^ vB (opRegs f.op) f s l },
    { instr := .vandn, dest := FmtT.d, regs := fun f => opRegs f.op
      value := fun f s l => (atWidth f.op (vA (opRegs f.op) f s l) &&& ~~~ atWidth f.op (vB (opRegs f.op) f s l)).toNat },
    { instr := .vshl, dest := FmtT.d, regs := fun f => opRegs f.op
      value := fun f s l => (atWidth f.op (vA (opRegs f.op) f s l) <<< vB (opRegs f.op) f s l).toNat },
    { instr := .vshr, dest := FmtT.d, regs := fun f => opRegs f.op
      value := fun f s l => (atWidth f.op (vA (opRegs f.op) f s l) >>> vB (opRegs f.op) f s l).toNat },
    { instr := .vsra, dest := FmtT.d, regs := fun f => opRegs f.op
      value := fun f s l => ((atWidth f.op (vA (opRegs f.op) f s l)).sshiftRight (vB (opRegs f.op) f s l)).toNat },
    { instr := .vmin, dest := FmtT.d, regs := fun f => opRegs f.op
      value := fun f s l => if asT f.op (vA (opRegs f.op) f s l) ≤ asT f.op (vB (opRegs f.op) f s l)
        then vA (opRegs f.op) f s l else vB (opRegs f.op) f s l },
    { instr := .vmax, dest := FmtT.d, regs := fun f => opRegs f.op
      value := fun f s l => if asT f.op (vB (opRegs f.op) f s l) ≤ asT f.op (vA (opRegs f.op) f s l)
        then vA (opRegs f.op) f s l else vB (opRegs f.op) f s l },
    { instr := .vsel, dest := FmtT.d, regs := fun f => opRegs f.op
      value := fun f s l => if laneIn (spair (me s) f.c.toNat) l then vA (opRegs f.op) f s l else vB (opRegs f.op) f s l },
    { instr := .vmov, dest := FmtT.d, regs := fun f => opRegs f.op, value := fun f s l => vA (opRegs f.op) f s l },
    { instr := .vabs, dest := FmtT.d, value := fun f s l => narrow (typed 0 (vA 1 f s l)).natAbs 0 f.sat },
    { instr := .vbfe, dest := FmtT.d
      value := fun f s l => (bfeWord (f.op == 0) (srcWord (me s) f.ka f.a l) (srcWord (me s) f.kb f.b l)).toNat },
    { instr := .vbfi, dest := FmtT.d
      value := fun f s l =>
        (bfiWord (vlane (me s) f.d.toNat l) (srcWord (me s) f.ka f.a l) (srcWord (me s) f.kb f.b l)).toNat },
    { instr := .vpopc, dest := FmtT.d, value := fun f s l => popCount (vA (opRegs f.op) f s l) (opBits f.op) },
    { instr := .vclz, dest := FmtT.d, value := fun f s l => leadingZeros (vA (opRegs f.op) f s l) (opBits f.op) },
    { instr := .vsad, dest := FmtT.d
      value := fun f s l =>
        let x (i : Nat) := byteOf f.op.toNat (vA 1 f s l) i
        let y (i : Nat) := byteOf f.op.toNat (vB 1 f s l) i
        narrow ((x 0 - y 0).natAbs + (x 1 - y 1).natAbs + (x 2 - y 2).natAbs + (x 3 - y 3).natAbs + vC 1 f s l) 1 f.sat },
    { instr := .vdot4, dest := FmtT.d
      value := fun f s l =>
        let x (i : Nat) := byteOf (f.op.toNat % 16) (vA 1 f s l) i
        let y (i : Nat) := byteOf (f.op.toNat / 16) (vB 1 f s l) i
        narrow (x 0 * y 0 + x 1 * y 1 + x 2 * y 2 + x 3 * y 3 + typed 0 (vC 1 f s l)) 0 f.sat } ]

/-- Their immediate forms and `vli` (R204, R208, R209). -/
def integerI : List (VectorRow FmtI) :=
  [ { instr := .vaddImm, dest := FmtI.d, regs := fun f => opRegs f.op
      value := fun f s l => narrow (asT f.op (wA (opRegs f.op) f s l) + asT f.op (wImm f)) f.op.toNat false },
    { instr := .vsubImm, dest := FmtI.d, regs := fun f => opRegs f.op
      value := fun f s l => narrow (asT f.op (wA (opRegs f.op) f s l) - asT f.op (wImm f)) f.op.toNat false },
    { instr := .vmulImm, dest := FmtI.d, value := fun f s l => wrapTo 32 (asT f.op (wA 1 f s l) * asT f.op f.imm.toNat) },
    { instr := .vmulhImm, dest := FmtI.d
      value := fun f s l => wrapTo 64 (asT f.op (wA 1 f s l) * asT f.op f.imm.toNat) / 2 ^ 32 },
    { instr := .vmadImm, dest := FmtI.d
      value := fun f s l => narrow (asT f.op (wA 1 f s l) * asT f.op f.imm.toNat + asT f.op (vlane (me s) f.d.toNat l).toNat)
        f.op.toNat false },
    { instr := .vandImm, dest := FmtI.d, regs := fun f => opRegs f.op, value := fun f s l => wA (opRegs f.op) f s l &&& wImm f },
    { instr := .vorImm, dest := FmtI.d, regs := fun f => opRegs f.op, value := fun f s l => wA (opRegs f.op) f s l ||| wImm f },
    { instr := .vxorImm, dest := FmtI.d, regs := fun f => opRegs f.op, value := fun f s l => wA (opRegs f.op) f s l ^^^ wImm f },
    { instr := .vandnImm, dest := FmtI.d, regs := fun f => opRegs f.op
      value := fun f s l => (atWidth f.op (wA (opRegs f.op) f s l) &&& ~~~ atWidth f.op (wImm f)).toNat },
    { instr := .vshlImm, dest := FmtI.d, regs := fun f => opRegs f.op
      value := fun f s l => (atWidth f.op (wA (opRegs f.op) f s l) <<< f.imm.toNat).toNat },
    { instr := .vshrImm, dest := FmtI.d, regs := fun f => opRegs f.op
      value := fun f s l => (atWidth f.op (wA (opRegs f.op) f s l) >>> f.imm.toNat).toNat },
    { instr := .vsraImm, dest := FmtI.d, regs := fun f => opRegs f.op
      value := fun f s l => ((atWidth f.op (wA (opRegs f.op) f s l)).sshiftRight f.imm.toNat).toNat },
    { instr := .vminImm, dest := FmtI.d, regs := fun f => opRegs f.op
      value := fun f s l => if asT f.op (wA (opRegs f.op) f s l) ≤ asT f.op (wImm f) then wA (opRegs f.op) f s l else wImm f },
    { instr := .vmaxImm, dest := FmtI.d, regs := fun f => opRegs f.op
      value := fun f s l => if asT f.op (wImm f) ≤ asT f.op (wA (opRegs f.op) f s l) then wA (opRegs f.op) f s l else wImm f },
    { instr := .vli, dest := FmtI.d, regs := fun f => opRegs f.op, value := fun f _ _ => wImm f } ]

/-! Floating-point sources and modes (R146, R205, R81). -/

def xA (f : FmtT) (s : State) (l : Nat) : FVal := srcF32 (me s) f.ka f.a f.na f.aa l
def xB (f : FmtT) (s : State) (l : Nat) : FVal := srcF32 (me s) f.kb f.b f.nb f.ab l
def xC (f : FmtT) (s : State) (l : Nat) : FVal := srcF32 (me s) f.kc f.c f.nc f.ac l
def yA (f : FmtT) (s : State) (l : Nat) : FVal := srcF64 (me s) f.ka f.a f.na f.aa l
def yB (f : FmtT) (s : State) (l : Nat) : FVal := srcF64 (me s) f.kb f.b f.nb f.ab l
def yC (f : FmtT) (s : State) (l : Nat) : FVal := srcF64 (me s) f.kc f.c f.nc f.ac l
def hA (f : FmtT) (s : State) (i l : Nat) : FVal := packedSrc (me s) (packedFmt f) f.ka f.a f.na f.aa i l
def hB (f : FmtT) (s : State) (i l : Nat) : FVal := packedSrc (me s) (packedFmt f) f.kb f.b f.nb f.ab i l
def hC (f : FmtT) (s : State) (i l : Nat) : FVal := packedSrc (me s) (packedFmt f) f.kc f.c f.nc f.ac i l
/-- The immediate forms: a of format I, the immediate, and the old destination. -/
def zA (f : FmtI) (s : State) (l : Nat) : FVal := srcF32 (me s) f.ka f.a f.na f.aa l
def zI (f : FmtI) (s : State) : FVal := readF32 (me s) f.imm
def zD (f : FmtI) (s : State) (l : Nat) : FVal := readF32 (me s) (vlane (me s) f.d.toNat l)
/-- The rounding mode of an instruction's `rnd` field, and that of `%fpctl`. -/
def byRnd (f : FmtT) (s : State) : RMode := modeFor (me s).fpctl f.rnd false
def byCtl (s : State) : RMode := modeFor (me s).fpctl 0 false

/-- An f32 result, an f64 result, and one half of a packed result, rounded as `mode` says (R77 to R84). -/
def as32 (s : State) (mode : RMode) (r : FVal × Nat) : Nat × Nat := fresOf f32 mode (ftz32 (me s).fpctl) r
def as64 (s : State) (mode : RMode) (r : FVal × Nat) : Nat × Nat := fresOf f64 mode (ftz64 (me s).fpctl) r
def as16 (f : FmtT) (s : State) (r : FVal × Nat) : Nat × Nat := fresOf (packedFmt f) (byRnd f s) (ftz16 (me s).fpctl) r
/-- Both halves of a packed result. -/
def halves (r : Nat → Nat × Nat) : Nat × Nat := ((r 0).1 + 65536 * (r 1).1, (r 0).2 ||| (r 1).2)

def f32T (instr : FmtT → Instr) (r : FmtT → State → Nat → Nat × Nat) : VectorRow FmtT :=
  lanesMeet instr FmtT.d (fun _ => 1) (fun _ => true) r
def f32I (instr : FmtI → Instr) (r : FmtI → State → Nat → Nat × Nat) : VectorRow FmtI :=
  lanesMeet instr FmtI.d (fun _ => 1) (fun _ => true) r
/-- Double precision, which a quay core does not execute (R317). -/
def f64T (instr : FmtT → Instr) (r : FmtT → State → Nat → Nat × Nat) : VectorRow FmtT :=
  lanesMeet instr FmtT.d (fun _ => 2) (fun _ => false) r

/-- Floating-point arithmetic, transcendental, double and packed instructions of format T (R215 to R220), and `cvt` to a type that is not
MX (R222 to R224). -/
def floatT : List (VectorRow FmtT) :=
  [ f32T .fadd (fun f s l => as32 s (byRnd f s) (fadd (byRnd f s) (xA f s l) (xB f s l))),
    f32T .fsub (fun f s l => as32 s (byRnd f s) (fadd (byRnd f s) (xA f s l) (fneg (xB f s l)))),
    f32T .fmul (fun f s l => as32 s (byRnd f s) (fmul (xA f s l) (xB f s l))),
    f32T .ffma (fun f s l => as32 s (byRnd f s) (ffma (byRnd f s) (xA f s l) (xB f s l) (xC f s l))),
    f32T .fmin (fun f s l => (fencode f32 (fmin (xA f s l) (xB f s l)), 0)),
    f32T .fmax (fun f s l => (fencode f32 (fmax (xA f s l) (xB f s l)), 0)),
    f32T .ffrac (fun f s l => (fencode f32 (ffrac (xA f s l)), 0)),
    f32T .frnd (fun f s l => (fencode f32 (frnd (byRnd f s) (xA f s l)), 0)),
    f32T .fclass (fun f s l => (2 ^ fclassBit f32 (signMods 32 f.na f.aa (srcWord (me s) f.ka f.a l).toNat), 0)),
    f32T .frcp (fun f s l => as32 s (byRnd f s) (fdiv (.fin false 1 0) (xA f s l))),
    f32T .frsq (fun f s l => as32 s .rne (frsq (xA f s l))),
    f32T .fsqrt (fun f s l => as32 s (byRnd f s) (fsqrt (xA f s l))),
    f32T .fdiv (fun f s l => as32 s (byRnd f s) (fdiv (xA f s l) (xB f s l))),
    f32T .fexp2 (fun f s l => as32 s .rne (fexp2 (xA f s l))),
    f32T .flog2 (fun f s l => as32 s .rne (flog2 (xA f s l))),
    f32T .fsin (fun f s l => as32 s .rne (fsin (xA f s l))),
    f32T .fcos (fun f s l => as32 s .rne (fcos (xA f s l))),
    f64T .dadd (fun f s l => as64 s (byRnd f s) (fadd (byRnd f s) (yA f s l) (yB f s l))),
    f64T .dmul (fun f s l => as64 s (byRnd f s) (fmul (yA f s l) (yB f s l))),
    f64T .dfma (fun f s l => as64 s (byRnd f s) (ffma (byRnd f s) (yA f s l) (yB f s l) (yC f s l))),
    f32T .hfma2 (fun f s l => halves (fun i => as16 f s (ffma (byRnd f s) (hA f s i l) (hB f s i l) (hC f s i l)))),
    f32T .hadd2 (fun f s l => halves (fun i => as16 f s (fadd (byRnd f s) (hA f s i l) (hB f s i l)))),
    f32T .hmul2 (fun f s l => halves (fun i => as16 f s (fmul (hA f s i l) (hB f s i l)))),
    f32T .hdot2 (fun f s l =>
      as32 s (byRnd f s) (dot2 (byRnd f s) (hA f s 0 l) (hB f s 0 l) (hA f s 1 l) (hB f s 1 l) (xC f s l))) ]

/-- Their immediate forms: the immediate is the f32 bits of b, and rounding follows `%fpctl` (R215). -/
def floatI : List (VectorRow FmtI) :=
  [ f32I .faddImm (fun f s l => as32 s (byCtl s) (fadd (byCtl s) (zA f s l) (zI f s))),
    f32I .fsubImm (fun f s l => as32 s (byCtl s) (fadd (byCtl s) (zA f s l) (fneg (zI f s)))),
    f32I .fmulImm (fun f s l => as32 s (byCtl s) (fmul (zA f s l) (zI f s))),
    f32I .ffmaImm (fun f s l => as32 s (byCtl s) (ffma (byCtl s) (zA f s l) (zI f s) (zD f s l))),
    f32I .fminImm (fun f s l => (fencode f32 (fmin (zA f s l) (zI f s)), 0)),
    f32I .fmaxImm (fun f s l => (fencode f32 (fmax (zA f s l) (zI f s)), 0)) ]

/-- `cvt` of one element in every active lane; a quay core does not execute its f64 forms (R222 to R224, R319). -/
def convertRow : VectorRow FmtT :=
  lanesMeet .cvt FmtT.d (fun f => if f.op.toNat / 16 = 0xE then 2 else 1)
    (fun f => f.op.toNat / 16 != 0xE && f.op.toNat % 16 != 0xE) (fun f s l => cvtLane (me s) f l)

/-- The arithmetic trap of an event that is met and enabled: results and flags are written, and the pc names the next instruction. -/
def arithmeticTrap {α : Type} (r : VectorRow α) (f : α) (s t : State) : Prop :=
  (∀ l, l < 64 → laneIn (activeMask s s.cur) l = true → ∀ k, k < r.regs f →
    vlane (grp t s.cur) ((r.dest f).toNat + k) l = BitVec.ofNat 32 (r.value f s l / 2 ^ (32 * k))) ∧
  (pcIndex (me s).pc + 1 < (clauseOf (me s)).count →
    (grp t s.cur).trappc = mkPc (pcHeader (me s).pc) (pcIndex (me s).pc + 1)) ∧
  (grp t s.cur).pc = (me s).trapbase ∧
  registers (grp t s.cur) = { entered (me s) 4 (r.met f s &&& (me s).trapen.toNat) none with
    trappc := (grp t s.cur).trappc, vregs := (grp t s.cur).vregs, fpflags := (me s).fpflags ||| BitVec.ofNat 32 (r.met f s) }

/-! Compares (R210). -/

/-- A compare of the acting group: the condition it tests in a lane. -/
structure CompareRow (α : Type) where
  instr : α → Instr
  dest : α → Byte
  quay : Bool := true
  cond : α → State → Nat → Bool

def compareT : List (CompareRow FmtT) :=
  [ { instr := .vcmp, dest := FmtT.d
      cond := fun f s l => intCond (f.op.toNat / 16) (typed (f.op.toNat % 16) (vA (typeRegs (f.op.toNat % 16)) f s l))
        (typed (f.op.toNat % 16) (vB (typeRegs (f.op.toNat % 16)) f s l)) },
    { instr := .fcmp, dest := FmtT.d, cond := fun f s l => floatCond (f.op.toNat / 16) (xA f s l) (xB f s l) },
    { instr := .dcmp, dest := FmtT.d, quay := false, cond := fun f s l => floatCond (f.op.toNat / 16) (yA f s l) (yB f s l) } ]
def compareI : List (CompareRow FmtI) :=
  [ { instr := .vcmpImm, dest := FmtI.d
      cond := fun f s l => intCond (immCond f.op.toNat).1 (typed (immCond f.op.toNat).2 (wA 1 f s l))
        (typed (immCond f.op.toNat).2 f.imm.toNat) },
    { instr := .fcmpImm, dest := FmtI.d, cond := fun f s l => floatCond f.op.toNat (zA f s l) (zI f s) } ]

/-- Bit l of a mask is 1 exactly in the active lanes where a condition holds (R210). -/
def masks (s : State) (c : Nat → Bool) (m : DWord) : Prop := ∀ l, l < 64 → m.getLsbD l = (laneIn (activeMask s s.cur) l && c l)

/-! Reductions (R230 to R232). -/

/-- Lanes of the sub-group of lane l. -/
def subLanes (sub l : Nat) : List Nat := (List.range sub).map (l - l % sub + ·)
/-- The element of lane l as `vred` and `vscan` read it. -/
def element (f : FmtT) (s : State) (l : Nat) : Nat := redSrc (me s) f (f.op.toNat / 4 % 8) l
/-- The reduction of the sub-group of lane l over its active lanes, in the tree of R231. -/
def reduced (f : FmtT) (s : State) (l : Nat) : Option Nat × Nat :=
  treeReduce (redOp (me s) f) (Nat.log2 (subWidth f.op))
    ((subLanes (subWidth f.op) l).map (fun j => if laneIn (activeMask s s.cur) j then some (element f s j) else none))
/-- The prefix of the sub-group of lane l, in ascending lane order from the seed (R232). -/
def scanned (f : FmtT) (s : State) (l : Nat) : List (Nat × Nat) × Nat :=
  scanFrom (redOp (me s) f) (element f s) ((subLanes (subWidth f.op) l).filter (laneIn (activeMask s s.cur)))
    (scanSeed s f (redRegs (f.op.toNat / 4 % 8)))
/-- Lowest lanes of the sub-groups. -/
def subStarts (f : FmtT) (s : State) : List Nat := (List.range (widthOf s s.cur / subWidth f.op)).map (· * subWidth f.op)

def reduceRow : VectorRow FmtT :=
  { instr := .vred, dest := FmtT.d, regs := fun f => redRegs (f.op.toNat / 4 % 8), quay := fun f => f.op.toNat / 4 % 8 != 5
    value := fun f s l => (reduced f s l).1.getD 0
    met := fun f s => (subStarts f s).foldl (fun m l => m ||| (reduced f s l).2) 0 }
def scanRow : VectorRow FmtT :=
  { instr := .vscan, dest := FmtT.d, regs := fun f => redRegs (f.op.toNat / 4 % 8), quay := fun f => f.op.toNat / 4 % 8 != 5
    value := fun f s l => (mapGet 0 (scanned f s l).1 l)
    met := fun f s => (subStarts f s).foldl (fun m l => m ||| (scanned f s l).2) 0 }

/-! ## Operations in flight (chapters 05, 06 and 12) -/

/-- Registers of every group and every byte of memory are as before. -/
def keepsAll (s t : State) : Prop := sameMemory s t ∧ ∀ h, registers (grp t h) = registers (grp s h)
/-- The bytes of a list stand from location a; every other byte of memory is as before. -/
def storedAt (s t : State) (a : Nat) (bs : List Byte) : Prop :=
  (∀ i, i < bs.length → byteAt t.mem (a + i) = bs.getD i 0) ∧
    ∀ b, (b < a ∨ a + bs.length ≤ b) → byteAt t.mem b = byteAt s.mem b
/-- A path counter one higher. -/
def raised (p : Option Nat) (c : Counters) : Counters := match p with
  | none => c
  | some p => setCounter p (counter c p + 1) c

/-- The acting group has issued operation `o`: it is in flight and its path counter has risen; no register, no byte of memory and no
other group has changed, and the pc moves on. -/
def launched (s t : State) (o : Op) : Prop :=
  t = { s with groups := t.groups, seq := t.seq, ops := s.ops ++ [o] } ∧ othersKept s t ∧ movesOn s t ∧
    registers (grp t s.cur) = { registers (me s) with counters := raised o.path (me s).counters }

/-- The acting group is blocked, out of the active set, with a wait of Table 3-9; nothing else of the module changed. `held` says that the
pc still names the instruction. -/
def blockedOn (s t : State) (held : Bool) (code obj opnd : Nat) : Prop :=
  onlyGroups s t ∧ othersKept s t ∧ registers (grp t s.cur) = registers (me s) ∧
    (grp t s.cur).wait = { code, obj, opnd } ∧ (grp t s.cur).active = false ∧
    (if held then (grp t s.cur).pc = (me s).pc else movesOn s t)

/-- A group's block has ended; no register and no byte of memory changed. -/
def woken (s t : State) (g : Nat) : Prop := keepsAll s t ∧ (grp t g).wait = {} ∧ (grp t g).readyStamp = some s.clock

/-- The acting group has entered its handler for a precise cause of its instruction; no other group changed. -/
def trapped (s t : State) (cause detail : Nat) (addr : Option Nat) : Prop :=
  othersKept s t ∧ (grp t s.cur).pc = (me s).trapbase ∧ registers (grp t s.cur) = entered (me s) cause detail addr

/-- No stored data is damaged and there is no pound: no access needs more than its bytes. -/
def sound (s : State) : Prop := s.bad = [] ∧ s.poundSize = 0
/-- An operation that no event performs but the end of what it is held for (R128, R238, R250, R285). -/
def isHolding (x : Op) : Bool := match x.kind with
  | .arrival _ => true
  | .advance _ => true
  | .drop _ => true
  | .close _ => true
  | .watch _ _ => true
  | _ => false
/-- No operation is held. -/
def atRest (s : State) : Prop := ∀ x ∈ s.ops, isHolding x = false
/-- Nobody waits at a home for a write, and no operation is held. -/
def unwatched (s : State) : Prop := s.sync.waiters = [] ∧ s.sync.armed = [] ∧ atRest s
/-- So with storage that is sound. -/
def calm (s : State) : Prop := sound s ∧ unwatched s

/-- The exchange of `vperm` and `vshfl`: each active lane has read its source lane, 0 from one that is not live. -/
def exchanges (f : FmtT) (s : State) (src : Nat → Nat) (o : Op) : Prop :=
  let n := if f.op.getLsbD 3 then 2 else 1
  o.g = s.cur ∧ o.path = some 0 ∧ o.finished = false ∧ o.stage = 0 ∧ o.lanes = [] ∧ o.failed = [] ∧ o.size = 4 * n ∧
    o.dv = (List.range n).map (f.d.toNat + ·) ∧
    o.got = (activeLanes s s.cur).map (fun l => (l, if laneIn (me s).live (src l) then srcBits (me s) n 0 f.a (src l) else 0)) ∧
    o.kind = .perm (maskOf ((activeLanes s s.cur).filter (fun l => !laneIn (me s).live (src l))))
      (if f.op.getLsbD 2 then some f.c.toNat else none)

/-- Scratchpad instructions: whether each loads, its space, the instruction, and whether a quay core executes it. -/
def scratchForms : List ((FmtM → Instr) × Bool × Bool) :=
  [(.tld, true, false), (.tst, false, false), (.dld, true, true), (.dst, false, true)]
/-- The path a scratchpad instruction counts on. -/
def scratchPath (isLoad die : Bool) : Option Nat := if isLoad then some (if die then 1 else 0) else none
/-- A spill-stack access finds its pages, and nothing stands in the way of reading them (R93). -/
def stackReady (f : FmtM) (isLoad : Bool) (s : State) : Prop :=
  sound s ∧ ∀ l ∈ activeLanes s s.cur, ∃ p,
    spillPhys s s.cur (memAddr (me s) f l) (memSize f) { read := isLoad, write := !isLoad } = (s, .ok p)

/-- A load or store in flight: what it names and what it carries. -/
def accesses (f : FmtM) (isLoad : Bool) (s : State) (addr named : Nat → Nat) (o : Op) : Prop :=
  o.g = s.cur ∧ o.size = memSize f ∧ o.sx = f.sx ∧ o.finished = false ∧ o.failed = [] ∧ o.got = [] ∧
    o.dv = (if isLoad then loadRegs f else []) ∧ o.lanes.map (·.lane) = activeLanes s s.cur ∧
    ∀ r ∈ o.lanes, r.addr = addr r.lane ∧ r.named = named r.lane ∧ (isLoad = false → r.data = storeData (me s) f r.lane)

/-- An operation whose results can land: every lane of it has been performed, and it holds the crossbar if it needs it. -/
def landable (x : Op) : Bool :=
  !x.finished && allDone x && x.failed.isEmpty && (match x.kind with
    | .load _ => x.path != some 0 || x.stage != 0
    | .perm _ _ => x.stage != 0
    | .peerLoad => true
    | .atop _ _ => x.path.isSome
    | .cas => true
    | _ => false)

/-- The new value of a lane of an atomic at its home, none when it writes nothing (R123, R240, R241). -/
def atomWrites (x : Op) (r : LaneReq) (old : Nat) : Option Nat := match x.kind with
  | .atop oper ty => some (atomNew oper ty old r.data)
  | _ => if old = r.cmp then some r.data else none

/-- A lane of an atomic has been performed: its location holds the new value, it has the old one, and no other byte has changed. -/
def appliedAtHome (s t : State) (o lane : Nat) : Prop :=
  let x := op s o
  let r := laneReq x lane
  (match atomWrites x r (rd s r.addr x.size) with
    | some v => storedAt s t r.addr (toBytesLE x.size v)
    | none => sameMemory s t) ∧
  laneIn (op t o).performed lane = true ∧ (x.path.isSome = true → (op t o).got = x.got ++ [(lane, rd s r.addr x.size)]) ∧
  ∀ h, registers (grp t h) = registers (grp s h)

/-- Only windows, locks, clocks, flights and wait tables differ beside the groups. -/
def onlySync (s t : State) : Prop := t = { s with groups := t.groups, seq := t.seq, sync := t.sync }
/-- The operands of an instruction of Table 12-3. -/
def eA (f : FmtE) (s : State) : Word := opndA (me s) f
def eB (f : FmtE) (s : State) : Word := opndB (me s) f
/-- A uniform result of an instruction of Table 12-3; nothing else of the group changed. -/
def resultIn (s t : State) (d : Byte) (v : Word) : Prop :=
  othersKept s t ∧ movesOn s t ∧ registers (grp t s.cur) = { registers (me s) with sregs := (setSreg d.toNat v (me s)).sregs }
/-- Nothing of the group changed but its pc. -/
def movedOn (s t : State) : Prop := othersKept s t ∧ movesOn s t ∧ registers (grp t s.cur) = registers (me s)
/-- Only one flight changed. -/
def onlyFlight (s t : State) (k : Nat) : Prop :=
  t = { s with groups := t.groups, seq := t.seq, sync := { s.sync with flights := t.sync.flights } } ∧
    ∀ j, j ≠ k → flight t j = flight s j
/-- The group's membership of a flight satisfies a test. -/
def memberIs (s : State) (k : Nat) (p : Member → Bool) : Bool := ((memberOf (flight s k) (.group s.cur)).map p).getD false

/-! ## Decoding and stepping -/

/-- Group opcodes that Table 8-1 leaves unallocated, as ranges (R171). -/
def unallocated : List (Nat × Nat) :=
  [(0x00, 0x00), (0x18, 0x1F), (0x35, 0x37), (0x3A, 0x3F), (0x47, 0x47), (0x4E, 0x4F), (0x59, 0x5F), (0x60, 0x60), (0x7A, 0x7F),
   (0xAE, 0xAF), (0xB4, 0xB7), (0xC7, 0xCF), (0xD7, 0xDF), (0xE6, 0xE7), (0xFB, 0xFD), (0xFF, 0xFF)]

/-- Nothing is due for the acting group before its next instruction: it can issue, no error or trap waits for the boundary, and no
breakpoint stands at the instruction. -/
def nothingDue (s : State) : Bool :=
  let x := me s
  runnable s s.cur && x.doomed.isNone && x.slotFault.isNone && (x.intrap || x.pending.isEmpty) && x.stepping != some true &&
    (breakpointAt s s.cur).isNone

/-- The acting group, which its partition picks, is in clause c at an instruction whose eight bytes decode to i, which is neither misplaced nor
first of a pair. -/
def reads (s : State) (c : Clause) (i : Instr) : Prop :=
  (me s).clause = some c ∧ nothingDue s = true ∧ mayTurn s s.cur = true ∧ bitOf c.pair (pcIndex (me s).pc) = false ∧
    ∃ w rest, wordAt (me s) (pcIndex (me s).pc) = some w ∧ decode (toBytesLE 8 w.toNat) = .ok (i, rest) ∧
      misplaced c (pcIndex (me s).pc) w = false

/-! ## Tow commands (chapter 13) -/

/-- The five tow instructions, with their opcodes. -/
def towForms : List ((FmtE → Instr) × Nat) :=
  [(.tcopy, 0x90), (.txform, 0x91), (.tremote, 0x92), (.tflush, 0x93), (.tfill, 0x94)]

/-- Offsets in the team's allocation of a tow instruction's descriptor and landing. -/
def towOff (f : FmtE) (x : Group) : Nat := (sreg x f.a.toNat).toNat
def towLand (f : FmtE) (x : Group) : Nat := (sreg x f.b.toNat).toNat

/-- The descriptor and the landing of a tow instruction of group g lie in its team's allocation (R260, R435). -/
def towPlaced (oper : Nat) (f : FmtE) (g : Nat) (s : State) : Bool :=
  towOff f (grp s g) % 64 == 0 && decide (towOff f (grp s g) + towSize oper ≤ (teamOf s g).allocSize) &&
    !landingBad s g (towLand f (grp s g))

/-- The command that a tow instruction of group g makes, before its descriptor has been read. -/
def towCommand (oper : Nat) (f : FmtE) (g : Nat) (s : State) : Tow :=
  { oper, g, desc := locTeam (coreOf s g) ((teamOf s g).allocBase + towOff f (grp s g)), named := 5 * 2 ^ 60 + towOff f (grp s g),
    landing := landingLoc s g (towLand f (grp s g)), acq := acqOf f, rel := relOf f, before := s.ops.length }
/-- That command with the bytes its descriptor holds now, and the first field of them that Table 25-4 rejects. -/
def towRead (oper : Nat) (f : FmtE) (g : Nat) (s : State) : Tow :=
  { towCommand oper f g s with bytes := readBytes s.mem (towCommand oper f g s).desc (towSize oper) }
def towRejected (oper : Nat) (f : FmtE) (g : Nat) (s : State) : Option Nat :=
  ((towChecks (towRead oper f g s)).find? (·.2)).map (·.1)
/-- Its descriptor can be read now: no earlier access of the group to those bytes is still to be performed, and no `mcas` holds them. -/
def towClear (oper : Nat) (f : FmtE) (g : Nat) (s : State) : Bool :=
  let c := towCommand oper f g s
  clearBefore s s.ops.length { g, kind := .load 0, size := towSize oper } { lane := 0, addr := c.desc, named := c.named, data := 0, cmp := 0 } &&
    unlocked s noOp c.desc (towSize oper)

/-- The tow instruction of group g has its place in the queue (R260): with its descriptor read and accepted; ended with status 0x01 and its
record; or with the read of the descriptor held behind the group's earlier accesses (R504). -/
def towTaken (s t : State) (oper : Nat) (f : FmtE) (g : Nat) : Prop :=
  (towClear oper f g s = true → sound s →
    (towRejected oper f g s = none → t.ops = s.ops ∧ t.tows = s.tows ++ [{ towRead oper f g s with phase := .queued }]) ∧
    ∀ off, towRejected oper f g s = some off → t.ops = s.ops ∧ recorded s t 0x0918 1 off ∧
      t.tows = s.tows ++ [{ towRead oper f g s with phase := .finishing, status := 1 }]) ∧
  (towClear oper f g s = false → t.tows = s.tows ++ [towCommand oper f g s] ∧
    ∃ o, t.ops = s.ops ++ [o] ∧ o.kind = .descriptor s.tows.length ∧ o.g = g ∧ o.path = none ∧ o.size = towSize oper ∧
      o.lanes.map (·.addr) = [(towCommand oper f g s).desc])

/-- The bytes of a list of pieces. -/
def piecesHold (s : State) (ps : List Piece) : List Byte := ps.flatMap (fun p => readBytes s.mem p.loc p.len)
/-- No two pieces share a byte. -/
def apart (ps : List Piece) : Prop := ps.Pairwise (fun p q => p.loc + p.len ≤ q.loc ∨ q.loc + q.len ≤ p.loc)
/-- The pieces hold the bytes given; every byte outside them is as before, and no register has changed. -/
def wroteAt (s t : State) (qs : List Piece) (bs : List Byte) : Prop :=
  piecesHold t qs = bs ∧ (∀ a, (∀ q ∈ qs, a < q.loc ∨ q.loc + q.len ≤ a) → byteAt t.mem a = byteAt s.mem a) ∧
    ∀ h, registers (grp t h) = registers (grp s h)

/-- A command runs, and nothing holds it. -/
def towRuns (s : State) (n oper : Nat) : Prop :=
  n < s.tows.length ∧ (towOf s n).oper = oper ∧ (towOf s n).phase = .running ∧ isHeld s (.tow n) = false ∧ calm s
/-- A `tflush` has done with its next row: after the last it is finishing. -/
def rowDone (s t : State) (n : Nat) : Prop :=
  (towOf t n).row = (towOf s n).row + 1 ∧ (towOf t n).status = (towOf s n).status ∧
    (towOf t n).phase = if tRows (towOf s n) ≤ (towOf s n).row + 1 then .finishing else .running

/-- The turn that makes a running command's next access. -/
def towTurn (s : State) (n : Nat) : Instr := if (towOf s n).oper = 0x91 then .txformExecution n else .towCommandStart n
/-- A running command's next access is `x`; the range it names, of `len` bytes at an address, lies in the pieces `ps`, and nothing keeps it
from being read, or written. -/
def towReaches (s : State) (n : Nat) (x : TowAccess) (write : Bool) (addr : Int) (len : Nat) (ps : List Piece) : Prop :=
  let c := towOf s n
  n < s.tows.length ∧ c.oper ≠ 0x93 ∧ c.oper ≠ 0xFE ∧ c.phase = .running ∧ isHeld s (.tow n) = false ∧ calm s ∧
    towNext s c (freeNat s) = some x ∧ towReach (passFree s 1) n write addr len = .ok (passFree s 1) ps
/-- The command writes into host memory by an index, which R265 does not allow. -/
def hostScatter (s : State) (c : Tow) (ps : List Piece) : Bool :=
  c.oper == 0x90 && tMode c == 3 && ps.any (fun q => regionOf s.poundSize q.loc == .host)

/-! ## The matrix engine (chapter 14) -/

/-- A run past its present word, as an effect of the word has left it: the next word, unless a stream loop ends here (R290). -/
def pastWord (x : Run) : Run := streamLoopEnd x.pc { x with pc := x.pc + 8, tile := none }
/-- The run that acts holds x; every other run is as before. -/
def runIs (s t : State) (r : Nat) (x : Run) : Prop := runAt t r = x ∧ ∀ q, q ≠ r → runAt t q = runAt s q
/-- Tile elements written, by key; every other element of every tile is as before. -/
def tilesHold (s t : State) (keys : List Nat) (v : Nat → Nat) : Prop :=
  (∀ i, i < keys.length → mapGet 0 t.tiles (keys.getD i 0) = v i) ∧ ∀ k, k ∉ keys → mapGet 0 t.tiles k = mapGet 0 s.tiles k
/-- Keys of the elements of tile z of a run. -/
def tileKeys (s : State) (r z : Nat) : List Nat := (List.range 4096).map (tileKey s r z)
/-- The next tile of a word that takes tiles one by one has been done. -/
def oneTile (f : FmtZ) (s t : State) (r : Nat) (x : Run) : Prop :=
  let z := (runAt s r).tile.getD f.d.toNat
  runIs s t r (if z < f.d.toNat + f.b.toNat then { x with tile := some (z + 1) } else pastWord x)
/-- The sequencer's run r acts on tiles that it has and that no update is on its way to (R278, R292). -/
def tilesFree (s : State) (r : Nat) (zs : List Nat) : Prop :=
  actingRun s = some r ∧ sound s ∧ (∀ z ∈ zs, z < (team s (runAt s r).team).hdr.ztiles) ∧ ∀ w ∈ (runAt s r).writes, w.tile ∉ zs
/-- The acting group's `fork` has placed a run: its scalars are s[d..d+15], and it is a member of every flight of its sets. -/
def forked (s t : State) (f : FmtE) : Prop :=
  let sets := (sreg (me s) f.b.toNat).toNat
  ∃ x, t.runs = s.runs ++ [x] ∧ x.team = (me s).team ∧ x.g = s.cur ∧ x.pc = forkAddr s f ∧ x.signals = sets % 2 ^ 16 ∧
    x.waits = sets / 2 ^ 16 ∧ x.ended = false ∧ (∀ i, i < 16 → scalar x i = (sreg (me s) (f.d.toNat + i)).toNat) ∧
    ∀ k, k < 16 → (bitOf sets k = true ∨ bitOf sets (16 + k) = true) →
      (memberOf (flight t (teamFlight (me s).team k)) (.run s.runs.length)).isSome = true
/-- A run has ended with a status. -/
def runEnded (s t : State) (r status : Nat) : Prop :=
  (runAt t r).ended = true ∧ (runAt t r).status = status ∧ (team t (runAt s r).team).lastRun = status ∧ ∀ p ∈ t.pins, p.run ≠ r
/-- Bytes of row i of A, its scales, and the scales of column j of B, of an `mma` with block record x. -/
def rowA (s : State) (r off : Nat) (x : BlockRec) (i : Nat) : List Byte := readBytes s.mem (runLoc s r (off + i * x.astride)) 384
def scalesOf (s : State) (r k bl off n i : Nat) : List Byte := if isMx k then readBytes s.mem (runLoc s r (off + i * (n / bl))) (n / bl) else []
/-- Element (i, 16·q + jj) of an `mma` as the holder g of quarter q supplies its column. -/
def mmaAt (f : FmtZ) (s : State) (r : Nat) (x : BlockRec) (q g i jj : Nat) : Nat :=
  let run := runAt s r
  let n := kOf x
  let a := rowA s r (scalar run f.a.toNat) x i
  let b := columnBytes s g f.b.toNat jj
  (mmaElement x (zfield f 22 2) (zfield f 19 3) (zbit f 18) (scalar run (zfield f 14 4)) (tileElem s r f.d.toNat (64 * i + 16 * q + jj))
    (a, decodeRow x.fa n x.bla a (scalesOf s r x.fa x.bla x.ascale n i) (slotBook run x.cba))
    (b, decodeRow x.fb n x.blb b (scalesOf s r x.fb x.blb x.bscale n (16 * q + jj)) (slotBook run x.cbb))).1

/-! ## Rays, filtering and quay cores (chapter 15), rasterisation and called units (chapter 16) -/

/-- The ray of lane l of a `trace`: the eight words of its registers. -/
def laneRay (f : FmtE) (x : Group) (l : Nat) : List Nat := (List.range 8).map (fun i => (vlane x (f.a.toNat + i) l).toNat)
/-- Status with which a `trace` fails as a whole, 0 for none (R298, R443). -/
def traceBad (f : FmtE) (s : State) : Nat :=
  let c := (sreg (me s) f.c.toNat).toNat
  if c / 2 ^ 16 ≠ 0 ∨ bitField c 4 4 ≠ 0 then 3
  else if rootOk s (stackOverCore (coreOf s s.cur)) (gridOf s s.cur).ctx (spair (me s) f.b.toNat).toNat then 0 else 4
/-- The lanes of a `trace` whose rays become barges. -/
def traceLanes (f : FmtE) (s : State) : List Nat :=
  if traceBad f s = 0 then (activeLanes s s.cur).filter (fun l => !rayInvalid (laneRay f (me s) l)) else []
/-- The acting group's `trace` has gone out: its record and a barge for each active lane, an invalid ray's ended with its status. -/
def traced (s t : State) (f : FmtE) : Prop :=
  ∃ o tr bs, t.ops = s.ops ++ [o] ∧ o.kind = .records ∧ o.path = some 3 ∧ o.g = s.cur ∧ o.records = (activeLanes s s.cur).length ∧
    t.quay = { s.quay with traces := s.quay.traces ++ [tr], barges := s.quay.barges ++ bs } ∧
    tr.root = (spair (me s) f.b.toNat).toNat ∧ tr.area = landingLoc s s.cur (sreg (me s) f.d.toNat).toNat ∧
    tr.flags = (sreg (me s) f.c.toNat).toNat % 16 ∧ tr.mask = bitField (sreg (me s) f.c.toNat).toNat 8 8 ∧ tr.acq = acqOf f ∧
    tr.count = (traceLanes f s).length ∧ tr.gen = none ∧ bs.map (·.lane) = activeLanes s s.cur ∧
    ∀ b ∈ bs, b.trace = s.quay.traces.length ∧ b.ray = laneRay f (me s) b.lane ∧
      (b.lane ∈ traceLanes f s → b.place = .formed ∧ ∃ n, b.slot = some n ∧ n < raySlots ∧ n ∉ heldSlots s (coreOf s s.cur)) ∧
      (b.lane ∉ traceLanes f s → b.place = .ended ∧ b.slot = none ∧ b.status = if traceBad f s = 0 then 2 else traceBad f s)
/-- The record area of a unit's request lies in the team's allocation. -/
def areaGood (f : FmtE) (s : State) (align rs : Nat) : Bool := !areaBad s (sreg (me s) f.d.toNat).toNat align rs
/-- A request has entered a path: no register but the path's counter has changed, and no byte of memory. -/
def requested (s t : State) (path : Nat) : Prop :=
  t = { s with groups := t.groups, seq := t.seq, ops := t.ops, quay := t.quay, units := t.units } ∧ othersKept s t ∧ movesOn s t ∧
    registers (grp t s.cur) = { registers (me s) with counters := raised (some path) (me s).counters }

/-- Values of a `rast`: its continuation word, its scissor words and its triangle. -/
def rastK (f : FmtE) (s : State) : Nat := (sreg (me s) f.c.toNat).toNat
def rastGiven (f : FmtE) (s : State) : Option RastTri :=
  rastTri ((List.range 9).map (fun i => (sreg (me s) (f.a.toNat + i)).toNat)) (sreg (me s) f.b.toNat).toNat
    (sreg (me s) (f.b.toNat + 1)).toNat
/-- The arguments of a `rast` are in range (R442). -/
def rastGood (f : FmtE) (s : State) : Bool :=
  let k := rastK f s
  let s1 := (sreg (me s) (f.b.toNat + 1)).toNat
  bitField k 30 2 != 2 && (bitField k 30 2 != 0 || k == 0) && decide (bitField s1 0 16 ≤ 32768) && decide (bitField s1 16 16 ≤ 32768)
/-- The scissor of a `rast` is empty. -/
def rastShut (f : FmtE) (s : State) : Bool := scissorEmpty (sreg (me s) f.b.toNat).toNat (sreg (me s) (f.b.toNat + 1)).toNat
/-- Where the walk of a `rast` starts; none: it has no position to examine. -/
def rastFrom (f : FmtE) (s : State) (r : RastTri) : Option (Nat × Nat) :=
  if bitField (rastK f s) 30 2 = 0 ∨ rastShut f s = true then rastFirst r else some (rastPosition (rastK f s))
/-- The position of a `rast`'s continuation word lies in its triangle's samples. -/
def rastInside (f : FmtE) (s : State) (r : RastTri) : Bool :=
  let p := rastPosition (rastK f s)
  !r.isEmpty && decide (r.x0 ≤ p.1 ∧ p.1 ≤ r.x1 ∧ r.y0 ≤ p.2 ∧ p.2 ≤ r.y1)
/-- The acting group has a deferred error of cause 0x0A pending, and moves on. -/
def deferredHere (s t : State) (detail : Nat) (addr : Option Nat) : Prop :=
  onlyGroups s t ∧ movedOn s t ∧
    (grp t s.cur).pending = (me s).pending ++ [{ cause := 0x0A, detail, addr, since := some (timeOf s) }]
/-- Registers after a `rast` that gives no sample. -/
def rastFinished (f : FmtE) (s : State) : Registers :=
  { registers (me s) with
    exec := 0, sregs := (setSreg (f.c.toNat + 1) (BitVec.ofNat 32 noTile) (setSreg f.c.toNat 0xC0000000 (me s))).sregs }

/-- A command's status word and its landing after the count of n bytes: the status word holds st, the landing is counted with
`land_update`, and no other byte has changed (R256, R261). -/
def statusAndLanding (s t : State) (desc land st n : Nat) : Prop :=
  let u := landUpdate (rd s land 4) ((rd s (land + 4) 4 + n) % 2 ^ 32) (rd s (land + 8) 4)
  rd t (desc + 0x1C) 4 = st % 2 ^ 32 ∧ rd t land 4 = u.1 % 2 ^ 32 ∧ rd t (land + 4) 4 = u.2.1 % 2 ^ 32 ∧
    rd t (land + 8) 4 = u.2.2 % 2 ^ 32 ∧
    (∀ a, (a < desc + 0x1C ∨ desc + 0x20 ≤ a) → (a < land ∨ land + 12 ≤ a) → byteAt t.mem a = byteAt s.mem a) ∧
    ∀ h, registers (grp t h) = registers (grp s h)

/-- Only one barge changed. -/
def onlyBarge (s t : State) (b : Nat) : Prop := ∀ c, c ≠ b → bargeAt t c = bargeAt s c
/-- The request of an operation has one record less to land. -/
def recordLanded (s t : State) (o : Nat) : Prop := (op t o).records = (op s o).records - 1 ∧ (op t o).finished = (op s o).finished

/-- The payload of a `callq` in lane l for a unit. -/
def payloadOf (f : FmtE) (x : Group) (u l : Nat) : List Nat := (List.range (payloadCount u)).map (fun i => (vlane x (f.a.toNat + i) l).toNat)
/-- The call word, unit, tile and die of the acting group's `callq`. -/
def callWord (f : FmtE) (s : State) : Nat := (sreg (me s) f.b.toNat).toNat
def callTile (f : FmtE) (s : State) : Nat := if callUnit (callWord f s) < 2 then (sreg (me s) (f.c.toNat + 1)).toNat else 0
def callDie (f : FmtE) (s : State) : Nat :=
  if callUnit (callWord f s) < 2 then homeDie (callTile f s) else dieOfCore (coreOf s s.cur)
/-- The acting group's `callq` has sent its batch: one record for each active lane; a unit field of 3 answers each with status 0x05. -/
def calledOut (s t : State) (f : FmtE) : Prop :=
  let u := callUnit (callWord f s)
  ∃ o b, t.ops = s.ops ++ [o] ∧ o.kind = .records ∧ o.path = some 4 ∧ o.g = s.cur ∧ o.records = (activeLanes s s.cur).length ∧
    t.units = { s.units with batches := s.units.batches ++ [b] } ∧ b.op = s.ops.length ∧ b.kind = u ∧ b.die = callDie f s ∧
    b.word = callWord f s ∧ b.tile = callTile f s ∧ b.acq = acqOf f ∧ b.area = landingLoc s s.cur (sreg (me s) f.d.toNat).toNat ∧
    (u < 2 → b.token = (sreg (me s) f.c.toNat).toNat) ∧
    (u ≠ 3 → b.records = (activeLanes s s.cur).map (fun l => (l, payloadOf f (me s) u l)) ∧ b.returns = []) ∧
    (u = 3 → b.records = [] ∧ b.returns = (activeLanes s s.cur).map (fun l => (l, [5])))
/-- The unit of a batch is at its next record, and takes it. -/
def batchAt1 (s : State) (b lane : Nat) (p : List Nat) (rest : List (Nat × List Nat)) : Prop :=
  (batchAt s b).records = (lane, p) :: rest ∧ (rest.map (·.1)).all (· != lane) = true ∧ batchAcquired s (batchAt s b) = true ∧ calm s
/-- The batch's record of a lane has left it with a return record. -/
def answered (s t : State) (b lane : Nat) (rest : List (Nat × List Nat)) (words : List Nat) : Prop :=
  (batchAt t b).records = rest ∧ (batchAt t b).returns = (batchAt s b).returns ++ [(lane, words)] ∧
    ∀ h, registers (grp t h) = registers (grp s h)
/-- The node, the port and the bytes of the acting group's `enqr`. -/
def enqTarget (f : FmtE) (s : State) : Nat := (sreg (me s) f.a.toNat).toNat
def enqOff (f : FmtE) (s : State) : Nat := (sreg (me s) f.c.toNat).toNat
def enqLen (f : FmtE) : Nat := 16 * (f.op.toNat % 4 + 1)
/-- The acting group's `enqr` names a node with that port, and bytes of its team. -/
def enqGood (f : FmtE) (s : State) (n : Node) : Prop :=
  enqOff f s % 16 = 0 ∧ enqOff f s + enqLen f ≤ (teamOf s s.cur).allocSize ∧ enqTarget f s < 2 ^ 18 ∧
    bitField (enqTarget f s) 16 2 < n.ports ∧
    readNode s (gridOf s s.cur).ctx (gridOf s s.cur).privileged (bitField (enqTarget f s) 0 16) = (s, some n)
/-- Location of the payload of the acting group's `enqr`. -/
def enqLoc (f : FmtE) (s : State) : Nat := landingLoc s s.cur (enqOff f s)
/-- The operation of an `enqr` on its way to its table. Its payload has been read at issue, unless the read is held behind accesses of its
group to those bytes, or by an `mcas` (R336, R504). -/
def enqSent (s : State) (f : FmtE) (n : Node) (o : Op) : Prop :=
  o.g = s.cur ∧ o.stage = n.die ∧ o.size = enqLen f ∧ o.path = none ∧ o.finished = false ∧ o.lanes.map (·.addr) = [enqLoc f s] ∧
    ∃ p, o.kind = .enq (bitField (enqTarget f s) 0 16) (bitField (enqTarget f s) 16 2) (sreg (me s) f.b.toNat) p ∧
      (if laneIn o.performed 0 then p = readBytes s.mem (enqLoc f s) (enqLen f) else p = []) ∧
      ((∀ x ∈ s.ops, x.g = s.cur → x.finished = true) → unlocked s s.ops.length (enqLoc f s) (enqLen f) = true →
      laneIn o.performed 0 = true)

/-! ## Groups between instructions, in the active set and at their end (R42, R140, R318, R354, R409 to R416, R498, R499) -/

/-- No other group's registers changed. -/
def restKept (s t : State) (g : Nat) : Prop := ∀ h, h ≠ g → registers (grp t h) = registers (grp s h)

/-- Group g has entered its handler; no other group changed. -/
def handled (s t : State) (g cause detail : Nat) (addr : Option Nat) : Prop :=
  restKept s t g ∧ (grp t g).pc = (grp s g).trapbase ∧ registers (grp t g) = entered (grp s g) cause detail addr

/-- Group g can act, and neither a double fault nor a failed slot write waits for its boundary. -/
def atBoundary (s : State) (g : Nat) : Bool := runnable s g && (grp s g).doomed.isNone && (grp s g).slotFault.isNone

/-- A pending group of a core's partition whose next instruction could issue. -/
def readyPending (s : State) (core part g : Nat) : Prop :=
  g ∈ partitionGroups s core part ∧ (grp s g).active = false ∧ pendingReady s g = true

/-- The issue of a group has ended: no lane is live, and R42 follows. -/
def issueEnded (t : State) (g : Nat) : Prop :=
  (grp t g).live = 0 ∧ (grp t g).exec = 0 ∧ (grp t g).ending = true ∧ (grp t g).halted = false

/-! ## Teams (R35, R39, R43, R340, R345, R346, R350 to R353, R357, R358, R418) -/

/-- A grid's turn has come to place its next team, which is neither its first nor of a co-resident grid, no projection is made, and a slot of
its pool is free. -/
def placesNow (s : State) (i slot : Nat) : Prop :=
  (grid s i).pq = none ∧ placeTurn s i = true ∧ memoryFree s = true ∧ unwatched s ∧ s.bar.hot = false ∧
    (grid s i).parent = none ∧ (grid s i).phase = .running ∧
    0 < (grid s i).placed ∧ (grid s i).placed < (grid s i).nteams ∧ (grid s i).deadline = 0 ∧ freeSlot s i = some slot

/-- Team number t of the state, of grid i, has started on a core as Table 2-5 gives (R39): the groups after the first n of the module are
its own, each with its lanes, the entry point and the argument words; its scratchpad is zero. -/
def startedTeam (s t : State) (i n entry : Nat) (h : Header) : Prop :=
  let x := team t s.teams.length
  t.teams.length = s.teams.length + 1 ∧ x.grid = i ∧ x.teamid = (grid s i).placed ∧ x.phase = .resident ∧ x.entry = entry ∧
    t.groups.length = n + (groupPlan h (grid s i).width).length ∧
    (∀ g, g < n → grp t g = grp s g) ∧
    (∀ k p, (groupPlan h (grid s i).width)[k]? = some p → let y := grp t (n + k)
      y.team = s.teams.length ∧ y.gid = k ∧ y.role = p.1 ∧ y.launched = p.2.1 ∧ y.live = widthMask p.2.1 ∧ y.exec = widthMask p.2.1 ∧
        y.pc = mkPc entry 0 ∧ y.fpctl = (grid s i).fpctl ∧ y.fpflags = 0 ∧ y.counters = {} ∧ y.vregs = [] ∧
        ∀ r, sreg y r = (argWords h (grid s i).args).getD r 0) ∧
    ∀ o, o < x.allocSize → byteAt t.mem (locTeam x.core x.allocBase + o) = 0

/-- A team whose groups have all ended has nothing left to wait for: no stream, no engine command, no access, no entry to drain. -/
def canRetire (s : State) (t : Nat) : Prop :=
  t < s.teams.length ∧ (team s t).phase = .resident ∧ groupsOf s t ≠ [] ∧ (∀ g ∈ groupsOf s t, (grp s g).ended = true) ∧
    runOfTeam s t = none ∧ teamQuiet s t = true ∧ drainOrder s t = [] ∧ (team s t).grid < s.grids.length ∧
    (grid s (team s t).grid).parent = none ∧ (grid s (team s t).grid).deadline = 0

/-- A team holds nothing any longer (R43). -/
def retiredTeam (s t : State) (x : Nat) : Prop :=
  (team t x).phase = .retired ∧ (∀ k, k < 16 → flight t (16 * x + k) = {}) ∧ (∀ p ∈ t.sync.windows, p.2.map (·.team) ≠ some x) ∧
    (grid t (team s x).grid).retired = (grid s (team s x).grid).retired + 1 ∧ ∀ h, registers (grp t h) = registers (grp s h)

/-- The balancer of a die steps (R351). -/
def balances (s : State) (d : Nat) : Bool :=
  decide (d < 4) && (match (dieReach s d).stepped with
    | none => true
    | some t => decide (t + 20000 ≤ timeOf s))

/-- The die's balancer has stepped to a target: it marks one core unless one is marked (R350, R351). -/
def balanced (s t : State) (d target : Nat) : Prop :=
  let x := dieReach s d; let y := dieReach t d
  keepsAll s t ∧ y.target = target ∧ y.bound = x.bound ∧ y.stepped = some (timeOf s) ∧
    y.mark = (if x.mark.isSome then x.mark else if target < x.bound then some (x.bound - 1, timeOf s)
      else if x.bound < target then some (x.bound, timeOf s) else none)

/-- The save area of a team that has taken its room, as it is read back. -/
def areaRead (s : State) (t : Nat) : State × Except AccErr (List Byte) :=
  let s1 := takeRoom s t; let x := team s1 t
  readSpan s1 (areaSpace s1 t) (teamRegion s1 t) (areaScratch x + x.allocSize + x.allocSize / 32)
/-- A parked team of one open group that holds no scratchpad, no tile and no stream resumes from its image b, in which it has live lanes and waits
neither on a flight nor on an address. -/
def resumesAlone (s : State) (t g : Nat) (b : List Byte) : Prop :=
  let s1 := takeRoom s t
  (team s t).allocSize = 0 ∧ (team s t).tileMap = [] ∧ runOfTeam s t = none ∧ openGroups s t = [g] ∧ (grp s g).ending = false ∧
    (∃ a, areaRead s t = (s1, .ok a) ∧ areaOk (team s1 t) a = true) ∧
    readSpan s1 (backSpace s1 g) (grp s g).backing imageSize = (s1, .ok b) ∧ imageOk s1 g b = true ∧ recField b 0x20 8 ≠ 0 ∧
    bitField (recField b 8 4) 4 5 ≠ 1 ∧ bitField (recField b 8 4) 4 5 ≠ 4

/-! ## Command queues (R338, R341, R343, R347, R351, R353, R362) -/

/-- Queue q may start the command at its ring index i: c, of a kind, with every reserved field zero. -/
def commandDue (s : State) (q i kind : Nat) (c : Command) : Prop :=
  mayStart s q i = true ∧ ∃ b, headCommand s q = (s, .ok b) ∧ recField b 0 1 = kind ∧ commandPlain b = true ∧ c = commandOf q i b

/-- Only one queue changed. -/
def onlyQueue (s t : State) (q : Nat) : Prop := ∀ p, p ≠ q → queueAt t p = queueAt s p

/-- Command c of queue q has started: the head has moved on, modulo the ring's size, and c is last of the commands under way. -/
def began (s t : State) (q : Nat) (c : Command) : Prop :=
  queueAt t q = { queueAt s q with head := ((queueAt s q).head + 1) % 2 ^ (queueAt s q).size } ∧ onlyQueue s t q ∧
    t.launch.commands = s.launch.commands ++ [c] ∧ ∀ h, registers (grp t h) = registers (grp s h)

/-- The state in which a command's own effect begins. -/
def begun (s : State) (q : Nat) (c : Command) : State := startCommand s q c

/-! ## The host's registers (R351, R361 to R364, R371, R376, R380, R397 to R407, R449, R495 to R501) -/

/-- What the acknowledgement of a reload leaves at the words of a table: 8 bytes at `ack` hold v, `n` bytes at `rec` are zero, and every other
byte is as before. -/
def acknowledged (s t : State) (ack v rec n : Nat) : Prop :=
  (∀ i, i < 8 → byteAt t.mem (ack + i) = (toBytesLE 8 v).getD i 0) ∧ (∀ i, i < n → byteAt t.mem (rec + i) = 0) ∧
    ∀ a, (a < ack ∨ ack + 8 ≤ a) → (a < rec ∨ rec + n ≤ a) → byteAt t.mem a = byteAt s.mem a

/-- A root entry as it stands in the configuration region (R112, R364): 0 when it is not present. -/
def rootAt (s : State) (c : Nat) : Nat :=
  let x := rd s (s.bar.cfgbase + 0x10000 + 8 * c) 8
  if bitOf x 0 && bitField x 1 11 == 0 && bitField x 52 12 == 0 then x else 0

/-- A breakpoint entry of the mailbox at b (Table 29-4): PC value and group, when it is enabled and its reserved fields are zero. -/
def breakAt (s : State) (b n : Nat) : Option (DWord × Nat) :=
  let pc := rd s (b + 0x40 + 16 * n) 8
  let ctl := rd s (b + 0x48 + 16 * n) 8
  if bitField pc 57 3 = 0 ∧ ctl < 2 ^ 9 ∧ bitOf ctl 8 then some (BitVec.ofNat 64 pc, ctl % 256) else none

/-- Nothing but the host's answer differs. -/
def onlyReply (s t : State) : Prop := t = { s with bar := { s.bar with reply := t.bar.reply } }

/-! ## Camtos (R365 to R369, R483 to R486) -/

/-- Port p, whose sender waits for nothing, has sent flit f, with the next sequence number and its CRC; no other port changed (R365, R367). -/
def linkSent (s t : State) (p f : Nat) : Prop :=
  portAt t p = sendFlit (timeOf s) (portAt s p) f ∧ ∀ r, r ≠ p → portAt t r = portAt s r

/-- Port p can send a flit on a virtual channel at once. -/
def canSend (s : State) (p vc : Nat) : Prop :=
  (portAt s p).state = 0 ∧ (portAt s p).waiting = [] ∧ (portAt s p).turns = [] ∧
    (portAt s p).replay.length < 1024 ∧ (portAt s p).used.getD vc 0 < 256

/-- An accepted command head for this device from a source that is enabled, with no order bit: it can be taken in. -/
def commandHead (s : State) (p i oper f : Nat) : Prop :=
  rxFlit s p i 0 = some f ∧ flitField f 0 1 = oper ∧ bitField f 24 6 = s.deviceId ∧ bitOf (flitField f 12 1) 0 = false ∧
    sourceEnabled s (flitField f 1 1) = true

/-- The response of Table 18-12 to the source of a head. -/
def answerTo (s : State) (f status performed : Nat) : Nat :=
  mkFlit 2 1 (flitField f 1 1) 3 (status + s.deviceId * 2 ^ 8 + flitField f 2 2 * 2 ^ 16 + performed * 2 ^ 32)

/-- The route to the source of a head is up and its port can send. -/
def answerable (s : State) (f : Nat) : Prop := routeUp s (flitField f 1 1) = true ∧ canSend s (routeOf s (flitField f 1 1)) 1

/-- Only one port changed, and nothing outside the ports. -/
def onlyPort (s t : State) (p : Nat) : Prop :=
  t = { s with fabric := { s.fabric with ports := t.fabric.ports } } ∧ ∀ r, r ≠ p → portAt t r = portAt s r

/-- The commands sent on port p that had no answer have ended with status 5 (R484). -/
def linkFailed (s t : State) (p : Nat) : Prop :=
  (portAt t p).state = 2 ∧ ∀ (k : Nat) (r : Remote), s.fabric.remotes[k]? = some r → r.port = p → r.answered = none →
    ((t.fabric.remotes[k]?).map Remote.answered) = some (some 5)

/-! ## Time and display (R370 to R374, R446, R490, R491) -/

/-- Control word, release time and retire word of a `frel`. -/
def frelWord (f : FmtE) (x : Group) : Nat := (sreg x f.a.toNat).toNat
def frelTime (f : FmtE) (x : Group) : Nat := (spair x f.b.toNat).toNat
def frelRetire (f : FmtE) (x : Group) : Nat := (spair x f.c.toNat).toNat

/-- Every output of a list is enabled, and owned by a context. -/
def ownsAll (s : State) (ctx : Nat) (os : List Nat) : Prop :=
  ∀ o ∈ os, (outputAt s o).enabled = true ∧ blockOwner (outputAt s o).live = ctx

/-- `frel` of group g is in order (R373, R446): its control word, its outputs, its binding and its retire word, against the blocks in effect. -/
def frelGood (f : FmtE) (s : State) (g : Nat) (retire : Option (Nat × Bool)) : Prop :=
  let w := frelWord f (grp s g); let os := namedOutputs (w % 16)
  w < 2 ^ 10 ∧ os ≠ [] ∧ ownsAll s (gridOf s g).ctx os ∧
    (∀ o ∈ os, scannable (scanBinding s (w / 16 % 64)) (outputAt s o).live = true) ∧
    retireWord (actAs s g) (frelRetire f (grp s g)) = (actAs s g, .ok retire)

/-- The entry has been appended to every named output's pending list, and nothing else of any output changed. -/
def appended (f : FmtE) (s t : State) (g : Nat) (retire : Option (Nat × Bool)) : Prop :=
  let w := frelWord f (grp s g); let os := namedOutputs (w % 16)
  ∃ e : Release, e.binding = w / 16 % 64 ∧ e.time = frelTime f (grp s g) ∧ e.retire = retire ∧ e.appended = timeOf s ∧
    e.acq.isSome = (acqOf f).isSome ∧
    ∀ o, outputAt t o = if o ∈ os then { outputAt s o with pending := (outputAt s o).pending ++ [e] } else outputAt s o

/-- An output that is enabled starts a frame now, and what its acquire awaits has been performed. -/
def frameDue (s : State) (o : Nat) : Prop :=
  (outputAt s o).enabled = true ∧ startsNow (outputAt s o) (timeOf s) = true ∧
    ∀ e, latestDue ((outputAt s o).pending.filter (dueAt (timeOf s))) = some e → releaseAcquired s e = true

/-- Words of an output block after the low word `v` of a register at word i, and the block of output o otherwise as before. -/
def blockWritten (s t : State) (o i v : Nat) : Prop :=
  ∀ j, blockWord (outputAt t o).words j = if j = i then v &&& blockMask i else blockWord (outputAt s o).words j

/-! ## Porman (R20, R23, R111, R375, R376, R378, R379, R405 to R407) -/

/-- The module is ready after steps 2 to 5 of R375: P is a size of R107, fixed from the first bring-up on, G of each die lies in its range, and
the configuration region, the debug mailbox and the spill areas of their stack are reserved apart from each other. -/
def broughtUp (s t : State) : Prop :=
  t.ready = true ∧ t.bar.damaged = false ∧ t.bar.brought = true ∧
    (if s.bar.brought then t.poundSize = s.poundSize else t.poundSize ∈ [0, 2 ^ 31, 2 ^ 32, 2 ^ 33]) ∧
    (∀ d, d < 4 → (dieReach t d).bound ≤ 288 ∧ (dieReach t d).mark = none) ∧ t.bar.cfgbase % 32768 = 0 ∧
    let run := 32768 * mapGet 0 t.bar.reserved 0; let size := 32768 * reservedRun
    (run + size ≤ t.bar.cfgbase ∨ t.bar.cfgbase + 98304 ≤ run) ∧
    ∃ b, t.dbg.base = some b ∧ b % 32768 = 0 ∧ (b + 32768 ≤ t.bar.cfgbase ∨ t.bar.cfgbase + 98304 ≤ b) ∧
      (run + size ≤ b ∨ b + 32768 ≤ run)

/-- The outcome of a calibration of a unit whose failures are counted at a key (R405): a second failure in succession and a success after a
failure each have a record. -/
def calibrated (s t : State) (key detail : Nat) (ok : Bool) : Prop :=
  let n := mapGet 0 s.bar.calFailed key
  mapGet 0 t.bar.calFailed key = (if ok = false ∧ n = 0 then 1 else 0) ∧
    (∀ k, k ≠ key → mapGet 0 t.bar.calFailed k = mapGet 0 s.bar.calFailed k) ∧
    (n ≠ 0 → recorded s t (if ok then 0x0603 else 0x0604) (if ok then 0 else 1) detail)

end Sys2Proof.Claims

open Sys2Proof Sys2Proof.Machine Sys2Proof.Claims

/-- Every uniform instruction that issues completes: it writes the values of Tables 9-3 and 9-4 to its destination, no other register of
any group, no flag and no byte of memory changes, and the pc moves on; so the immediate forms, `sli`, `sldk` inside the argument block,
and `srd` of a register there is (R179 to R186). -/
def Obligations.UniformInstructionsWriteTheirResults : Prop :=
  (∀ r ∈ arithT, ∀ f s, issues none true (r.instr f) s = true → r.holds f s = true →
     ∃ t, exec (r.instr f) s = .next t ∧ wrote s t (r.writes f s)) ∧
  (∀ r ∈ arithI, ∀ f s, issues none true (r.instr f) s = true → r.holds f s = true →
     ∃ t, exec (r.instr f) s = .next t ∧ wrote s t (r.writes f s))

/-- The mask instructions that write uniform registers (R187).
The mask instructions that write exec: it receives the value AND the live mask; nothing else of the group changes (R28, R187).
`swr` of a register there is (R186). -/
def Obligations.MasksAndSystemRegisters : Prop :=
  ((∀ r ∈ maskPairs, ∀ f s, issues none true (r.instr f) s = true → r.holds f s = true →
      ∃ t, exec (r.instr f) s = .next t ∧ wrote s t (r.writes f s)) ∧
   (∀ r ∈ maskExecs, ∀ f s, issues none true (r.1 f) s = true → r.2.1 f s = true →
      ∃ t, exec (r.1 f) s = .next t ∧ groupOnly s t ∧
        registers (grp t s.cur) = { registers (me s) with exec := r.2.2 f s &&& (me s).live })) ∧
  (∀ f s, issues none true (.swr f) s = true → (sysRead s s.cur f.imm.toNat).isSome = true →
     ∃ t, exec (.swr f) s = .next t ∧ groupOnly s t ∧
       registers (grp t s.cur) = systemWritten f.imm.toNat (widthMask (widthOf s s.cur)) (systemValue f s) (registers (me s)))

/-- A branch that is taken to a good target moves control there and changes no register; one that is not taken moves on; one with a bad
target traps with cause 0x0C before it has any effect (R189, R424).
`call` writes the address after its clause to the link pair, raises the spill pointer by the frame size and moves to its target;
`ret` with a PC value that R142 accepts lowers the spill pointer and continues there (R190, R191). -/
def Obligations.BranchesCallsAndReturns : Prop :=
  (∀ b ∈ branches, ∀ f s, issues none true (b.1 f) s = true →
     (b.2.1 f s = true → goodTarget (b.2.2 f s) = true →
       ∃ t, exec (b.1 f) s = .next t ∧ movedTo s t (b.2.2 f s) (registers (me s))) ∧
     (b.2.1 f s = false → ∃ t, exec (b.1 f) s = .next t ∧ groupOnly s t ∧ registers (grp t s.cur) = registers (me s)) ∧
     (b.2.1 f s = true → goodTarget (b.2.2 f s) = false → hasHandler s s.cur = true →
       ∃ t, exec (b.1 f) s = .next t ∧ registers (grp t s.cur) = entered (me s) 0x0C 0 (some (b.2.2 f s).toNat) ∧
         (grp t s.cur).pc = (me s).trapbase)) ∧
  ((∀ f s, issues none true (.call f) s = true → goodTarget (callTarget f s) = true →
     ∃ t, exec (.call f) s = .next t ∧
       movedTo s t (callTarget f s) { registers (me s) with
         sregs := (setSpair f.d.toNat (mkPc (after s) 0) (me s)).sregs, spill := (me s).spill + (iA f s).zeroExtend 64 }) ∧
   (∀ f s, issues none true (.ret f) s = true → checkPc s s.cur (spair (me s) f.a.toNat) = .good →
     ∃ t, exec (.ret f) s = .next t ∧ (sound s ∨ pcIndex (spair (me s) f.a.toNat) = 0 → onlyGroups s t ∧ sameMemory s t) ∧
       othersKept s t ∧ (grp t s.cur).pc = spair (me s) f.a.toNat ∧
       registers (grp t s.cur) = { registers (me s) with spill := (me s).spill - (uB f s).zeroExtend 64 }))

/-- `loop` with a live count opens a loop register and goes to the clause after it; with a count of zero it skips the body. The check
after a clause's last instruction takes the innermost loop's back edge while its count is above 1. `lbrk` closes the innermost live
loop when its condition holds. Live loop registers form a prefix (R193 to R195). -/
def Obligations.LoopsOpenAndClose : Prop :=
  (∀ f s, let k := liveLoops (me s)
    issues none true (.loop f) s = true → k < 4 → (after s : Int) ≤ loopEndOf f s → iA f s ≠ 0 → loopEndOf f s < 2 ^ 57 →
    (clauseOf (me s)).count ≤ pcIndex (me s).pc + 1 → (∀ n, k ≤ n → n < 4 → (loopReg (me s) n).count = 0) →
    ∃ t, exec (.loop f) s = .next t ∧ movedTo s t (mkPc (after s) 0) (registers (me s)) ∧
      loopReg (grp t s.cur) k = { start := mkPc (after s) 0, stop := BitVec.ofNat 64 (loopEndOf f s).toNat, count := iA f s } ∧
      ∀ n, n < 4 → n ≠ k → loopReg (grp t s.cur) n = loopReg (me s) n) ∧
  (∀ f s w, issues none true (.loop f) s = true → sound s → liveLoops (me s) < 4 → (after s : Int) ≤ loopEndOf f s → iA f s = 0 →
    fetch s s.cur (loopEndOf f s).toNat = some w → headerOk s s.cur (loopEndOf f s).toNat w = true →
    ∃ t, exec (.loop f) s = .next t ∧
      movedTo s t (mkPc (nextClause (loopEndOf f s).toNat (headerOf w).count) 0) (registers (me s))) ∧
  (∀ f s k, issues none true (.nop f) s = true → liveLoops (me s) = k + 1 → (clauseOf (me s)).count ≤ pcIndex (me s).pc + 1 →
    (loopReg (me s) k).stop.toNat = pcHeader (me s).pc → 1 < (loopReg (me s) k).count.toNat →
    ∃ t, exec (.nop f) s = .next t ∧ movedTo s t (loopReg (me s) k).start (registers (me s)) ∧
      (loopReg (grp t s.cur) k).count = (loopReg (me s) k).count - 1 ∧
      ∀ n, n < 4 → n ≠ k → loopReg (grp t s.cur) n = loopReg (me s) n) ∧
  (∀ f s, issues none true (.lbrk f) s = true → pcIndex (me s).pc + 1 < (clauseOf (me s)).count →
    ∃ t, exec (.lbrk f) s = .next t ∧ onlyGroups s t ∧ othersKept s t ∧ registers (grp t s.cur) = registers (me s) ∧
      (breaks f s = true → ∀ k, liveLoops (me s) = k + 1 → (loopReg (grp t s.cur) k).count = 0) ∧
      (breaks f s = false → ∀ k, loopReg (grp t s.cur) k = loopReg (me s) k))

/-- `exit` removes its active lanes from exec and from the live mask; when no live lane is left the group is ending (R197).
`nop`, `yield` and `sleep` change no register. Inside its clause `yield` and `sleep` only note what follows the clause; as the last
instruction of its clause a `sleep` of t clocks, t not zero, takes the group out of the active set until t clocks have passed (R198,
R199). -/
def Obligations.ExitEndsLanesHintsDoNothing : Prop :=
  (∀ f s, issues none true (.exit f) s = true →
     ∃ t, exec (.exit f) s = .next t ∧ onlyGroups s t ∧ sameMemory s t ∧ othersKept s t ∧
       (grp t s.cur).live = (me s).live &&& ~~~ activeMask s s.cur ∧
       ((me s).live &&& ~~~ activeMask s s.cur ≠ 0 →
         registers (grp t s.cur) = { registers (me s) with
           exec := (me s).exec &&& ~~~ activeMask s s.cur, live := (me s).live &&& ~~~ activeMask s s.cur }) ∧
       ((me s).live &&& ~~~ activeMask s s.cur = 0 → (grp t s.cur).ending = true ∧ (grp t s.cur).exec = 0)) ∧
  ((∀ f s, issues none true (.nop f) s = true →
     ∃ t, exec (.nop f) s = .next t ∧ groupOnly s t ∧ registers (grp t s.cur) = registers (me s)) ∧
   (∀ f s, issues none true (.yield f) s = true →
     ∃ t, exec (.yield f) s = .next t ∧ groupOnly s t ∧ registers (grp t s.cur) = registers (me s) ∧
       (pcIndex (me s).pc + 1 < (clauseOf (me s)).count →
         ((grp t s.cur).yielding.find? (fun p => p.1 == pcHeader (me s).pc)).isSome = true)) ∧
   (∀ f s, issues none true (.sleep f) s = true →
     ∃ t, exec (.sleep f) s = .next t ∧ groupOnly s t ∧ registers (grp t s.cur) = registers (me s) ∧
       (∀ n, ((if f.ka = 1 then sreg (me s) f.a.toNat else 0) + f.imm).toNat = n + 1 →
         (me s).yielding.find? (fun p => p.1 == pcHeader (me s).pc) = none → (clauseOf (me s)).count ≤ pcIndex (me s).pc + 1 →
         (grp t s.cur).sleepUntil = s.clock + (n + 1) ∧ (grp t s.cur).active = false)))

/-- Trap entry is one event (R410): the trap registers are written, exec becomes the live mask, the pc the handler's address, intrap is
set, and every other register keeps its value.
A cause raised inside a handler halts the group: its state word's halted bit is set, it issues no more, and the trap registers keep
the values of the first trap (R413). -/
def Obligations.TrapEntrySavesAndEnters : Prop :=
  (∀ s g d, hasHandler s g = true →
     registers (grp (takeTrapBy s g d) g) = entered (grp s g) d.cause d.detail d.addr ∧
       (grp (takeTrapBy s g d) g).pc = (grp s g).trapbase ∧
       ∀ h, h ≠ g → registers (grp (takeTrapBy s g d) h) = registers (grp s h)) ∧
  (∀ s g d, g < s.groups.length → (grp s g).intrap = true →
     registers (grp (takeTrapBy s g d) g) = { registers (grp s g) with halted := true } ∧ canIssue (takeTrapBy s g d) g = false)

/-- `bkpt` and `trap` enter the handler: `bkpt` with cause 0x02 before the instruction, `trap` with cause 0x03 and `%trappc` naming the
next clause. With a handler neither writes a record, so nothing outside the groups changes (R200, R201, R400, R410). -/
def Obligations.SoftwareTrapsEnterTheHandler : Prop :=
  (∀ f s, issues none true (.bkpt f) s = true → hasHandler s s.cur = true →
    ∃ t, exec (.bkpt f) s = .next t ∧ onlyGroups s t ∧ sameMemory s t ∧ othersKept s t ∧
      registers (grp t s.cur) = entered (me s) 2 f.op.toNat none ∧ (grp t s.cur).pc = (me s).trapbase) ∧
  (∀ f s, issues none true (.trap f) s = true → hasHandler s s.cur = true →
    ∃ t, exec (.trap f) s = .next t ∧ onlyGroups s t ∧ sameMemory s t ∧ othersKept s t ∧
      registers (grp t s.cur) = { entered (me s) 3 (f.imm.toNat % 65536) none with trappc := mkPc (after s) 0 } ∧
      (grp t s.cur).pc = (me s).trapbase)

/-- `trapret` in a handler clears intrap, restores exec from `%trapexec` AND the live mask, and continues at `%trappc`; a `%trappc` that R142
rejects, that names no clause header, or whose header cannot be fetched, is a fault inside the handler, which halts the group (R413). Outside
a handler `trapret` is an illegal instruction with detail 0x0203 (R412). -/
def Obligations.TrapReturnRestores : Prop :=
  (∀ f s, issues none true (.trapret f) s = true → (me s).intrap = true → returnCheck s s.cur (me s).trappc = .good →
    ∃ t, exec (.trapret f) s = .next t ∧ (grp t s.cur).pc = (me s).trappc ∧ othersKept s t ∧
      registers (grp t s.cur) = { registers (me s) with intrap := false, exec := (me s).trapexec &&& (me s).live }) ∧
  (∀ f s, issues none true (.trapret f) s = true → (me s).intrap = true → returnCheck s s.cur (me s).trappc ≠ .good →
    ∃ t, exec (.trapret f) s = .next t ∧ (grp t s.cur).pc = (me s).pc ∧ othersKept s t ∧
      registers (grp t s.cur) = { registers (me s) with halted := true } ∧
      recorded s t 0x01F0 2 (if returnCheck s s.cur (me s).trappc = .noFetch then 7 else 0x0C)) ∧
  (∀ f s, issues none true (.trapret f) s = true → hasHandler s s.cur = true →
    ∃ t, exec (.trapret f) s = .next t ∧ othersKept s t ∧ registers (grp t s.cur) = entered (me s) 1 0x0203 none)

/-- The words of the unallocated group opcodes, and no others, are fetched as no instruction of the map: each takes the illegal-instruction
trap with detail 0x0100 plus its opcode, on compute and quay cores (R171). An instruction with an operand or field that its description
does not admit takes that trap on a compute core before it issues, whatever exec holds, with the detail of its operand, and has no other
effect. -/
def Obligations.IllegalInstructionsTrap : Prop :=
  (∀ i s sg d, sigOf (widthOf s s.cur) i = some sg → canIssue s s.cur = true → isQuayCore (coreOf s s.cur) = false →
     sigDetail (me s).budget (uniCount s s.cur) sg = some d → exec i s = .next (takeTrap s s.cur 1 d none)) ∧
  (∀ w, instrOf w = .unallocatedOpcode w ↔
     unallocated.any (fun r => decide (r.1 ≤ opcodeOf w) && decide (opcodeOf w ≤ r.2)) = true) ∧
  (∀ w s, canIssue s s.cur = true → exec (.unallocatedOpcode w) s = .next (takeTrap s s.cur 1 (0x0100 + opcodeOf w) none)) ∧
  (∀ w s, canIssue s s.cur = true → hasHandler s s.cur = true →
     ∃ t, exec (.unallocatedOpcode w) s = .next t ∧
       registers (grp t s.cur) = entered (me s) 1 (0x0100 + opcodeOf w) none ∧ (grp t s.cur).pc = (me s).trapbase ∧
       ∀ h, h ≠ s.cur → registers (grp t h) = registers (grp s h))

/-- Vector integer instructions, their immediate forms and `vli` write the value of Table 10-3 to every active lane and nothing else: no
flag, no inactive lane, no other register, no byte of memory (R204, R206, R208, R209, R211 to R214). -/
def Obligations.VectorIntegerWritesActiveLanes : Prop :=
  (∀ r ∈ integerT, ∀ f s, issues none (r.quay f) (r.instr f) s = true →
     ∃ t, exec (r.instr f) s = .next t ∧ lanesWrote s t (r.dest f).toNat (r.regs f) (r.value f s) 0) ∧
  (∀ r ∈ integerI, ∀ f s, issues none (r.quay f) (r.instr f) s = true →
     ∃ t, exec (r.instr f) s = .next t ∧ lanesWrote s t (r.dest f).toNat (r.regs f) (r.value f s) 0)

/-- Vector floating-point instructions and their immediate forms write their rounded results to every active lane and take the events they
meet into `%fpflags`, when no event they meet is enabled, or when the instruction belongs to a pair, whose trap comes after both members
(R152, R205 to R207, R215 to R220). -/
def Obligations.VectorFloatWritesLanesAndFlags : Prop :=
  (∀ r ∈ floatT, ∀ f s, issues none (r.quay f) (r.instr f) s = true →
     ((me s).pairing ≠ .alone ∨ r.met f s &&& (me s).trapen.toNat = 0) →
     ∃ t, exec (r.instr f) s = .next t ∧ lanesWrote s t (r.dest f).toNat (r.regs f) (r.value f s) (r.met f s)) ∧
  (∀ r ∈ floatI, ∀ f s, issues none (r.quay f) (r.instr f) s = true →
     ((me s).pairing ≠ .alone ∨ r.met f s &&& (me s).trapen.toNat = 0) →
     ∃ t, exec (r.instr f) s = .next t ∧ lanesWrote s t (r.dest f).toNat (r.regs f) (r.value f s) (r.met f s))

/-- An event that a floating-point instruction alone in its issue meets and `%trapen` enables is an arithmetic trap after the
instruction: results and flags are written, and `%trapcause` names the enabled events met (R207, R410). -/
def Obligations.EnabledEventTrapsAfterResults : Prop :=
  (∀ r ∈ floatT, ∀ f s, issues none (r.quay f) (r.instr f) s = true → (me s).pairing = .alone →
    r.met f s &&& (me s).trapen.toNat ≠ 0 → hasHandler s s.cur = true →
    ∃ t, exec (r.instr f) s = .next t ∧ arithmeticTrap r f s t) ∧
  (∀ r ∈ floatI, ∀ f s, issues none (r.quay f) (r.instr f) s = true → (me s).pairing = .alone →
    r.met f s &&& (me s).trapen.toNat ≠ 0 → hasHandler s s.cur = true →
    ∃ t, exec (r.instr f) s = .next t ∧ arithmeticTrap r f s t)

/-- A compare writes its mask pair, an active lane's bit by the condition and every other bit 0, and sets no flag (R210).
`vaddc` adds with the carry mask in sc, writes the low 32 bits of every active lane, and sc receives the carries out, 0 for inactive
lanes (R213). -/
def Obligations.ComparesAndCarriesWriteMasks : Prop :=
  ((∀ r ∈ compareT, ∀ f s, issues none r.quay (r.instr f) s = true →
     ∃ t m, exec (r.instr f) s = .next t ∧ wrote s t (two (r.dest f) m) ∧ masks s (r.cond f s) m) ∧
   (∀ r ∈ compareI, ∀ f s, issues none r.quay (r.instr f) s = true →
     ∃ t m, exec (r.instr f) s = .next t ∧ wrote s t (two (r.dest f) m) ∧ masks s (r.cond f s) m)) ∧
  (∀ f s, issues none true (.vaddc f) s = true →
     ∃ t m, exec (.vaddc f) s = .next t ∧ masks s (fun l => decide (2 ^ 32 ≤ addcSum (me s) f l)) m ∧ groupOnly s t ∧
       (∀ l, l < 64 → laneIn (activeMask s s.cur) l = true →
         vlane (grp t s.cur) f.d.toNat l = BitVec.ofNat 32 (addcSum (me s) f l)) ∧
       (∀ n l, l < 64 → (n ≠ f.d.toNat ∨ laneIn (activeMask s s.cur) l = false ∧ backed (me s) n = false) →
         vlane (grp t s.cur) n l = vlane (me s) n l) ∧
       registers (grp t s.cur) = { registers (me s) with vregs := (grp t s.cur).vregs,
                                                         sregs := (setSpair f.c.toNat m (me s)).sregs })

/-- `cvt` to a type that is not MX converts one element in every active lane; to an MX type it converts whole blocks of 32 elements,
whose codes go to the active lanes and whose scales to sc (R222 to R225). -/
def Obligations.ConvertsElementsAndBlocks : Prop :=
  (∀ f s, cvtMx (f.op.toNat / 16) = false → issues none (convertRow.quay f) (.cvt f) s = true →
    ((me s).pairing ≠ .alone ∨ convertRow.met f s &&& (me s).trapen.toNat = 0) →
    ∃ t, exec (.cvt f) s = .next t ∧
      lanesWrote s t f.d.toNat (convertRow.regs f) (convertRow.value f s) (convertRow.met f s)) ∧
  (∀ f s, let w := widthOf s s.cur
    let blk (k : Nat) := mxEncode (fmtOfCode (f.op.toNat / 16)) (mxValues (me s) f w (activeMask s s.cur) k)
    let met := (blk 0).2.2 ||| (if w = 64 then (blk 1).2.2 else 0)
    cvtMx (f.op.toNat / 16) = true → issues none true (.cvt f) s = true → (w = 8 ∨ w = 16 ∨ w = 32 ∨ w = 64) →
    ((me s).pairing ≠ .alone ∨ met &&& (me s).trapen.toNat = 0) →
    ∃ t, exec (.cvt f) s = .next t ∧ groupOnly s t ∧
      (∀ k i, i < 32 → (k = 0 ∨ k = 1 ∧ w = 64) → laneIn (activeMask s s.cur) (mxPlace w k i).2 = true →
        vlane (grp t s.cur) (f.d.toNat + (mxPlace w k i).1) (mxPlace w k i).2 = BitVec.ofNat 32 ((blk k).2.1.getD i 0)) ∧
      (∀ n l, l < 64 → (n < f.d.toNat ∨ f.d.toNat + mxRegs w ≤ n ∨
          laneIn (activeMask s s.cur) l = false ∧ backed (me s) n = false) → vlane (grp t s.cur) n l = vlane (me s) n l) ∧
      registers (grp t s.cur) = { registers (me s) with
        vregs := (grp t s.cur).vregs, fpflags := (me s).fpflags ||| BitVec.ofNat 32 met,
        sregs := (setSreg f.c.toNat (BitVec.ofNat 32 ((blk 0).1 + 256 * (if w = 64 then (blk 1).1 else 0))) (me s)).sregs })

/-- `vrdl` reads one live lane into a uniform register or pair, 0 from a lane that is not live; `vwrl` writes one live lane; exec does
not matter to either (R229). The lane is b mod `%width`; where b is `%laneid`, which R229 gives no one value, it is an open one, the model's
choice: log entry 131. -/
def Obligations.OneLaneReadAndWrite : Prop :=
  (∀ f s, issues none true (.vrdl f) s = true →
    let j := oneLane s f
    let v := if laneIn (me s).live j then vA (if f.op = 8 then 2 else 1) f s j else 0
    ∃ t, exec (.vrdl f) s = .next t ∧
      wrote (passLane s f.kb f.b) t (if f.op = 8 then two f.d (BitVec.ofNat 64 v) else one f.d (BitVec.ofNat 32 v))) ∧
  (∀ f s, let j := oneLane s f
    let n := if f.op = 8 then 2 else 1
    issues none true (.vwrl f) s = true →
    physRoom s s.cur (if laneIn (me s).live j then newDests s s.cur (sigVwrlOf f) else 0) = true →
    ∃ t, exec (.vwrl f) s = .next t ∧ groupOnly (passLane s f.kb f.b) t ∧
      registers (grp t s.cur) = { registers (me s) with vregs := (grp t s.cur).vregs } ∧
      (laneIn (me s).live j = true → ∀ k, k < n →
        vlane (grp t s.cur) (f.d.toNat + k) j = BitVec.ofNat 32 (vA n f s j / 2 ^ (32 * k))) ∧
      (∀ m l, l < 64 → (laneIn (me s).live j = false ∨ m < f.d.toNat ∨ f.d.toNat + n ≤ m ∨ l ≠ j ∧ backed (me s) m = false) →
        vlane (grp t s.cur) m l = vlane (me s) m l)) ∧
  (∀ f s, laneSource f.kb f.b = false →
    oneLane s f = (uB f s).toNat % widthOf s s.cur ∧ passLane s f.kb f.b = s)

/-- `vred` gives every active lane the reduction of its sub-group in the fixed tree of R231, and `vscan` its inclusive prefix from the
seed; float types take the events met into `%fpflags` (R230 to R232). A seed of `%laneid` is an open value, the model's choice: log entry
131. -/
def Obligations.ReductionsWriteActiveLanes : Prop :=
  (∀ f s, issues none (reduceRow.quay f) (.vred f) s = true → widthOf s s.cur % subWidth f.op = 0 →
    ((me s).pairing ≠ .alone ∨ reduceRow.met f s &&& (me s).trapen.toNat = 0) →
    ∃ t, exec (.vred f) s = .next t ∧ lanesWrote s t f.d.toNat (reduceRow.regs f) (reduceRow.value f s) (reduceRow.met f s)) ∧
  (∀ f s, issues none (scanRow.quay f) (.vscan f) s = true → widthOf s s.cur % subWidth f.op = 0 →
    ((me s).pairing ≠ .alone ∨ scanRow.met f s &&& (me s).trapen.toNat = 0) →
    ∃ t, exec (.vscan f) s = .next t ∧
      lanesWrote (passLane s f.kb f.b) t f.d.toNat (scanRow.regs f) (scanRow.value f s) (scanRow.met f s))

/-- `vperm` and `vshfl` read their source lanes when they issue and wait for the crossbar with the values (R226 to R228).
The oldest waiting request of a core takes its crossbar after its issue clock (R228). -/
def Obligations.ExchangesReadAtIssue : Prop :=
  ((∀ f s, issues (some 0) true (.vperm f) s = true →
     ∃ t o, exec (.vperm f) s = .next t ∧ launched s t o ∧
       exchanges f s (fun l => l - l % subWidth f.op + (srcWord (me s) f.kb f.b l).toNat % subWidth f.op) o) ∧
   (∀ f s, issues (some 0) true (.vshfl f) s = true →
     ∃ t o, exec (.vshfl f) s = .next t ∧ launched s t o ∧
       exchanges f s (fun l => shflLane (f.op.toNat / 16 % 8) (subWidth f.op) (srcWord (me s) f.kb f.b l).toNat l) o)) ∧
  (∀ o s, o < s.ops.length → xbarWaits (op s o) = true → (op s o).issuedAt < s.clock →
     (∀ p, p < s.ops.length → p ≠ o → xbarWaits (op s p) = true → coreOf s (op s p).g = coreOf s (op s o).g → xbarBefore s p o = false) →
     ∃ t, exec (.crossbarGrant o) s = .next t ∧ t = { s with ops := t.ops } ∧ op t o = { op s o with stage := 1 } ∧
       ∀ p, p ≠ o → op t p = op s p)

/-- A scratchpad load or store whose lanes R450 admits, with no watchpoint armed, goes out with its lanes' addresses and data; a load
raises its path counter. A store of no lane is whole at once. Memory changes only when the access is performed (R234, R235, R450).
A scratchpad access with a lane that is misaligned or leaves its space takes cause 0x08 before it has any effect; the lowest such
lane is the detail and its address goes to `%faultaddr` (R409, R450). -/
def Obligations.ScratchpadAccessesIssueOrTrap : Prop :=
  (∀ i ∈ scratchForms, ∀ f s, let sp := spaceOf f i.2.2
     issues (scratchPath i.2.1 i.2.2) (!i.2.2) (i.1 f) s = true → s.dbg.watches = [] →
     (∀ l ∈ activeLanes s s.cur, scratchOk s s.cur sp (memAddr (me s) f l) (memSize f) = true) →
     (sp = .stack → stackReady f i.2.1 s) →
     (i.2.1 = true ∨ activeLanes s s.cur ≠ [] →
       ∃ t o, exec (i.1 f) s = .next t ∧ launched s t o ∧ o.path = scratchPath i.2.1 i.2.2 ∧ o.stk = (sp == .stack) ∧
         o.kind = (if i.2.1 then .load f.fe.toNat else .store (f.fe == 1)) ∧
         accesses f i.2.1 s (fun l => scratchLoc s s.cur sp (memAddr (me s) f l))
           (fun l => scratchNamed s s.cur sp (memAddr (me s) f l)) o) ∧
     (i.2.1 = false → activeLanes s s.cur = [] → ∃ t, exec (i.1 f) s = .next t ∧ keepsAll s t)) ∧
  (∀ i ∈ scratchForms, ∀ f s l, let sp := spaceOf f i.2.2
     issues (scratchPath i.2.1 i.2.2) (!i.2.2) (i.1 f) s = true → hasHandler s s.cur = true →
     (activeLanes s s.cur).find? (fun l => !scratchOk s s.cur sp (memAddr (me s) f l) (memSize f)) = some l →
     ∃ t, exec (i.1 f) s = .next t ∧ t.ops = s.ops ∧
       trapped s t 8 l (some (scratchNamed s s.cur sp (memAddr (me s) f l))))

/-- A peer access with aligned lanes goes out; a lane is checked when it arrives at its owner (R237, R449, R454).
A lane of a peer access is performed at its owner: a load obtains the bytes, a store writes them and makes their words full; a lane
that R454 refuses fails with cause 0x09 and makes no access (R98, R99, R454). -/
def Obligations.PeerAccessesGoToTheirOwner : Prop :=
  (∀ isLoad : Bool, ∀ f s, let i : Instr := if isLoad then .pld f else .pst f
     issues (if isLoad then some 2 else none) false i s = true →
     (∀ l ∈ activeLanes s s.cur, memAddr (me s) f l % (memSize f : Int) = 0) →
     peerFull s s.cur ((activeLanes s s.cur).map (memAddr (me s) f)) = false →
     (isLoad = true ∨ activeLanes s s.cur ≠ [] →
       ∃ t o, exec i s = .next t ∧ launched s t o ∧ o.path = (if isLoad then some 2 else none) ∧
         o.kind = (if isLoad then .peerLoad else .peerStore) ∧
         accesses f isLoad s (fun l => peerOrder s (coreOf s s.cur) (memAddr (me s) f l))
           (fun l => namedAddr 0 (memAddr (me s) f l)) o) ∧
     (isLoad = false → activeLanes s s.cur = [] → ∃ t, exec i s = .next t ∧ keepsAll s t)) ∧
  (∀ o lane s, let x := op s o; let r := laneReq x lane; let c := coreOf s x.g
     o < s.ops.length → calm s → lane < 64 → x.lanes.any (fun q => q.lane == lane) = true → laneReady s o r = true → x.failed = [] →
     (∀ w, r.named < 2 ^ 15 → windowAt s (peerKey c r.named) = some w → (team s w.team).phase ≠ .parked) →
     heldAhead s o lane = false →
     (∀ a, peerRefused s x r = false → peerLoc s c r.named = some a →
       (x.kind = .peerLoad → ∃ t, exec (.peerAccessAtOwner o lane) s = .next t ∧ keepsAll s t ∧
         (op t o).got = x.got ++ [(lane, rd s a x.size)] ∧ laneIn (op t o).performed lane = true) ∧
       (x.kind = .peerStore → x.path = none → ∃ t, exec (.peerAccessAtOwner o lane) s = .next t ∧
         storedAt s t a (toBytesLE x.size r.data) ∧ (∀ h, registers (grp t h) = registers (grp s h)) ∧
         laneIn (op t o).performed lane = true)) ∧
     (x.kind = .peerLoad → peerRefused s x r = true →
       ∃ t, exec (.peerAccessAtOwner o lane) s = .next t ∧ keepsAll s t ∧ laneIn (op t o).performed lane = true ∧
         (op t o).failed = [(lane, { cause := 9, detail := lane, addr := some r.named })]))

/-- `wopen` binds the lowest free entry of its core to a line of the team and returns its number, all ones when none is free,
0xFFFFFFFE when the team has that line open, and either of the two when both hold; `wclose` frees an entry of the team, at once when the
group's earlier stores to its line are performed and else held behind them, and any other entry is a deferred error of cause 0x09 (R98 to
R100, R238). That either answer may come when both hold is the model's reading: log entry 120. -/
def Obligations.WindowsOpenAndClose : Prop :=
  (∀ f s, let off := (eA f s).toNat; let ctl := (eB f s).toNat; let c := coreOf s s.cur
    issues none false (.wopen f) s = true → closeHeld s s.cur = false → off % 128 = 0 → off < (teamOf s s.cur).allocSize → ctl < 8 →
    (∀ e, (List.range 64).find? (fun e => (windowAt s (64 * c + e)).isNone) = some e →
      (∀ d, d < 64 → ∀ w, windowAt s (64 * c + d) = some w → ¬ (w.team = (me s).team ∧ w.line = off)) →
      ∃ t, exec (.wopen f) s = .next t ∧ onlySync s t ∧ resultIn s t f.d (BitVec.ofNat 32 e) ∧
        windowAt t (64 * c + e) = some { team := (me s).team, line := off, single := bitOf ctl 2, writer := ctl % 4 } ∧
        ∀ k, k ≠ 64 * c + e → windowAt t k = windowAt s k) ∧
    ((∀ d, d < 64 → ∀ w, windowAt s (64 * c + d) = some w → ¬ (w.team = (me s).team ∧ w.line = off)) →
      (∀ d, d < 64 → (windowAt s (64 * c + d)).isSome = true) →
      ∃ t, exec (.wopen f) s = .next t ∧ wrote s t (one f.d 0xFFFFFFFF)) ∧
    (∀ d w, d < 64 → windowAt s (64 * c + d) = some w → w.team = (me s).team → w.line = off →
      ((∃ e, e < 64 ∧ windowAt s (64 * c + e) = none) → ∃ t, exec (.wopen f) s = .next t ∧ wrote s t (one f.d 0xFFFFFFFE)) ∧
      ((∀ e, e < 64 → (windowAt s (64 * c + e)).isSome = true) →
        ∃ t v, exec (.wopen f) s = .next t ∧ t = { s with groups := t.groups, seq := t.seq, free := s.free + 1 } ∧
          resultIn s t f.d v ∧ (v = 0xFFFFFFFF ∨ v = 0xFFFFFFFE)))) ∧
  (∀ f s, let n := (eA f s).toNat; let c := coreOf s s.cur
    issues none false (.wclose f) s = true → closing s s.cur (64 * c + n) = false →
    (∀ w, n < 64 → windowAt s (64 * c + n) = some w → w.team = (me s).team →
      let quiet := storesQuiet s s.cur s.ops.length (locTeam c ((teamOf s s.cur).allocBase + w.line)) 128
      (quiet = true → ∃ t, exec (.wclose f) s = .next t ∧ onlySync s t ∧ movedOn s t ∧ windowAt t (64 * c + n) = none ∧
        ∀ k, k ≠ 64 * c + n → windowAt t k = windowAt s k) ∧
      (quiet = false → ∃ t o, exec (.wclose f) s = .next t ∧ launched s t o ∧ o.g = s.cur ∧ o.kind = .close (64 * c + n) ∧
        o.path = none ∧ o.lanes = [] ∧ o.finished = false)) ∧
    (64 ≤ n ∨ (∀ w, windowAt s (64 * c + n) = some w → w.team ≠ (me s).team) → (me s).intrap = false →
      ∃ t, exec (.wclose f) s = .next t ∧ onlyGroups s t ∧ movedOn s t ∧
        (grp t s.cur).pending = (me s).pending ++
          [{ cause := 9, detail := 0, addr := some (c % 4 * 2 ^ 13 + n % 64 * 2 ^ 7), since := some (timeOf s) }]))

/-- The results of an operation whose lanes have all been performed land together: each lane's destination holds its value, sign-extended
for a signed load below a word, a mask pair is written with them, the operation is whole, and nothing else changes but path
counters (R51, R55, R227, R235). -/
def Obligations.ResultsLandTogether : Prop :=
  ∀ o lanes s, let x := op s o
    o < s.ops.length → x.g < s.groups.length → landable x = true → atRest s →
    (x.got.map (·.1)).Nodup → (∀ p ∈ x.got, p.1 < 64) → x.dv.Nodup →
    ∃ t, exec (.loadResultLanding o lanes) s = .next t ∧ (op t o).finished = true ∧ sameMemory s t ∧
      (∀ h, h ≠ x.g → registers (grp t h) = registers (grp s h)) ∧
      (∀ p ∈ x.got, ∀ k, k < x.dv.length →
        vlane (grp t x.g) (x.dv.getD k 0) p.1 = BitVec.ofNat 32 (landValue x p.2 / 2 ^ (32 * k))) ∧
      (∀ n l, l < 64 → (n ∉ x.dv ∨ l ∉ x.got.map (·.1) ∧ backed (grp s x.g) n = false) →
        vlane (grp t x.g) n l = vlane (grp s x.g) n l) ∧
      registers (grp t x.g) = { registers (grp s x.g) with
        vregs := (grp t x.g).vregs, counters := (grp t x.g).counters,
        sregs := match x.kind with
          | .perm m (some n) => (setSpair n m (grp s x.g)).sregs
          | _ => (grp s x.g).sregs }

/-- A plain load of one lane reads its bytes at its home when it is performed, and lands; memory does not change (R120, R235).
A store of one lane writes exactly its bytes when it is performed, and with `.fill` its words become full; no register changes. A
spill-stack store writes the group's own copy of its stack and no byte of memory (R92, R97, R235). -/
def Obligations.LoadsAndStoresAreBytewise : Prop :=
  (∀ o lanes s r, let x := op s o
     o < s.ops.length → x.g < s.groups.length → calm s → x.kind = .load 0 → x.stk = false → x.lanes = [r] → x.got = [] →
     x.failed = [] → x.dv.Nodup → x.dv ≠ [] → (x.path ≠ some 0 ∨ x.stage ≠ 0) → laneReady s o r = true → r.lane < 64 →
     laneIn lanes r.lane = true →
     ∃ t, exec (.loadResultLanding o lanes) s = .next t ∧ (op t o).finished = true ∧ sameMemory s t ∧
       ∀ k, k < x.dv.length →
         vlane (grp t x.g) (x.dv.getD k 0) r.lane = BitVec.ofNat 32 (landValue x (rd s r.addr x.size) / 2 ^ (32 * k))) ∧
  (∀ o lanes s r fill, let x := op s o
     o < s.ops.length → calm s → x.kind = .store fill → x.lanes = [r] → x.failed = [] → x.path = none → laneReady s o r = true →
     r.lane < 64 → laneIn lanes r.lane = true →
     (x.stk = false → ownerRefused s (grp s x.g).team r.addr x.size = false →
       ∃ t, exec (.storePerformed o lanes) s = .next t ∧ (op t o).finished = true ∧ storedAt s t r.addr (toBytesLE x.size r.data) ∧
         (∀ h, registers (grp t h) = registers (grp s h)) ∧
         (fill = true → isScratch r.addr = true → ∀ i, i < x.size → isFull t (r.addr + i) = true)) ∧
     (x.stk = true →
       ∃ t, exec (.storePerformed o lanes) s = .next t ∧ (op t o).finished = true ∧ keepsAll s t ∧
         spillRead t r.addr r.cmp x.size = r.data % 2 ^ (8 * x.size)))

/-- The per-lane atomics go out with their lanes' locations, once every address is translated; an `.sc` one takes the next stamp of its
core's clock first (R131, R239 to R242).
A lane of an atomic reads, modifies and writes its location as one event at its home, an `.sc` one in stamp order once every floor
has reached its clock: no other byte changes (R123, R132, R240, R241).
A core publishes its clock, or the lowest clock of an SC operation of it in transit, as its floor, and its clock rises to the largest
floor received (R132). -/
def Obligations.AtomicsIssueAndApply : Prop :=
  (∀ f s, let ty := f.op.toNat / 16 % 16
     let u := if f.order = 4 then (takeStamp s s.cur).1 else s
     let goes (i : Instr) (path : Option Nat) (n : Nat) (kind : OpKind) (data : Nat → Nat) : Prop :=
       issues path true i s = true → sound s → (f.ret = true ∨ activeLanes s s.cur ≠ []) →
       ∀ loc : Nat → Nat × Bool,
       (∀ l ∈ activeLanes s s.cur, (atomLoc s s.cur true (addrA (me s) f l) n atomNeed).2 = .ok (loc l)) →
       ∃ t o, exec i s = .next t ∧ launched u t o ∧ o.g = s.cur ∧ o.kind = kind ∧ o.size = n ∧ o.path = path ∧
         o.order = f.order.toNat ∧ o.scope = f.scope.toNat ∧ o.failed = [] ∧
         o.stamp = (if f.order = 4 then some (coreClock s (coreOf s s.cur) + 1, coreOf s s.cur) else none) ∧
         o.lanes.map (·.lane) = activeLanes s s.cur ∧
         ∀ r ∈ o.lanes, r.addr = (loc r.lane).1 ∧ r.named = addrA (me s) f r.lane ∧ r.data = data r.lane
     goes (.atop f) (if f.ret then some 5 else none) (typeBits ty / 8) (.atop (f.op.toNat % 16) ty)
       (fun l => dataWords (me s) f.kb f.b.toNat l (typeRegs ty) % 2 ^ typeBits ty) ∧
     goes (.atcas f) (some 5) (typeBits ty / 8) .cas (fun l => dataWords (me s) f.kb f.b.toNat l (typeRegs ty)) ∧
     goes (.atcas128 f) (some 5) 16 .cas (fun l => dataWords (me s) f.kb f.b.toNat l 4)) ∧
  ((∀ o lane s, let x := op s o
      o < s.ops.length → calm s → lane < 64 → atomReady s o lane = true → (x.path.isSome = true ∨ x.failed = []) →
      (x.stamp = none → ∃ t, exec (.atomicAtHome o lane) s = .next t ∧ appliedAtHome s t o lane) ∧
      (x.stamp.isSome = true → floorsReach s (stampOf x).1 = true →
        (homesUnder s (laneReq x lane).addr x.size).all (firstAtHome s (stampOf x)) = true →
        ∃ t, exec (.scApplyAtHome o lane) s = .next t ∧ appliedAtHome s t o lane)) ∧
   (∀ c s, c < allCores → ∃ t, exec (.scFloorPublish c) s = .next t ∧ keepsAll s t ∧ t = { s with sync := t.sync } ∧
      (∀ d, d ≠ c → mapGet 0 t.sync.floors d = mapGet 0 s.sync.floors d ∧ coreClock t d = coreClock s d) ∧
      ((∀ x ∈ s.ops, inTransit x = true → coreOf s x.g ≠ c) → mapGet 0 t.sync.floors c = coreClock s c) ∧
      (∀ x ∈ s.ops, inTransit x = true → coreOf s x.g = c → mapGet 0 t.sync.floors c ≤ (stampOf x).1) ∧
      coreClock s c ≤ coreClock t c ∧ ∀ p ∈ t.sync.floors, p.2 ≤ coreClock t c))

/-- `mcas` with an active lane takes its stamp and goes out; with none it has no effect (R131, R244).
An `mcas` on its way: its block is read and checked; it is admitted in stamp order; its lines are locked in ascending order; with the
last lock it compares every word and writes all of them or none, and releases its lines; its result goes to sd; a lock asked for
twice in vain ends it with status 0x07 (R134, R244 to R247, R433, R470). -/
def Obligations.MultiwordSwapIsAllOrNone : Prop :=
  (∀ f s, issues (some 5) true (.mcas f) s = true →
     (activeMask s s.cur ≠ 0 → ∃ t o, exec (.mcas f) s = .next t ∧ launched (takeStamp s s.cur).1 t o ∧ o.kind = .mcas ∧ o.g = s.cur ∧
       o.path = some 5 ∧ o.du = [f.d.toNat] ∧ o.stage = 0 ∧
       o.stamp = some (coreClock s (coreOf s s.cur) + 1, coreOf s s.cur) ∧
       o.lanes.map (·.named) = [(spair (me s) f.a.toNat).toNat]) ∧
     (activeMask s s.cur = 0 → ∃ t, exec (.mcas f) s = .next t ∧ sameMemory s t ∧ othersKept s t ∧
       registers (grp t s.cur) = { registers (me s) with counters := (grp t s.cur).counters })) ∧
  (∀ o s, let x := op s o
     o < s.ops.length → calm s → x.kind = .mcas → x.finished = false → x.failed = [] →
     (∀ blk rs, x.stage = 0 → x.block = [] → mayPerform s o (laneReq x 0) = true → unlocked s o (laneReq x 0).addr 200 = true →
       (mcasRead s o).2 = .ok blk → (mcasCheck s o blk).2 = .ok rs →
       ∃ t, exec (.mcasAdmission o) s = .next t ∧ keepsAll s t ∧ (op t o).lanes = rs ∧ 1 ≤ (op t o).stage) ∧
     (x.stage = 1 → mcasFirst s o = true → ∃ t, exec (.mcasAdmission o) s = .next t ∧ keepsAll s t ∧ (op t o).stage = 2) ∧
     (∀ key, 2 ≤ x.stage → x.stage < mcasDone → (mcasKeys x)[x.stage - 2]? = some key → unlocked s o key 128 = true →
       x.stage - 1 ≠ (mcasKeys x).length →
       ∃ t, exec (.mcasLockGrant o) s = .next t ∧ keepsAll s t ∧ t.sync.locks = s.sync.locks ++ [(key, o)] ∧
         (op t o).stage = x.stage + 1) ∧
     (∀ key, 2 ≤ x.stage → x.stage < mcasDone → (mcasKeys x)[x.stage - 2]? = some key → unlocked s o key 128 = true →
       x.stage - 1 = (mcasKeys x).length →
       ((∀ r ∈ x.lanes, rd s r.addr 8 = r.cmp) → x.lanes.Pairwise (fun p q => p.addr + 8 ≤ q.addr ∨ q.addr + 8 ≤ p.addr) →
         ∃ t, exec (.mcasLockGrant o) s = .next t ∧ (∀ r ∈ x.lanes, rd t r.addr 8 = r.data % 2 ^ 64) ∧
           (∀ a, (∀ r ∈ x.lanes, a < r.addr ∨ r.addr + 8 ≤ a) → byteAt t.mem a = byteAt s.mem a) ∧
           (op t o).result = 1 ∧ (op t o).stage = mcasDone ∧ (∀ p ∈ t.sync.locks, p.2 ≠ o) ∧
           ∀ h, registers (grp t h) = registers (grp s h)) ∧
       ((∃ r ∈ x.lanes, rd s r.addr 8 ≠ r.cmp) →
         ∃ t, exec (.mcasLockGrant o) s = .next t ∧ keepsAll s t ∧ (op t o).stage = mcasDone ∧
           (op t o).result = ((x.lanes.filter (fun r => rd s r.addr 8 != r.cmp)).map (fun r => 2 ^ (8 + r.lane))).sum ∧
           ∀ p ∈ t.sync.locks, p.2 ≠ o)) ∧
     (∀ n, x.stage = mcasDone → x.du = [n] → x.result < 2 ^ 24 → x.g < s.groups.length →
       ∃ t, exec (.mcasResult o) s = .next t ∧ (op t o).finished = true ∧ sameMemory s t ∧
         sreg (grp t x.g) n = BitVec.ofNat 32 x.result ∧ (∀ m, m ≠ n → sreg (grp t x.g) m = sreg (grp s x.g) m) ∧
         ∀ h, h ≠ x.g → registers (grp t h) = registers (grp s h)) ∧
     (2 ≤ x.stage → x.stage < mcasDone → x.askedAt + 4 * lockBound s ((mcasKeys x).getD (x.stage - 2) 0) ≤ s.clock → x.records ≠ 0 →
       ∃ t, exec (.mcasLockTimeout o) s = .next t ∧ keepsAll s t ∧ (op t o).result = 7 * 2 ^ 24 ∧ (op t o).stage = mcasDone ∧
         ∀ p ∈ t.sync.locks, p.2 ≠ o))

/-- `redb` puts one entry for each active lane into its partition's buffer, or blocks when there is no room; `redf` asks for its team's
drain and blocks. A drain performs the team's entries one by one, each leaving the buffer, the next one when nothing stands in its way; once
no entry is left the drain ends, and the group that asked for it goes on (R135, R136, R248, R249). -/
def Obligations.BufferedReductions : Prop :=
  (∀ f s, let ty := f.op.toNat / 16 % 16
    issues none false (.redb f) s = true → sound s →
    (redbCount s (coreOf s s.cur) (partitionOf s s.cur) + (activeLanes s s.cur).length ≤ redbMax →
      ∀ loc : Nat → Nat × Bool,
      (∀ l ∈ activeLanes s s.cur, (atomLoc s s.cur true (addrA (me s) f l) (typeBits ty / 8) atomNeed).2 = .ok (loc l)) →
      ∃ t es, exec (.redb f) s = .next t ∧
        t = { s with groups := t.groups, seq := t.seq,
                     sync := { s.sync with redb := s.sync.redb ++ es, redbNo := s.sync.redbNo + es.length } } ∧
        movedOn s t ∧ es.map (·.lane) = activeLanes s s.cur ∧
        ∀ e ∈ es, e.team = (me s).team ∧ e.partition = partitionOf s s.cur ∧ e.addr = (loc e.lane).1 ∧ e.oper = f.op.toNat % 16 ∧
          e.ty = ty ∧ e.data = dataWords (me s) f.kb f.b.toNat e.lane (typeRegs ty) % 2 ^ typeBits ty) ∧
    (redbMax < redbCount s (coreOf s s.cur) (partitionOf s s.cur) + (activeLanes s s.cur).length →
      ∃ t, exec (.redb f) s = .next t ∧ sameMemory s t ∧ othersKept s t ∧ registers (grp t s.cur) = registers (me s) ∧
        (grp t s.cur).wait.code = 9 ∧ (grp t s.cur).pc = (me s).pc)) ∧
  (∀ f s, issues none false (.redf f) s = true → (me s).team < s.teams.length →
    ∃ t, exec (.redf f) s = .next t ∧ sameMemory s t ∧ othersKept s t ∧ registers (grp t s.cur) = registers (me s) ∧
      (grp t s.cur).wait.code = 9 ∧ (teamOf t s.cur).drains = (teamOf s s.cur).drains ++ [(s.cur, s.sync.redbNo)]) ∧
  (∀ tm g no rest s, let es := (drainOrder s tm).filter (fun e => decide (e.no < no))
    calm s → tm < s.teams.length → g < s.groups.length → (team s tm).drains = (g, no) :: rest →
    (∀ e, nextEntry s g [] es = some e → ∃ t, exec (.reductionDrain tm) s = .next t ∧
      storedAt s t e.addr (toBytesLE (typeBits e.ty / 8) (atomNew e.oper e.ty (rd s e.addr (typeBits e.ty / 8)) e.data)) ∧
      t.sync.redb = s.sync.redb.filter (fun y => y != e) ∧ (team t tm).drains = (team s tm).drains ∧
      ∀ h, registers (grp t h) = registers (grp s h)) ∧
    (es = [] → ∃ t, exec (.reductionDrain tm) s = .next t ∧ keepsAll s t ∧ (team t tm).drains.map (·.1) = rest.map (·.1) ∧
      ((grp s g).wait.code = 9 → (grp t g).drained = true))) ∧
  (∀ g s, g < s.groups.length → (grp s g).wait.code = 9 → onCore s g = true → (grp s g).drained = true →
    ∃ t, exec (.redfRelease g) s = .next t ∧ onlyGroups s t ∧ woken s t g ∧ (grp t g).drained = false)

/-- `waita` returns 1 when its test holds, 2 when its home's table is full or in host memory, and otherwise arms an entry and blocks; behind
earlier accesses of its group that must precede it, it is held (R504). A store that makes the test of an armed entry true wakes its group
with sd 0 and removes the entry (R250). -/
def Obligations.WaitOnAddress : Prop :=
  (∀ f s a p, let ty := f.op.toNat / 16 % 16; let n := typeBits ty / 8
    let named := (spair (me s) f.a.toNat).toNat
    let e : Armed := { home := homeOf s a, addr := a, size := n, g := s.cur, dreg := f.d.toNat, cond := f.op.toNat % 16,
                       isSigned := typeSigned ty, expected := dataWords (me s) true f.b.toNat 0 (typeRegs ty),
                       mask := dataWords (me s) true f.c.toNat 0 (typeRegs ty), named }
    let clear := unlocked s noOp a n && clearBefore s s.ops.length { g := s.cur, kind := .load 0, size := n }
      { lane := 0, addr := a, named, data := 0, cmp := 0 }
    issues none true (.waita f) s = true → sound s →
    (atomLoc s s.cur false named n { read := true, atom := true }).2 = .ok (a, p) →
    (clear = false → ∃ t o, exec (.waita f) s = .next t ∧ launched s t o ∧ o.g = s.cur ∧ o.path = none ∧ o.du = [f.d.toNat] ∧ o.size = n ∧
      o.kind = .watch (f.op.toNat % 16) ty ∧ o.lanes.map (·.addr) = [a]) ∧ (clear = true →
    (armedTest e (rd s a n) = true → ∃ t, exec (.waita f) s = .next t ∧ onlySync s t ∧ resultIn s t f.d 1) ∧
    (armedTest e (rd s a n) = false →
      (homeOf s a = 4000 ∨ armedMax ≤ (s.sync.armed.filter (fun y => y.home == homeOf s a)).length) →
      ∃ t, exec (.waita f) s = .next t ∧ onlySync s t ∧ resultIn s t f.d 2) ∧
    (armedTest e (rd s a n) = false → homeOf s a ≠ 4000 →
      (s.sync.armed.filter (fun y => y.home == homeOf s a)).length < armedMax →
      ∃ t, exec (.waita f) s = .next t ∧ onlySync s t ∧ othersKept s t ∧ registers (grp t s.cur) = registers (me s) ∧
        t.sync.armed = s.sync.armed ++ [e] ∧ (grp t s.cur).wait = { code := 4, obj := named, opnd := f.op.toNat % 16 }))) ∧
  (∀ o lanes s r e, let x := op s o
    o < s.ops.length → sound s → s.sync.waiters = [] → s.sync.armed = [e] → atRest s → x.kind = .store false → x.lanes = [r] →
     x.failed = [] → x.path = none → x.stk = false → laneReady s o r = true → r.lane < 64 →
    laneIn lanes r.lane = true → ownerRefused s (grp s x.g).team r.addr x.size = false →
    e.g < s.groups.length → isParked s e.g = false → e.addr < r.addr + x.size → r.addr < e.addr + e.size →
    armedTest e (rd (wr s r.addr x.size r.data) e.addr e.size) = true →
    ∃ t, exec (.storePerformed o lanes) s = .next t ∧ storedAt s t r.addr (toBytesLE x.size r.data) ∧ t.sync.armed = [] ∧
      (grp t e.g).wait = {} ∧ registers (grp t e.g) = { registers (grp s e.g) with sregs := (setSreg e.dreg 0 (grp s e.g)).sregs } ∧
      ∀ h, h ≠ e.g → registers (grp t h) = registers (grp s h))

/-- `fence` goes on when the accesses it orders have been performed and blocks otherwise; an `.sc` one takes a stamp and waits for its
place in the SC order. The block ends when that has come about. No fence changes a register or memory (R127, R130, R133, R251). -/
def Obligations.FencesOrderAccesses : Prop :=
  (∀ f s, issues none true (.fence f) s = true →
    (f.order ≠ 4 → (f.scope = 0 ∨ fenceClear s s.cur f.order.toNat f.scope.toNat = true) →
      ∃ t, exec (.fence f) s = .next t ∧ onlyGroups s t ∧ movedOn s t) ∧
    (f.order ≠ 4 → f.scope ≠ 0 → fenceClear s s.cur f.order.toNat f.scope.toNat = false →
      ∃ t, exec (.fence f) s = .next t ∧ blockedOn s t false 10 0 (f.order.toNat + 16 * f.scope.toNat)) ∧
    (f.order = 4 → f.scope ≠ 0 →
      ∃ t o, exec (.fence f) s = .next t ∧ keepsAll s t ∧ t.ops = s.ops ++ [o] ∧ o.kind = .scFence ∧
        o.stamp = some (coreClock s (coreOf s s.cur) + 1, coreOf s s.cur) ∧
        coreClock t (coreOf s s.cur) = coreClock s (coreOf s s.cur) + 1 ∧ (grp t s.cur).wait.code = 10) ∧
    (f.order = 4 → f.scope = 0 → ∃ t, exec (.fence f) s = .next t ∧ onlySync s t ∧ movedOn s t ∧
      coreClock t (coreOf s s.cur) = coreClock s (coreOf s s.cur) + 1)) ∧
  (∀ g s, g < s.groups.length → (grp s g).wait.code = 10 → onCore s g = true →
    fenceClear s g ((grp s g).wait.opnd % 8) ((grp s g).wait.opnd / 16) = true →
    (scFenceOf s g = none → ∃ t, exec (.fenceComplete g) s = .next t ∧ onlyGroups s t ∧ woken s t g) ∧
    (∀ o, scFenceOf s g = some o → (op s o).failed = [] → (op s o).path = none → floorsReach s (stampOf (op s o)).1 = true →
      (∀ y ∈ s.ops, y.kind = .scFence → inTransit y = true → stampBefore (stampOf y) (stampOf (op s o)) = false) →
      ∃ t, exec (.fenceComplete g) s = .next t ∧ woken s t g ∧ (op t o).finished = true))

/-- Flights (R252 to R254): `flreg` registers the group and returns the phase; `fldrop` removes it; `flarr` arrives and returns the phase
it arrived in, waits on its early bit, or is held behind earlier accesses in the flight's reach. An `fldrop` counts as an arrival, and is
held behind an earlier one and, on a team flight, behind earlier results (R285). -/
def Obligations.FlightsRegisterAndArrive : Prop :=
  ∀ f s k scope, let F := flight s k; let w := (eA f s).toNat
    flightWord s s.cur w = .flight k scope → dropHeld s s.cur k = false →
    (issues none false (.flreg f) s = true → (eB f s).toNat ≤ 2 → memberOf F (.group s.cur) = none → F.members.length < memberMax scope →
      ∃ t, exec (.flreg f) s = .next t ∧ onlyFlight s t k ∧ resultIn s t f.d F.phase ∧
        flight t k = flCheck { F with members := F.members ++ [{ who := .group s.cur, mode := (eB f s).toNat }],
                                      broken := if (eB f s).toNat ≠ 1 then none else F.broken }) ∧
    (issues none false (.fldrop f) s = true → (memberOf F (.group s.cur)).isSome = true →
      let clear := (scope != 1 || resultsIn s s.cur s.ops.length) && !arrivalHeld s s.cur k s.ops.length
      (clear = true →
        ∃ t, exec (.fldrop f) s = .next t ∧ onlyFlight s t k ∧ movedOn s t ∧ flight t k = dropMember F (.group s.cur)) ∧
      (clear = false → ∃ t o, exec (.fldrop f) s = .next t ∧ launched s t o ∧ o.g = s.cur ∧ o.path = none ∧ o.kind = .drop k)) ∧
    (issues none false (.flarr f) s = true → memberIs s k signaller = true →
      (arrivalClear s s.cur k scope s.ops.length = true →
        (earlySet F (.group s.cur) = false →
          ∃ t, exec (.flarr f) s = .next t ∧ onlyFlight s t k ∧ resultIn s t f.d F.phase ∧ flight t k = arrive F (.group s.cur)) ∧
        (earlySet F (.group s.cur) = true → ∃ t, exec (.flarr f) s = .next t ∧ blockedOn s t true 1 w F.phase.toNat)) ∧
      (arrivalClear s s.cur k scope s.ops.length = false →
        ∃ t o, exec (.flarr f) s = .next t ∧ launched s t o ∧ o.g = s.cur ∧ o.path = none ∧ o.kind = .arrival k ∧ o.du = [f.d.toNat])) ∧
    (issues none false (.flreg f) s = true → (me s).intrap = false →
      (2 < (eB f s).toNat ∨ (memberOf F (.group s.cur)).isSome = true ∨ memberMax scope ≤ F.members.length) →
      ∃ t, exec (.flreg f) s = .next t ∧ onlyGroups s t ∧ movedOn s t ∧
        (grp t s.cur).pending = (me s).pending ++ [{ cause := 0x0A, detail := 1, addr := some w, since := some (timeOf s) }])

/-- `flwait` and `fladv` wait for a phase of a flight to pass: at once when it has, else blocked with the pc past the instruction; on a
broken flight `flwait` takes cause 0x0E; an `fladv` whose arrival is held behind earlier accesses waits (R504). The waits a phase
completes end together, and an arrival held on its early bit is made when the phase has advanced (R254, R420). -/
def Obligations.FlightWaits : Prop :=
  (∀ f s k scope, let F := flight s k; let w := (eA f s).toNat; let b := eB f s
    flightWord s s.cur w = .flight k scope → dropHeld s s.cur k = false →
    (issues none false (.flwait f) s = true → memberIs s k (fun m => m.mode != 0) = true →
      (phasePassed F.phase b = true → ∃ t, exec (.flwait f) s = .next t ∧ onlyGroups s t ∧ movedOn s t) ∧
      (phasePassed F.phase b = false → F.broken = none →
        ∃ t, exec (.flwait f) s = .next t ∧ blockedOn s t false 1 w b.toNat ∧ (grp t s.cur).waitPc = (me s).pc) ∧
      (∀ st, phasePassed F.phase b = false → F.broken = some st → hasHandler s s.cur = true →
        ∃ t, exec (.flwait f) s = .next t ∧ registers (grp t s.cur) = entered (me s) 0x0E st none)) ∧
    (issues none false (.fladv f) s = true → memberIs s k (fun m => m.mode == 2) = true →
      arrivalClear s s.cur k scope s.ops.length = false →
      ∃ t o, exec (.fladv f) s = .next t ∧ t.ops = s.ops ++ [o] ∧ o.g = s.cur ∧ o.path = none ∧ o.kind = .advance k ∧ o.du = [f.d.toNat] ∧
        keepsAll s t ∧ movesOn s t ∧ (grp t s.cur).wait = { code := 1, obj := w, opnd := F.phase.toNat }) ∧
    (issues none false (.fladv f) s = true → memberIs s k (fun m => m.mode == 2) = true →
      arrivalClear s s.cur k scope s.ops.length = true → earlySet F (.group s.cur) = true →
      ∃ t, exec (.fladv f) s = .next t ∧ blockedOn s t true 1 w F.phase.toNat) ∧
    (issues none false (.fladv f) s = true → memberIs s k (fun m => m.mode == 2) = true →
      arrivalClear s s.cur k scope s.ops.length = true → earlySet F (.group s.cur) = false →
      let F' := arrive F (.group s.cur)
      (phasePassed F'.phase F.phase = true →
        ∃ t, exec (.fladv f) s = .next t ∧ onlyFlight s t k ∧ flight t k = F' ∧ resultIn s t f.d (F.phase + 1)) ∧
      (phasePassed F'.phase F.phase = false → F'.broken = none →
        ∃ t, exec (.fladv f) s = .next t ∧ onlyFlight s t k ∧ flight t k = F' ∧
          registers (grp t s.cur) = { registers (me s) with sregs := (setSreg f.d.toNat (F.phase + 1) (me s)).sregs } ∧
          (grp t s.cur).wait = { code := 1, obj := w, opnd := F.phase.toNat }))) ∧
  (∀ k s, ∃ t, exec (.flightWaitersReleased k) s = .next t ∧ onlyGroups s t ∧ keepsAll s t ∧
    ∀ g, g < s.groups.length → waitsOn s k g = true →
      phasePassed (flight s k).phase (BitVec.ofNat 32 (grp s g).wait.opnd) = true → (grp t g).wait = {}) ∧
  (∀ g f s k scope, g < s.groups.length → (grp s g).wait.code = 1 → (grp s g).waitEarly = true → onCore s g = true →
    flightWord s g (grp s g).wait.obj = .flight k scope →
    phasePassed (flight s k).phase (BitVec.ofNat 32 (grp s g).wait.opnd) = true → instrAt s g = some (.flarr f) →
    arrivalClear s g k scope s.ops.length = true → earlySet (flight s k) (.group g) = false →
    ∃ t, exec (.earlyArrivalRelease g) s = .next t ∧ onlyFlight s t k ∧ flight t k = arrive (flight s k) (.group g) ∧
      (grp t g).wait.code = 0 ∧ sreg (grp t g) f.d.toNat = (flight s k).phase ∧
      ∀ h, h ≠ g → registers (grp t h) = registers (grp s h))

/-- Landings and path waits: `binit` and `bxp` go out as writes of their landing and are performed there, with `land_update` after the
change; `bwait` waits for a phase bit, `waitp` for a path counter, and each wait ends when that has come (R55, R255 to R258). -/
def Obligations.LandingsAndPathWaits : Prop :=
  (∀ init : Bool, ∀ f s, let i : Instr := if init then .binit f else .bxp f; let off := (eA f s).toNat
    issues none false i s = true → landingBad s s.cur off = false →
    ∃ t o, exec i s = .next t ∧ launched s t o ∧ o.kind = .landing init ∧ o.path = none ∧
      o.lanes.map (fun r => (r.addr, r.data)) = [(landingLoc s s.cur off, (eB f s).toNat)]) ∧
  (∀ init o lanes s r, let x := op s o
    o < s.ops.length → calm s → x.kind = .landing init → x.lanes = [r] → x.failed = [] → x.path = none → laneReady s o r = true →
    r.lane < 64 →
    let l := if init then (r.data, 0, 0) else ((rd s r.addr 4 + r.data) % 2 ^ 32, rd s (r.addr + 4) 4, rd s (r.addr + 8) 4)
    let u := landUpdate l.1 l.2.1 l.2.2
    ∃ t, exec (.storePerformed o lanes) s = .next t ∧ (op t o).finished = true ∧ rd t r.addr 4 = u.1 % 2 ^ 32 ∧
      rd t (r.addr + 4) 4 = u.2.1 % 2 ^ 32 ∧ rd t (r.addr + 8) 4 = u.2.2 % 2 ^ 32 ∧
      (∀ a, (a < r.addr ∨ r.addr + 12 ≤ a) → byteAt t.mem a = byteAt s.mem a) ∧ ∀ h, registers (grp t h) = registers (grp s h)) ∧
  (∀ f s, let off := (eA f s).toNat; let bit := (eB f s).toNat % 2
    issues none false (.bwait f) s = true → landingBad s s.cur off = false →
    (landingReady s s.cur (landingLoc s s.cur off) bit = true → ∃ t, exec (.bwait f) s = .next t ∧ onlySync s t ∧ movedOn s t) ∧
    (landingReady s s.cur (landingLoc s s.cur off) bit = false →
      ∃ t, exec (.bwait f) s = .next t ∧ blockedOn s t false 2 (5 * 2 ^ 60 + off) bit)) ∧
  (∀ f s, let p := f.op.toNat % 8; let n := (eA f s).toNat
    issues none true (.waitp f) s = true →
    (counter (me s).counters p ≤ n → ∃ t, exec (.waitp f) s = .next t ∧ onlyGroups s t ∧ movedOn s t) ∧
    (n < counter (me s).counters p → ∃ t, exec (.waitp f) s = .next t ∧ blockedOn s t false 5 p n)) ∧
  (∀ g s, g < s.groups.length → onCore s g = true →
    ((grp s g).wait.code = 2 → landingReady s g (landingLoc s g ((grp s g).wait.obj % 2 ^ 19)) (grp s g).wait.opnd = true →
      ∃ t, exec (.bwaitRelease g) s = .next t ∧ onlySync s t ∧ woken s t g) ∧
    ((grp s g).wait.code = 5 → counter (grp s g).counters (grp s g).wait.obj ≤ (grp s g).wait.opnd →
      ∃ t, exec (.pathWaitRelease g) s = .next t ∧ onlyGroups s t ∧ woken s t g))

/-- The bytes of an encoded instruction, group instruction or stream word, decode to it, with every field at every value, and what follows
them is left (R138, R154, R163, R170). -/
def Obligations.DecodeInvertsEncode : Prop :=
  (∀ i rest, i.isGroup = true → ∃ w, encode i = some w ∧ decode (toBytesLE 8 w.toNat ++ rest) = .ok (i, rest)) ∧
  (∀ i rest, i.isStream = true → ∃ w, encode i = some w ∧ decodeStreamBytes (toBytesLE 8 w.toNat ++ rest) = .ok (i, rest))

/-- What decodes is the encoding of what it decodes to, so no two words decode to one instruction; the words that decode to none are those
of the unallocated group opcodes, and in a stream those of opcode 0x00 and 0x0C to 0xFF (R163, R170, R171, R174). -/
def Obligations.EncodeInvertsDecode : Prop :=
  (∀ bs i rest, decode bs = .ok (i, rest) → ∃ w, encode i = some w ∧ bs = toBytesLE 8 w.toNat ++ rest ∧ i.isGroup = true) ∧
  (∀ bs i rest, decodeStreamBytes bs = .ok (i, rest) → ∃ w, encode i = some w ∧ bs = toBytesLE 8 w.toNat ++ rest ∧ i.isStream = true) ∧
  (∀ w, decodeWord w = none ↔ unallocated.any (fun r => decide (r.1 ≤ opcodeOf w) && decide (opcodeOf w ≤ r.2)) = true) ∧
  (∀ w, decodeStream w = none ↔ opcodeOf w = 0 ∨ 0x0C ≤ opcodeOf w)

/-- Words the chapters write out decode to the instructions they stand for: Table 9-7 and the examples of chapters 08 to 15. -/
def Obligations.SpecWordsDecode : Prop :=
  let zero : FmtT := decodeT 0
  decodeWord 0x6104010200000000 = some (.vadd { zero with d := 4, a := 1, b := 2 }) ∧
  decodeWord 0xA207030500100000 = some (.fmul { zero with d := 7, a := 3, b := 5, kb := 1 }) ∧
  decodeWord 0xA308040706000000 = some (.ffma { zero with d := 8, a := 4, b := 7, c := 6 }) ∧
  decodeWord 0x8104010000000064 = some (.vaddImm { decodeI 0 with d := 4, a := 1, imm := 100 }) ∧
  decodeWord 0x5500044000000048 = some (.loop { decodeI 0 with a := 4, ka := 1, imm := 0x48 }) ∧
  decodeWord 0x6F0A010100200040 = some (.vcmp { zero with d := 0x0A, a := 1, b := 1, kb := 2, op := 0x40 }) ∧
  decodeWord 0x4200000A00100002 = some (.mand { zero with b := 0x0A, kb := 1, op := 2 }) ∧
  decodeWord 0x5100000000000018 = some (.bz { decodeI 0 with imm := 0x18 }) ∧
  decodeWord 0x7906010203000176 = some (.vdot4 { zero with d := 6, a := 1, b := 2, c := 3, sat := true, op := 0x76 }) ∧
  decodeWord 0xD205040206240004 = some (.vshfl { zero with d := 5, a := 4, b := 2, c := 6, kb := 2, kc := 1, op := 4 }) ∧
  decodeWord 0xE103060092000000 = some (.tst { decodeM 0 with d := 3, a := 6, ka := true, size := 2, fe := 1 }) ∧
  decodeWord 0xEF00000000140000 = some (.fence { decodeA 0 with scope := 1, order := 2 }) ∧
  decodeWord 0x9200040500CE0000 =
    some (.tremote { decodeE 0 with a := 4, b := 5, acq := true, acqScope := 4, rel := true, relScope := 6 }) ∧
  decodeWord 0x9510000203990001 =
    some (.fork { decodeE 0 with d := 0x10, b := 2, c := 3, acq := true, acqScope := 1, rel := true, relScope := 1, op := 1 }) ∧
  decodeWord 0x9808100406C00000 = some (.trace { decodeE 0 with d := 8, a := 0x10, b := 4, c := 6, acq := true, acqScope := 4 }) ∧
  decodeStream 0x010000080280C000 = some (.mma { decodeZ 0 with b := 8, c := 2, mods := 0x80C000 }) ∧
  decodeStream 0x0508000000100000 = some (.mzst { decodeZ 0 with d := 8, mods := 0x100000 }) ∧
  decodeStream 0x0800010500000000 = some (.mflwait { decodeZ 0 with a := 1, b := 5 })

/-- A step runs the decoded instruction: of the acting group when the agenda is empty, of the group or the matrix sequencer at the head of
the agenda, the members of a pair one after the other with the pair's trap after both, and an event as it stands. A group at a clause's
header reads the clause's words there, and waits on its path counter (R140, R153). The bytes at an instruction's address are those of its
code object's page (R21, R111, R138, R152, R275). The agenda is the model's (notes/assumptions/1.md). -/
def Obligations.StepRunsDecodedInstruction : Prop :=
  (∀ s c i, s.agenda = [] → reads s c i → step s = exec i s) ∧
  (∀ s g rest c i, s.agenda = .group g :: rest → reads (actAs (setAgenda s rest) g) c i →
    step s = exec i (actAs (setAgenda s rest) g)) ∧
  (∀ s i j t u, s.agenda = [] → pickedUp s s.cur = .two i j → exec i (pairFirst s s.cur) = .next t →
    exec j (pairSecond t s.cur) = .next u → step s = .next (pairDone u s.cur)) ∧
  (∀ s u c rest r w i, s.agenda = .stream c :: rest → runOn (actAsCore (setAgenda s rest) c) c = some r →
    (actingRun (actAsCore (setAgenda s rest) c)).isSome = true → streamFetch (actAsCore (setAgenda s rest) c) r = (u, .ok w) →
    decodeStream w = some i → step s = exec i u) ∧
  (∀ s i rest, s.agenda = .event i :: rest → i.isGroup = false → i.isStream = false → step s = exec i (setAgenda s rest)) ∧
  (∀ s w, let h := pcHeader (me s).pc; let c := headerOf w
    s.agenda = [] → sound s → (me s).clause = none → boundary s s.cur = none → mayTurn s s.cur = true → fetch s s.cur h = some w →
    headerOk s s.cur h w = true →
    ∃ t, step s = .next t ∧ keepsAll s t ∧ (grp t s.cur).clause = some c ∧ (grp t s.cur).pc = (me s).pc ∧
      (∀ i, i < c.count → wordAt (grp t s.cur) i = fetch s s.cur (h + 8 + 8 * i)) ∧
      (c.wpath < 6 → c.wthresh < counter (me s).counters c.wpath →
        (grp t s.cur).wait = { code := 5, obj := c.wpath, opnd := c.wthresh })) ∧
  (∀ s g va p, let c := codeOf s g
    sound s → c.flat = false → c.text.1 ≤ va → va + 8 ≤ c.text.2 → codePhys c va = some p → physOk s.poundSize p 8 = true →
    fetch s g va = some (BitVec.ofNat 64 (rd s p 8)))

/-- Reset leaves the registers that the specification gives a value at it: `%deviceid` 0, duty modes 0, the log off, no queue enabled, the
reach limits 0 and 288, the rate adjustment 0, `%clock` 0 and no density history (R23, R61, R131, R361, R362, R371, R380, R397, Table 17-6). The
module is not ready, and nothing runs (R375). Memory is canonical and reads as zero, as this model has it where the specification gives no
contents (notes/assumptions/2.md). -/
def Obligations.ResetState : Prop :=
  let s := State.reset
  s.deviceId = 0 ∧ s.duty = 0 ∧ s.log.en = false ∧ s.log.size = 0 ∧ s.log.ovf = false ∧ (∀ q, (queueAt s q).enabled = false) ∧
    (∀ d, (dieReach s d).gmin = 0 ∧ (dieReach s d).gmax = 288) ∧ s.bar.freq = 0 ∧ s.bar.locked = false ∧ s.clock = 0 ∧ s.density = [] ∧
    s.ready = false ∧ s.groups = [] ∧ Memory.wf s.mem = true ∧ ∀ a, byteAt s.mem a = 0

/-- Every step of every agent keeps memory in its canonical form. -/
def Obligations.StepKeepsMemoryCanonical : Prop := ∀ s t, Memory.wf s.mem = true → step s = .next t → Memory.wf t.mem = true

/-- A tow instruction whose descriptor and landing lie in the team's allocation reads and checks its descriptor, takes a place in the core's
queue and moves on; with 128 commands there it blocks, and a slot that becomes free places it. A descriptor that Table 25-4 rejects ends the
command with status 0x01. A misplaced or misaligned descriptor or landing is a precise cause 0x08 (R259, R260, R435, R438, R504). -/
def Obligations.TowCommandsIssue : Prop :=
  (∀ r ∈ towForms, ∀ f s, issues none false (r.1 f) s = true → towPlaced r.2 f s.cur s = true →
    (towQueued s (coreOf s s.cur) < 128 ∨
        sound s ∧ towClear r.2 f s.cur s = true ∧ (towRejected r.2 f s.cur s).isSome = true →
      ∃ t, exec (r.1 f) s = .next t ∧ movedOn s t ∧ (s.log.en = false → sameMemory s t) ∧ towTaken s t r.2 f s.cur) ∧
    (128 ≤ towQueued s (coreOf s s.cur) → towClear r.2 f s.cur s = false →
      ∃ t, exec (r.1 f) s = .next t ∧ blockedOn s t true 11 (5 * 2 ^ 60 + towOff f (me s)) r.2) ∧
    (128 ≤ towQueued s (coreOf s s.cur) → sound s → towClear r.2 f s.cur s = true → towRejected r.2 f s.cur s = none →
      ∃ t, exec (r.1 f) s = .next t ∧ keepsAll s t ∧ t.tows = s.tows ++ [{ towRead r.2 f s.cur s with phase := .waiting }] ∧
        (grp t s.cur).wait = { code := 11, obj := 5 * 2 ^ 60 + towOff f (me s), opnd := r.2 } ∧ (grp t s.cur).pc = (me s).pc)) ∧
  (∀ r ∈ towForms, ∀ f s, issues none false (r.1 f) s = true → hasHandler s s.cur = true →
    ((towOff f (me s) % 64 ≠ 0 ∨ (teamOf s s.cur).allocSize < towOff f (me s) + towSize r.2) →
      ∃ t, exec (r.1 f) s = .next t ∧ t.tows = s.tows ∧ trapped s t 8 0 (some (5 * 2 ^ 60 + towOff f (me s)))) ∧
    (towOff f (me s) % 64 = 0 → towOff f (me s) + towSize r.2 ≤ (teamOf s s.cur).allocSize →
      landingBad s s.cur (towLand f (me s)) = true →
      ∃ t, exec (r.1 f) s = .next t ∧ t.tows = s.tows ∧ trapped s t 8 0 (some (5 * 2 ^ 60 + towLand f (me s))))) ∧
  (∀ g s, g < s.groups.length → (grp s g).wait.code = 11 → onCore s g = true → towQueued s (coreOf s g) < 128 →
    (∀ n, waitingTow s g = some n → ∃ t, exec (.towQueueSlot g) s = .next t ∧ keepsAll s t ∧ t.ops = s.ops ∧
      towOf t n = { towOf s n with phase := .queued } ∧ (∀ m, m ≠ n → towOf t m = towOf s m) ∧ (grp t g).wait = {}) ∧
    (∀ r ∈ towForms, ∀ f, waitingTow s g = none → instrAt s g = some (r.1 f) → towPlaced r.2 f g s = true →
      ∃ t, exec (.towQueueSlot g) s = .next t ∧ towTaken s t r.2 f g ∧ (grp t g).wait = {} ∧ ∀ h, registers (grp t h) = registers (grp s h)))

/-- A descriptor whose read was held is read whole once it may be, and its command accepted, or ended with status 0x01 by its first field
that Table 25-4 rejects. A queued command is taken once its acquire allows; one with a range outside its space ends with status 0x02. A
running command reads and writes its ranges one by one, in an order the module leaves open: `tcopy` writes the bytes it has read, `tfill` the
repeated pattern, `txform` its sums, scaled and converted; with no access left it is finishing. A row of `tflush` of memory that no pound
caches writes nothing (R260 to R268, R272, R438, R464).
A command all of whose accesses have been performed writes its status word, sets that word full, and counts its bytes on its landing,
with `land_update` (R256, R261, R262; Tables 13-2 and 13-3). The units and the open order of a command's accesses are the model's: log
entry 27. -/
def Obligations.TowRowsArePerformed : Prop :=
  ((∀ n o s, let c := towOf s n; let x := op s o; let r := laneReq x 0
     let c1 := { c with bytes := readBytes s.mem c.desc x.size }
     n < s.tows.length → calm s → c.oper ≠ 0xFE → c.phase = .reading → c.status = 0 → isHeld s (.tow n) = false →
     s.ops.findIdx? (fun x => x.kind == .descriptor n && !x.finished) = some o → laneReady s o r = true → x.path = none → x.failed = [] →
     ((towChecks c1).find? (·.2) = none →
       ∃ t, exec (.towCommandStart n) s = .next t ∧ keepsAll s t ∧ towOf t n = { c1 with phase := .queued }) ∧
     (∀ off, (towChecks c1).find? (·.2) = some (off, true) →
       ∃ t, exec (.towCommandStart n) s = .next t ∧ recorded s t 0x0918 1 off ∧ towOf t n = { c1 with status := 1, phase := .finishing } ∧
         ∀ h, registers (grp t h) = registers (grp s h))) ∧
   (∀ n s, let c := towOf s n; let s1 := modTow s n (fun c => { c with phase := .running })
     n < s.tows.length → calm s → c.oper ≠ 0xFE → c.phase = .queued → c.status = 0 → isHeld s (.tow n) = false →
     towAcquired s c = true → (c.oper = 0x92 → portAdmits s n = true ∧ reachable s1 c = true) →
     (∀ p, badSpan s1 c = some p →
       ∃ t, exec (.towCommandStart n) s = .next t ∧ (towOf t n).status = 2 ∧ (towOf t n).phase = .finishing ∧
         ∀ h, registers (grp t h) = registers (grp s h)) ∧
     (badSpan s1 c = none → ¬ (c.oper = 0x90 ∧ tMode c = 3) →
       ∃ t, exec (.towCommandStart n) s = .next t ∧ keepsAll s t ∧ towOf t n = { c with phase := .running })) ∧
   (∀ n s j k a len ps, let c := towOf s n
     towReaches s n (.read j k a len) false a len ps →
     ∃ t, exec (towTurn s n) s = .next t ∧ keepsAll s t ∧ towOf t n = { c with brought := c.brought ++ [((j, k), piecesHold s ps)] }) ∧
   (∀ n s r ps, let c := towOf s n; let p := copyAddrs c r (bytesLE (piecesHold s ps))
     towReaches s n (.index r) false (rowAt (tfield c 0x30 8) 4 r) 4 ps →
     rangeOk s (towSpace s c) (tfield c 0 8) p.1 (tLength c) = true → rangeOk s (towSpace s c) (tfield c 8 8) p.2 (tLength c) = true →
     ∃ t, exec (towTurn s n) s = .next t ∧ keepsAll s t ∧
       towOf t n = { c with indexes := c.indexes ++ [(r, bytesLE (piecesHold s ps))] }) ∧
   (∀ n s j k a len ps job, let c := towOf s n; let bs := writeBytesOf c j k job
     towReaches s n (.write j k a len) true a len ps → jobAt c j = some job → hostScatter s c ps = false → apart ps →
     bs.length = (ps.map (·.len)).sum →
     ∃ t, exec (towTurn s n) s = .next t ∧ wroteAt s t ps bs ∧ towOf t n = noteWrite j k job c) ∧
   (∀ n s j r a len ps bs, let c := towOf s n
     towReaches s n (.write j 0 a len) true a len ps → c.oper = 0x90 → jobAt c j = some { reads := [(r, len)], writes := [(a, len)] } →
     c.brought.find? (fun p => p.1 == (j, 0)) = some ((j, 0), bs) → bs.length = len → (ps.map (·.len)).sum = len →
     hostScatter s c ps = false → apart ps →
     ∃ t, exec (towTurn s n) s = .next t ∧ wroteAt s t ps bs ∧ (towOf t n).finished = c.finished ++ [j]) ∧
   (∀ n s j a len ps, let c := towOf s n
     towReaches s n (.write j 0 a len) true a len ps → c.oper = 0x94 → jobAt c j = some { reads := [], writes := [(a, len)] } → len ≤ 8 →
     (ps.map (·.len)).sum = len → apart ps →
     ∃ t, exec (towTurn s n) s = .next t ∧ (towOf t n).finished = c.finished ++ [j] ∧
       wroteAt s t ps ((List.range len).map (fun q => BitVec.ofNat 8 (tfield c 0 8 / 2 ^ (8 * ((j % tLength c + q) % 8)))))) ∧
   (∀ n s, let c := towOf s n
     n < s.tows.length → c.oper ≠ 0x93 → c.oper ≠ 0xFE → c.phase = .running → isHeld s (.tow n) = false → calm s →
     towNext s c (freeNat s) = none →
     ∃ t, exec (towTurn s n) s = .next t ∧ keepsAll s t ∧ towOf t n = { c with phase := .finishing }) ∧
   (∀ n s ps, let c := towOf s n
     towRuns s n 0x93 → reachTow s n {} (rowAt (tfield c 0 8) (tsigned c 0x20) c.row) (tLength c) = .ok s ps → piecesQuiet s c ps = true →
     ∃ t, exec (.towCommandStart n) s = .next t ∧ keepsAll s t ∧ rowDone s t n)) ∧
  (∀ n s, let c := towOf s n; let l := c.landing
     let u := landUpdate (rd s l 4) ((rd s (l + 4) 4 + towCount c) % 2 ^ 32) (rd s (l + 8) 4)
     n < s.tows.length → calm s → c.phase = .finishing → c.oper ≠ 0xFE → (c.oper ≠ 0x92 ∨ tDone c = false) → remotesDone s n = true →
     landingSettled s c = true → (c.desc + 0x20 ≤ l ∨ l + 12 ≤ c.desc + 0x1C) →
     ∃ t, exec (.towCommandComplete n) s = .next t ∧ rd t (c.desc + 0x1C) 4 = (c.status * 2 ^ 24 + c.flags) % 2 ^ 32 ∧
       (isScratch (c.desc + 0x1C) = true → (c.desc + 0x1C) % 4 = 0 → isFull t (c.desc + 0x1C) = true) ∧
       rd t l 4 = u.1 % 2 ^ 32 ∧ rd t (l + 4) 4 = u.2.1 % 2 ^ 32 ∧ rd t (l + 8) 4 = u.2.2 % 2 ^ 32 ∧
       (∀ a, (a < c.desc + 0x1C ∨ c.desc + 0x20 ≤ a) → (a < l ∨ l + 12 ≤ a) → byteAt t.mem a = byteAt s.mem a) ∧
       (∀ h, registers (grp t h) = registers (grp s h)) ∧ (towOf t n).phase = .done)

/-- `fork` starts a stream on an idle sequencer: the run takes the forking group's s[d..d+15] as its scalars and joins the flights of its
sets; a `fork` that `fork_ok` refuses sets the team's status 0x07; on a busy sequencer it blocks and is served in its turn. `rdv` waits for
the team's runs to end and reads the status of the latest (R36, R275 to R277). -/
def Obligations.ForkAndRendezvous : Prop :=
  (∀ f s, issues none false (.fork f) s = true →
    (runOn s (coreOf s s.cur) = none → forksWaiting s (coreOf s s.cur) = [] → forkOk s f = true →
      ∃ t, exec (.fork f) s = .next t ∧ movedOn s t ∧ sameMemory s t ∧ forked s t f) ∧
    (runOn s (coreOf s s.cur) = none → forksWaiting s (coreOf s s.cur) = [] → forkOk s f = false → (me s).team < s.teams.length →
      ∃ t, exec (.fork f) s = .next t ∧ movedOn s t ∧ sameMemory s t ∧ t.runs = s.runs ∧ (teamOf t s.cur).lastRun = 7 * 2 ^ 24) ∧
    ((runOn s (coreOf s s.cur)).isSome = true ∨ forksWaiting s (coreOf s s.cur) ≠ [] →
      ∃ t, exec (.fork f) s = .next t ∧ blockedOn s t true 7 (forkAddr s f) 0)) ∧
  (∀ f s g, g < s.groups.length → (grp s g).wait.code = 7 → runOn s (coreOf s g) = none → instrAt s g = some (.fork f) →
    leastBy (fun h => (grp s h).lastIssue) (forksWaiting s (coreOf s g)) = some g → forkOk (actAs s g) f = true →
    ∃ t, exec (.forkServed g) s = .next t ∧ sameMemory s t ∧ forked (actAs s g) t f ∧ (grp t g).wait = {} ∧
      ∀ h, registers (grp t h) = registers (grp s h)) ∧
  (∀ f s, issues none false (.rdv f) s = true →
    (runsEnded s (me s).team s.runs.length = true →
      ∃ t, exec (.rdv f) s = .next t ∧ wrote s t (one f.d (BitVec.ofNat 32 (teamOf s s.cur).lastRun))) ∧
    (runsEnded s (me s).team s.runs.length = false →
      ∃ t, exec (.rdv f) s = .next t ∧ blockedOn s t false 8 0 0 ∧ (grp t s.cur).waitReg = f.d.toNat)) ∧
  (∀ g s, let x := grp s g
    g < s.groups.length → x.wait.code = 8 → onCore s g = true → runsEnded s x.team x.waitRuns = true →
    ∃ t, exec (.rdvRelease g) s = .next t ∧ onlyGroups s t ∧ (grp t g).wait = {} ∧ (∀ h, h ≠ g → grp t h = grp s h) ∧
      registers (grp t g) = { registers x with sregs := (setSreg x.waitReg (BitVec.ofNat 32 (teamOf s g).lastRun) x).sregs })

/-- Stream words on codebooks and tiles: `mcb` loads sixteen codebook entries; `mzero` zeroes, `mscal` scales and `mzld` loads tiles;
`mzst` stores a tile converted. A word over several tiles takes one at a time; the inc bit then steps its scalar (R278, R279, R286 to
R288, R293). -/
def Obligations.StreamTileWords : Prop :=
  (∀ f s r, let x := runAt s r; let off := scalar x f.a.toNat
    tilesFree s r [] → f.d.toNat < 8 → scalarOk f.a (zbit f 13) = true → f.b = 0 → f.c = 0 → f.mods &&& 0xFFDFFF = 0 →
    runRange s r off 32 32 = true →
    ∃ t y, exec (.mcb f) s = .next t ∧ t = { s with runs := t.runs, sync := t.sync } ∧ runIs s t r (pastWord y) ∧
      y = { x with slots := y.slots, scalars := (stepScalar f.a.toNat (zbit f 13) x).scalars } ∧
      (∀ i, i < 16 → mapGet 0 y.slots (16 * f.d.toNat + i) = rd s (runLoc s r off + 2 * i) 2) ∧
      ∀ k, (k < 16 * f.d.toNat ∨ 16 * f.d.toNat + 16 ≤ k) → mapGet 0 y.slots k = mapGet 0 x.slots k) ∧
  (∀ f s r, let z := (runAt s r).tile.getD f.d.toNat
    tilesFree s r (tileRun f) → f.a = 0 → f.c = 0 → f.mods = 0 →
    ∃ t, exec (.mzero f) s = .next t ∧ t = { s with runs := t.runs, tiles := t.tiles } ∧ oneTile f s t r (runAt s r) ∧
      tilesHold s t (tileKeys s r z) (fun _ => 0)) ∧
  (∀ f s r, let z := (runAt s r).tile.getD f.d.toNat
    let p (i : Nat) := (fmul (fdecode f32 (scalar (runAt s r) f.a.toNat)) (fdecode f32 (tileElem s r z i))).1
    tilesFree s r (tileRun f) → scalarOk f.a false = true → f.c = 0 → f.mods = 0 →
    ∃ t y, exec (.mscal f) s = .next t ∧ t = { s with runs := t.runs, tiles := t.tiles } ∧ oneTile f s t r y ∧
      y = { runAt s r with flags := y.flags } ∧ tilesHold s t (tileKeys s r z) (fun i => (fdeliver f32 .rne false (p i)).1 % 2 ^ 32)) ∧
  (∀ f s r, let x := runAt s r; let off := scalar x f.a.toNat
    tilesFree s r [f.d.toNat] → scalarOk f.a (zbit f 13) = true → f.b = 0 → f.c = 0 → f.mods &&& 0xFFDFFF = 0 →
    runRange s r off 16384 128 = true →
    ∃ t, exec (.mzld f) s = .next t ∧ t = { s with runs := t.runs, tiles := t.tiles, sync := t.sync } ∧
      runIs s t r (pastWord (stepScalar f.a.toNat (zbit f 13) x)) ∧
      tilesHold s t (tileKeys s r f.d.toNat) (fun i => rd s (runLoc s r off + 4 * i) 4)) ∧
  (∀ f s r, let x := runAt s r; let k := zfield f 20 4; let off := scalar x f.d.toNat; let sc := scalar x f.c.toNat
    let y := mzstRows k (zfield f 17 3) (zbit f 16) (zbit f 15) ((List.range 4096).map (tileElem s r f.a.toNat))
    let dst (a n : Nat) : Piece := { named := 0, loc := runLoc s r a, len := n, pound := false }
    tilesFree s r [f.a.toNat] → calm s → scalarOk f.d (zbit f 13) = true → f.b = 0 → zbit f 14 = false → zfield f 0 13 = 0 →
    mzstOk f = true → runRange s r off (512 * codeBits k) 32 = true → (isMx k = true → runRange s r sc 128 1 = true) →
    (isMx k = true → apart [dst off y.1.length, dst sc y.2.1.length]) →
    ∃ t, exec (.mzst f) s = .next t ∧ wroteAt s t [dst off y.1.length, dst sc y.2.1.length] (y.1 ++ y.2.1) ∧
      runIs s t r (pastWord (stepScalar f.d.toNat (zbit f 13) { x with flags := x.flags ||| y.2.2 })))

/-- Stream words on flights, loops and the end of a run: `mflsig` arrives for the run, `mflwait` waits for a phase, `mloop` opens a
stream loop or skips its body, `mnop` does nothing, and `mend` ends the run, which leaves its flights and gives its team its status. An
unallocated word is not executed: it halts the run with code 0x01 (R174, R289 to R291). -/
def Obligations.StreamControlWords : Prop :=
  (∀ f s r, let x := runAt s r; let k := teamFlight x.team f.a.toNat; let F := flight s k
    actingRun s = some r → calm s → f.d = 0 → f.b = 0 → f.c = 0 → f.mods = 0 → bitOf x.signals f.a.toNat = true →
    (earlySet F (.run r) = false → x.writes = [] →
      ∃ t, exec (.mflsig f) s = .next t ∧ t = { s with runs := t.runs, sync := t.sync } ∧ runIs s t r (pastWord x) ∧
        flight t k = arrive F (.run r) ∧ ∀ j, j ≠ k → flight t j = flight s j) ∧
    (earlySet F (.run r) = true → exec (.mflsig f) s = .next s)) ∧
  (∀ f s r, let x := runAt s r; let n := f.b.toNat
    let passed := phasePassed (flight s (teamFlight x.team f.a.toNat)).phase (BitVec.ofNat 32 (scalar x n))
    actingRun s = some r → f.d = 0 → n < 16 → f.c = 0 → f.mods = 0 → bitOf x.waits f.a.toNat = true →
    (passed = true → ∃ t, exec (.mflwait f) s = .next t ∧ t = { s with runs := t.runs } ∧
      runIs s t r (pastWord (setScalar n (scalar x n + 1) x))) ∧
    (passed = false → exec (.mflwait f) s = .next s)) ∧
  (∀ f s r, let x := runAt s r; let n := scalar x f.a.toNat; let last := x.pc + 8 * f.mods.toNat
    let l : LoopReg := { start := BitVec.ofNat 64 (x.pc + 8), stop := BitVec.ofNat 64 last, count := BitVec.ofNat 32 n }
    actingRun s = some r → f.d = 0 → f.a.toNat < 16 → f.b = 0 → f.c = 0 → f.mods ≠ 0 →
    (n = 0 → ∃ t, exec (.mloop f) s = .next t ∧ t = { s with runs := t.runs } ∧ runIs s t r { x with pc := last + 8 }) ∧
    (n ≠ 0 → x.loop0.count = 0 →
      ∃ t, exec (.mloop f) s = .next t ∧ t = { s with runs := t.runs } ∧ runIs s t r { x with loop0 := l, pc := x.pc + 8 }) ∧
    (n ≠ 0 → x.loop0.count ≠ 0 → x.loop1.count = 0 →
      ∃ t, exec (.mloop f) s = .next t ∧ t = { s with runs := t.runs } ∧ runIs s t r { x with loop1 := l, pc := x.pc + 8 })) ∧
  (∀ f s r, actingRun s = some r → f.d = 0 → f.a = 0 → f.b = 0 → f.c = 0 → f.mods = 0 →
    (∃ t, exec (.mnop f) s = .next t ∧ t = { s with runs := t.runs } ∧ runIs s t r (pastWord (runAt s r))) ∧
    ((runAt s r).writes = [] → (runAt s r).team < s.teams.length → calm s →
      ∃ t, exec (.mend f) s = .next t ∧ runEnded s t r (runAt s r).flags ∧
        ∀ k, k < 16 → (bitOf (runAt s r).signals k = true ∨ bitOf (runAt s r).waits k = true) →
          memberOf (flight t (teamFlight (runAt s r).team k)) (.run r) = none)) ∧
  (∀ w s r, let x := runAt s r
    actingRun s = some r → atRest s → x.writes = [] → x.team < s.teams.length →
    ∃ t, exec (.unallocatedStreamWord w) s = .next t ∧ runEnded s t r (2 ^ 24 + (x.pc - x.first) / 8 % 2 ^ 16 * 2 ^ 8 + x.flags))

/-- An `mma` whose record, ranges and holders are good is computed from the values its operands have when it starts: its update of the
tile is due 224 clocks later, the holders' registers are pinned, and the sequencer takes no other word for 192 clocks. Then the pins end;
a due update is written to its elements and no other (R85 to R87, R281 to R285, R292). -/
def Obligations.MatrixMultiplies : Prop :=
  (∀ f s r, let x := runAt s r; let b := blockRec (readBytes s.mem (runLoc s r (scalar x f.c.toNat)) 32)
    let hs := (List.range 4).filterMap (fun q => (holderOf s r q).map (fun g => (q, g, holderRegs s g f.b.toNat)))
    tilesFree s r [] → f.d.toNat < (team s x.team).hdr.ztiles → scalarOk f.a (zbit f 13) = true → scalarOk f.c false = true →
    zfield f 0 12 = 0 → zfield f 22 2 < 3 → zfield f 19 3 ≤ 4 → (zfield f 22 2 = 2 ∨ zfield f 14 4 = 0) →
    (zfield f 22 2 = 0 → ∀ w ∈ x.writes, w.tile ≠ f.d.toNat) → runRange s r (scalar x f.c.toNat) 32 32 = true →
    recordOk b (zfield f 22 2) (zfield f 19 3) (zbit f 18) = true → mmaRanges s r (scalar x f.a.toNat) b = true →
    (∀ q, q < 4 → holderBad s r f.b.toNat q = false) → holderBusy s (hs.map (·.2)) = false →
    (∀ h ∈ hs, ∀ n ∈ h.2.2, backed (grp s h.2.1) n = false) →
    ∃ t w, exec (.mma f) s = .next t ∧ t = { s with runs := t.runs, pins := t.pins, sync := t.sync } ∧ (runAt t r).writes = x.writes ++ [w] ∧
      (runAt t r).reading = some s.clock ∧ w.tile = f.d.toNat ∧ w.due = s.clock + 224 ∧
      (∀ h ∈ hs, ∀ n ∈ h.2.2, { run := r, g := h.2.1, reg := n } ∈ t.pins) ∧
      (∀ q g i jj, q < 4 → holderOf s r q = some g → i < 64 → jj < 16 → (64 * i + 16 * q + jj, mmaAt f s r b q g i jj) ∈ w.values) ∧
      ∀ p ∈ w.values, ∃ q i jj, q < 4 ∧ (holderOf s r q).isSome = true ∧ i < 64 ∧ jj < 16 ∧ p.1 = 64 * i + 16 * q + jj) ∧
  (∀ r s k, r < s.runs.length → (runAt s r).reading = some k → k + 192 ≤ s.clock → (runAt s r).ended = false →
    ∃ t, exec (.mmaPinRelease r) s = .next t ∧ t = { s with runs := t.runs, pins := t.pins } ∧
      runIs s t r { runAt s r with reading := none } ∧ ∀ p, p ∈ t.pins ↔ p ∈ s.pins ∧ p.run ≠ r) ∧
  (∀ r s w rest, r < s.runs.length → sound s → (runAt s r).writes = w :: rest → w.due ≤ s.clock → (w.values.map (·.1)).Nodup →
    ∃ t, exec (.mmaTileWrite r) s = .next t ∧ t = { s with runs := t.runs, tiles := t.tiles } ∧
      runIs s t r { runAt s r with writes := rest } ∧
      tilesHold s t (w.values.map (fun p => tileKey s r w.tile p.1)) (fun i => (w.values.getD i (0, 0)).2 % 2 ^ 32))

/-- `trace` sends a barge for each active lane with a valid ray, once its core has return slots for them, and otherwise waits for them in
turn; `qfilt` and `qhash` send a request with the values of their active lanes; `pqlaunch` of a privileged grid places its record's read
and its grid. Each moves on at once (R298 to R302, R313, R315, R320, R443, R447). -/
def Obligations.QuayRequestsIssue : Prop :=
  (∀ f s, issues (some 3) false (.trace f) s = true → areaGood f s 32 32 = true →
    (activeLanes s s.cur ≠ [] →
      (traceLanes f s = [] ∨ raySlotsHeld s (coreOf s s.cur) + (traceLanes f s).length ≤ raySlots ∧ slotWaiters s (coreOf s s.cur) = []) →
      ∃ t, exec (.trace f) s = .next t ∧ requested s t 3 ∧ traced s t f) ∧
    (traceLanes f s ≠ [] → raySlots < raySlotsHeld s (coreOf s s.cur) + (traceLanes f s).length →
      ∃ t, exec (.trace f) s = .next t ∧
        blockedOn s t true 12 (spair (me s) f.b.toNat).toNat (traceLanes f s).length)) ∧
  (∀ g f s, g < s.groups.length → (grp s g).wait.code = 12 → instrAt s g = some (.trace f) →
    leastBy (fun h => (grp s h).lastIssue) (slotWaiters s (coreOf s g)) = some g →
    raySlotsHeld s (coreOf s g) + (grp s g).wait.opnd ≤ raySlots → areaGood f (actAs s g) 32 32 = true →
    (traceLanes f (actAs s g)).length ≤ (grp s g).wait.opnd → activeLanes s g ≠ [] →
    ∃ t, exec (.returnSlotsGranted g) s = .next t ∧ sameMemory s t ∧ traced (actAs s g) t f ∧ (grp t g).wait = {} ∧ t.cur = s.cur) ∧
  (∀ hash : Bool, ∀ f s, let i : Instr := if hash then .qhash f else .qfilt f
    let sel := if hash then (sreg (me s) f.c.toNat).toNat else 0
    issues (some 3) false i s = true → areaGood f s 16 (if hash then hashArea sel else 16) = true → activeLanes s s.cur ≠ [] →
    ∃ t o q, exec i s = .next t ∧ requested s t 3 ∧ t.ops = s.ops ++ [o] ∧ o.kind = .records ∧ o.records = (activeLanes s s.cur).length ∧
      t.quay = { s.quay with filters := s.quay.filters ++ [q] } ∧ q.op = s.ops.length ∧ q.hash = hash ∧ q.sel = sel ∧
      q.desc = (spair (me s) f.b.toNat).toNat ∧ q.area = landingLoc s s.cur (sreg (me s) f.d.toNat).toNat ∧ q.acq = acqOf f ∧
      q.lanes = (activeLanes s s.cur).map (fun l => (l, (List.range 3).map (fun i => (vlane (me s) (f.a.toNat + i) l).toNat)))) ∧
  (∀ f s, let rec_ := (spair (me s) f.a.toNat).toNat
    issues none false (.pqlaunch f) s = true → landingBad s s.cur (sreg (me s) f.b.toNat).toNat = false →
    ((gridOf s s.cur).privileged = true → rec_ % 64 = 0 →
      arenaOk s (stackOverCore (coreOf s s.cur)) (gridOf s s.cur).ctx rec_ 64 true true = true → physOk s.poundSize rec_ 64 = true →
      ∃ t c o i, exec (.pqlaunch f) s = .next t ∧ movedOn s t ∧ sameMemory s t ∧ t.tows = s.tows ++ [c] ∧ t.grids = s.grids ++ [i] ∧
        t.ops = s.ops ++ [o] ∧ o.kind = .descriptor s.tows.length ∧ c.oper = 0xFE ∧ c.desc = rec_ ∧ c.g = s.cur ∧ c.acq = acqOf f ∧
        c.landing = landingLoc s s.cur (sreg (me s) f.b.toNat).toNat ∧ i.pq = some s.tows.length ∧ i.width = 8) ∧
    ((gridOf s s.cur).privileged = false → (me s).intrap = false →
      ∃ t, exec (.pqlaunch f) s = .next t ∧ deferredHere s t 3 (some rec_)))

/-- `rast` gives the live lanes, in order, the covered samples that its walk of the triangle finds next: exec names the lanes that have
one, and the pair at c the walk's continuation and the tile. A triangle that is degenerate, culled, not finite or done gives none, and one
without samples an issue that writes no lane. An argument out of range, or a position outside the samples, is a deferred error of cause 0x0A
(R323 to R325, R442). -/
def Obligations.RastGivesCoveredSamples : Prop :=
  (∀ f s, issues none false (.rast f) s = true → rastGood f s = true →
    (bitField (rastK f s) 30 2 = 3 ∨ rastGiven f s = none ∨ ∃ r, rastGiven f s = some r ∧ rastDone f.op.toNat r = true) →
    ∃ t, exec (.rast f) s = .next t ∧ groupOnly s t ∧ registers (grp t s.cur) = rastFinished f s) ∧
  (∀ f s r, let ls := lanesOf (me s).live 64; let d := f.d.toNat
    let w := rastWalk r ls.length rastBound { pos := rastFrom f s r }
    let hits := w.hits.reverse
    issues none false (.rast f) s = true → rastGood f s = true → bitField (rastK f s) 30 2 ≠ 3 → rastGiven f s = some r →
    rastDone f.op.toNat r = false → (bitField (rastK f s) 30 2 = 0 ∨ rastShut f s = true ∨ rastInside f s r = true) →
    physRoom s s.cur (regSet (((List.range 5).map (d + ·)).filter (fun n => !regIn (me s).mapped n))) = true →
    ∃ t, exec (.rast f) s = .next t ∧ groupOnly s t ∧
      registers (grp t s.cur) = { registers (me s) with
        vregs := (grp t s.cur).vregs, exec := maskOf (ls.take hits.length)
        sregs := (setSreg (f.c.toNat + 1) (BitVec.ofNat 32 (((w.hits.head?).map tileOf).getD noTile))
          (setSreg f.c.toNat (BitVec.ofNat 32 (rastContinuation w.pos)) (me s))).sregs } ∧
      (∀ h ∈ ls.zip hits, ∀ i, i < 5 →
        vlane (grp t s.cur) (d + i) h.1 = BitVec.ofNat 32 ((rastResults r h.2.1 h.2.2).getD i 0)) ∧
      (∀ i, i < 5 → regIn (grp t s.cur).written (d + i) = true ∧ regIn (grp t s.cur).mapped (d + i) = true) ∧
      ∀ n l, l < 64 → (n < d ∨ d + 5 ≤ n ∨ l ∉ ls.take hits.length ∧ backed (me s) n = false) →
        vlane (grp t s.cur) n l = vlane (me s) n l) ∧
  (∀ f s, issues none false (.rast f) s = true → (me s).intrap = false →
    (rastGood f s = false ∨ bitField (rastK f s) 30 2 = 1 ∧ ∃ r, rastGiven f s = some r ∧ rastDone f.op.toNat r = false ∧
      rastShut f s = false ∧ rastInside f s r = false) →
    ∃ t, exec (.rast f) s = .next t ∧ deferredHere s t 1 none)

/-- The way of a ray: admission reads the generation and the directory and counts the barges in one event at the root record; a barge
enters the basin of its treelet, in the spill area when the SRAM is full; a free unit takes the barges of the chosen basin, once no barge
of its stack awaits a top step; a step of a search whose directory lies in no arena
ends the ray with status 0x04. A hit record lands as one write that sets its words full, and after the last record the generation's
counter falls by the barges that the trace had sent (R294, R300, R302, R305 to R308, R476, R477). -/
def Obligations.RaysTravelAndLand : Prop :=
  (∀ n s, let tr := traceAt s n; let gen := rd s tr.root 8; let c := counterOf tr.root gen
    n < s.quay.traces.length → calm s → bargesWith s (fun b => b.trace == n && b.place == .formed) ≠ [] →
    acquired s (op s tr.op).g tr.op tr.acq = true → unlocked s noOp tr.root 32 = true →
    ∃ t, exec (.traceAdmission n) s = .next t ∧ storedAt s t c (toBytesLE 8 ((rd s c 8 + tr.count) % 2 ^ 64)) ∧
      (traceAt t n).gen = some gen ∧ (traceAt t n).dir = rd s (tr.root + 8) 8 ∧ (∀ h, registers (grp t h) = registers (grp s h)) ∧
      ∀ b, bargeAt t b = if (bargeAt s b).trace = n ∧ (bargeAt s b).place = .formed then { bargeAt s b with place := .top } else bargeAt s b) ∧
  (∀ b s, let k := (bargeAt s b).stack
    (bargeAt s b).place = .moving → (((inBasins s k).map (bargeAt s)).filter (fun x => x.spill.isNone)).length < sramBarges →
    ∃ t, exec (.bargeArrival b) s = .next t ∧ t = { s with quay := t.quay } ∧ onlyBarge s t b ∧ (bargeAt t b).place = .basin ∧
      (bargeAt t b).arrived = mapGet 0 s.quay.arrivals k ∧ mapGet 0 t.quay.arrivals k = mapGet 0 s.quay.arrivals k + 1 ∧
      (bargeAt t b).spill = none) ∧
  (∀ b s, let k := (bargeAt s b).stack; let there := (inBasins s k).map (bargeAt s); let i := lowestFree (there.filterMap (·.spill))
    (bargeAt s b).place = .moving → sramBarges ≤ (there.filter (fun x => x.spill.isNone)).length → calm s →
    (bargeAt s b).ray.length = 8 →
    unlocked s noOp (spillSlot s k i) 64 = true → unlocked s noOp (spillIndex s k i) 4 = true →
    (spillSlot s k i + 64 ≤ spillIndex s k i ∨ spillIndex s k i + 4 ≤ spillSlot s k i) →
    ∃ t, exec (.bargeArrival b) s = .next t ∧ onlyBarge s t b ∧ (bargeAt t b).place = .basin ∧ (bargeAt t b).spill = some i ∧
      readBytes t.mem (spillSlot s k i) 64 = bargeBytes s (bargeAt s b) ∧ rd t (spillIndex s k i) 4 = slotWord s (bargeAt s b) % 2 ^ 32 ∧
      ∀ h, registers (grp t h) = registers (grp s h)) ∧
  (∀ k n u b s t, let turn : State := { s with quay := { s.quay with turns := mapSet 0 k (mapGet 0 s.quay.turns k + 1) s.quay.turns } }
    freeUnit s k = some u → chooseBasin s k = some b → (bargeAt s b).treelet = n →
    bargesWith s (fun b => b.place == .top && b.stack == k) = [] → takeBarges k u ((basinOf s b).take 512) turn = some t →
    exec (.traversalTurn k n) s = .next t) ∧
  (∀ b s, (bargeAt s b).place = .top →
    (∀ t, topStep s b = some t → exec (.topStep b) s = .next t) ∧
    (arenaOk s (bargeAt s b).stack (traceAt s (bargeAt s b).trace).ctx (traceAt s (bargeAt s b).trace).dir 256 true false = false →
      ∃ t, exec (.topStep b) s = .next t ∧ t = { s with quay := t.quay } ∧ onlyBarge s t b ∧ (bargeAt t b).place = .ended ∧
        (bargeAt t b).status = 4 ∧ (bargeAt t b).failed = (traceAt s (bargeAt s b).trace).dir)) ∧
  (∀ b s, let x := bargeAt s b; let tr := traceAt s x.trace
    x.place = .ended → calm s → unlocked s noOp (tr.area + 32 * x.lane) 32 = true → unlocked s noOp tr.root 32 = true →
    tr.op < s.ops.length →
    (1 < (op s tr.op).records →
      ∃ t, exec (.hitRecordLanding b) s = .next t ∧ storedAt s t (tr.area + 32 * x.lane) (hitRecord s x) ∧ onlyBarge s t b ∧
        (bargeAt t b).place = .landed ∧ recordLanded s t tr.op ∧ ∀ h, registers (grp t h) = registers (grp s h)) ∧
    (∀ gen, (op s tr.op).records = 1 → tr.gen = some gen → (∀ y ∈ s.quay.barges, y.trace = x.trace → y.status ≤ 1) →
      (op s tr.op).failed = [] →
      (tr.area + 32 * x.lane + 32 ≤ counterOf tr.root gen ∨ counterOf tr.root gen + 8 ≤ tr.area + 32 * x.lane) →
      ∃ t, exec (.hitRecordLanding b) s = .next t ∧ (op t tr.op).finished = true ∧ (bargeAt t b).place = .landed ∧
        rd t (counterOf tr.root gen) 8 = (rd s (counterOf tr.root gen) 8 + 2 ^ 64 - tr.count % 2 ^ 64) % 2 ^ 64 ∧
        ∀ i, i < 32 → byteAt t.mem (tr.area + 32 * x.lane + i) = (hitRecord s x).getD i 0))

/-- The any-hit program: a quay core of the stack takes up to eight candidates of one directory into the lanes of a new group, with each
candidate in v0 to v9; when the group has ended, a lane's v0 at its `exit` ignores the candidate (0), accepts it (1) or accepts it
and ends the ray (2), and any other end of the lane fails the ray; a group that has issued 2^24 instructions is ended (R310, R319, R479). -/
def Obligations.AnyHitGroupsDecide : Prop :=
  (∀ k b rest s s1 h core base place, let g := s.groups.length
    let bs := (b :: rest.filter (fun c => (traceAt s (bargeAt s c).trace).dir == (traceAt s (bargeAt s b).trace).dir &&
      (traceAt s (bargeAt s c).trace).ctx == (traceAt s (bargeAt s b).trace).ctx)).take 8
    bargesWith s (fun b => b.place == .candidate && b.stack == k) = b :: rest →
    quayHeader s (bargeCore s (bargeAt s b)) k (traceAt s (bargeAt s b).trace).ctx (bargeAt s b).ahk = (s1, .ok h) →
    10 ≤ (h.roles.headD { lanes := 0, budget := 0 }).budget → quayRoom s1 k (allocOf h) = some (core, base) → quayPlace s1 k = some place →
    (∀ c ∈ bs, (bargeAt s c).ray.length = 8) →
    ∃ t, exec (.anyHitGroupStart k) s = .next t ∧ t.groups.length = g + 1 ∧ (grp t g).anyHit = true ∧
      ∀ l c, bs[l]? = some c → (bargeAt t c).place = .testing g l ∧
        ∀ y, (bargeAt s c).cand = some y →
          vlane (grp t g) 0 l = BitVec.ofNat 32 y.t ∧ vlane (grp t g) 1 l = BitVec.ofNat 32 y.uv ∧
          vlane (grp t g) 2 l = BitVec.ofNat 32 y.prim ∧ vlane (grp t g) 3 l = BitVec.ofNat 32 y.inst ∧
          ∀ i, i < 6 → vlane (grp t g) (4 + i) l = BitVec.ofNat 32 ((bargeAt s c).ray.getD i 0)) ∧
  (∀ g b l y s, let v := exitValue (grp s g) l
    (grp s g).anyHit = true → (grp s g).ended = true → (bargeAt s b).place = .testing g l → (bargeAt s b).cand = some y →
    (∀ c, c ≠ b → ∀ h m, (bargeAt s c).place ≠ .testing h m) →
    ((grp s g).stranded = false → laneIn (grp s g).exited l = true → v = 2 →
      ∃ t, exec (.anyHitDecision g) s = .next t ∧ t = { s with quay := t.quay } ∧ onlyBarge s t b ∧ (bargeAt t b).place = .ended ∧
        (bargeAt t b).best = some y ∧ (bargeAt t b).status = 0) ∧
    (∀ t, (grp s g).stranded = false → laneIn (grp s g).exited l = true → v = 0 → b + 1 = s.quay.barges.length →
      goOn (modBarge s b (fun x => { x with cand := none })) b false = some t → exec (.anyHitDecision g) s = .next t) ∧
    ((grp s g).stranded = true ∨ laneIn (grp s g).exited l = false ∨ 2 < v →
      ∃ t, exec (.anyHitDecision g) s = .next t ∧ t = { s with quay := t.quay } ∧ onlyBarge s t b ∧ (bargeAt t b).place = .ended ∧
        (bargeAt t b).status = 6)) ∧
  (∀ g s, g < s.groups.length → spent (grp s g) = true → (grp s g).live ≠ 0 → (grp s g).ending = false → onCore s g = true →
    ∃ t, exec (.anyHitBudgetExceeded g) s = .next t ∧ (grp t g).ending = true ∧ (grp t g).live = 0 ∧ canIssue t g = false ∧
      ∀ h, h ≠ g → registers (grp t h) = registers (grp s h))

/-- A filter unit computes a lane's record, and it lands as one write that sets its words full; a request that is rejected lands the record
of NaN. `pqlaunch` completes when its groups have ended, or at once when it was rejected: its status is written and 64 counted on its
landing (R299, R313 to R316, R320, R443, R447). -/
def Obligations.FilterRecordsLand : Prop :=
  (∀ o lane i s, let q := s.quay.filters.getD i { op := 0, hash := false, desc := 0, area := 0, ctx := 0, stack := 0, lanes := [] }
    filterOf s o = some i → calm s → q.hash = false → filterReady s q lane 16 = true → q.op < s.ops.length → 1 < (op s q.op).records →
    (∀ b u, ((texRecord q (laneVals q lane)).run).run s = (.ok b, u) →
      ∃ t, exec (.qfiltRecord o lane) s = .next t ∧ storedAt s t (q.area + 16 * lane) b ∧ recordLanded s t q.op ∧
        ∀ h, registers (grp t h) = registers (grp s h)) ∧
    (∀ e u, ((texRecord q (laneVals q lane)).run).run s = (.error e, u) → e ≠ .held →
      ∃ t, exec (.qfiltRecord o lane) s = .next t ∧ storedAt s t (q.area + 16 * lane) nanRecord ∧ recordLanded s t q.op ∧
        ∀ h, registers (grp t h) = registers (grp s h))) ∧
  (∀ o lane i s u v h b, let q := s.quay.filters.getD i { op := 0, hash := false, desc := 0, area := 0, ctx := 0, stack := 0, lanes := [] }
    filterOf s o = some i → calm s → q.hash = true → filterReady s q lane (hashSize h q.sel) = true → q.op < s.ops.length →
    1 < (op s q.op).records → ((hashSetup q).run).run s = (.ok (some h, false), u) →
    ((hashRecord q h (laneVals q lane)).run).run u = (.ok b, v) →
    ∃ t, exec (.qhashRecord o lane) s = .next t ∧ storedAt s t (q.area + hashSize h q.sel * lane) b ∧ recordLanded s t q.op ∧
      ∀ h, registers (grp t h) = registers (grp s h)) ∧
  (∀ n i s, let c := towOf s n
    n < s.tows.length → calm s → (List.range s.grids.length).find? (fun i => (grid s i).pq == some n) = some i →
    (c.phase = .finishing ∨ c.phase = .running ∧ (grid s i).placed = quayTotal (grid s i) ∧ ∀ g ∈ gridGroups s i, (grp s g).ended = true) →
    (c.phase = .finishing ∨ groupsReleased s c (gridGroups s i) = true) →
    (∀ g ∈ gridGroups s i, (grp s g).stranded = false) → unlocked s noOp c.desc 64 = true →
    (c.desc + 0x20 ≤ c.landing ∨ c.landing + 12 ≤ c.desc + 0x1C) →
    ∃ t, exec (.pqlaunchComplete n) s = .next t ∧ statusAndLanding s t c.desc c.landing (c.status * 2 ^ 24 + c.flags) 64 ∧
      (towOf t n).phase = .done ∧ (grid t i).phase = .complete)

/-- Tokens and matching tables: `tokacq` asks for the next token of a granted tile, and its home returns the count and adds one; `tokskip`
closes a token at the units it names; `enqr` reads its payload and sends its record to its node's die, waits while the table is full, and its
record enters as its release allows, firing its node when every port has one (R326, R333 to R336, R348, R444, R445). -/
def Obligations.TokensAndMatching : Prop :=
  (∀ f s, let domain := (sreg (me s) f.a.toNat).toNat; let tile := (sreg (me s) f.b.toNat).toNat
    issues none false (.tokacq f) s = true →
    (domainGranted s s.cur domain = true → tileOk tile = true →
      ∃ t o, exec (.tokacq f) s = .next t ∧ launched s t o ∧ o.kind = .token domain tile ∧ o.du = [f.d.toNat] ∧ o.path = none) ∧
    (domainGranted s s.cur domain = false ∨ tileOk tile = false → (me s).intrap = false →
      ∃ t, exec (.tokacq f) s = .next t ∧ deferredHere s t 1 none)) ∧
  (∀ o s domain tile n, let x := op s o
    o < s.ops.length → x.g < s.groups.length → x.kind = .token domain tile → x.finished = false → x.failed = [] → x.path = none →
    x.du = [n] → (∀ i, i < o → (op s i).g = x.g → (op s i).finished = false → (op s i).kind ≠ .token domain tile) →
    ∃ t, exec (.tokacqPerformed o) s = .next t ∧ sameMemory s t ∧ (op t o).finished = true ∧
      sreg (grp t x.g) n = BitVec.ofNat 32 (tokenCount s domain tile) ∧
      tokenCount t domain tile = (tokenCount s domain tile + 1) % 2 ^ 32 ∧
      (∀ m, m ≠ n → sreg (grp t x.g) m = sreg (grp s x.g) m) ∧ ∀ h, h ≠ x.g → registers (grp t h) = registers (grp s h)) ∧
  (∀ f s, let domain := (sreg (me s) f.a.toNat).toNat; let token := (sreg (me s) f.b.toNat).toNat
    let tile := (sreg (me s) (f.b.toNat + 1)).toNat
    let open_ (u : Nat) : Bool := tokenTaken s s.cur domain tile token && decide (tokenNow s domain tile u ≤ token) &&
      !s.units.closed.contains (unitKey domain tile u, token)
    issues none false (.tokskip f) s = true →
    ((∀ u, u < 2 → f.op.getLsbD u = true → open_ u = true) →
      ∃ t, exec (.tokskip f) s = .next t ∧ t = { s with groups := t.groups, seq := t.seq, units := t.units } ∧ movedOn s t ∧
        ∀ u, u < 2 → f.op.getLsbD u = true →
          token < tokenNow t domain tile u ∨ t.units.closed.contains (unitKey domain tile u, token) = true) ∧
    ((∃ u, u < 2 ∧ f.op.getLsbD u = true) → (∀ u, u < 2 → f.op.getLsbD u = true → open_ u = false) → (me s).intrap = false →
      ∃ t, exec (.tokskip f) s = .next t ∧ deferredHere s t 1 none)) ∧
  (∀ f s n, issues none false (.enqr f) s = true → enqGood f s n →
    (matchUsed s n.die < matchEntries → sound s →
      ∃ t o, exec (.enqr f) s = .next t ∧ t = { s with groups := t.groups, seq := t.seq, sync := t.sync, ops := s.ops ++ [o] } ∧ movedOn s t ∧
        enqSent s f n o) ∧
    (matchEntries ≤ matchUsed s n.die →
      ∃ t, exec (.enqr f) s = .next t ∧ blockedOn s t true 13 (enqTarget f s) (sreg (me s) f.b.toNat).toNat)) ∧
  (∀ f s n g, let u := actAs s g
    g < s.groups.length → sound s → (grp s g).wait.code = 13 → onCore s g = true → instrAt s g = some (.enqr f) → enqGood f u n →
    (grp s g).wait.obj = enqTarget f u → matchUsed s n.die < matchEntries →
    readNode s (gridOf s g).ctx (gridOf s g).privileged (bitField (enqTarget f u) 0 16) = (s, some n) →
    ∃ t o, exec (.matchTableRoom g) s = .next t ∧ sameMemory s t ∧ t.ops = s.ops ++ [o] ∧ enqSent u f n o ∧ (grp t g).wait = {} ∧
      ∀ h, registers (grp t h) = registers (grp s h)) ∧
  (∀ o s node port tag p n, let x := op s o; let i := gridOf s x.g
    let r : Match := { die := x.stage, ctx := i.ctx, node, port, tag := tag.toNat, payload := p }
    o < s.ops.length → memoryFree s = true → x.kind = .enq node port tag p → x.finished = false →
    (laneIn x.performed 0 = false → payloadReady s o = true → sound s → let y := laneReq x 0
      ∃ t, exec (.tokenMatchEntry o) s = .next t ∧ keepsAll s t ∧ (op t o).finished = false ∧ laneIn (op t o).performed 0 = true ∧
        (op t o).kind = .enq node port tag (readBytes s.mem y.addr x.size)) ∧
    (laneIn x.performed 0 = true → x.failed = [] → x.path = none → earlierDone s x.g o x.scope true true = true →
      readNode s i.ctx i.privileged node = (s, some n) →
      (readyRecords (s.units.table ++ [r]) r n.ports = none →
        ∃ t, exec (.tokenMatchEntry o) s = .next t ∧ keepsAll s t ∧ (op t o).finished = true ∧
          t.units = { s.units with table := s.units.table ++ [r] }) ∧
      ∀ taken, readyRecords (s.units.table ++ [r]) r n.ports = some taken → unwatched s →
        ∃ t, exec (.tokenMatchEntry o) s = .next t ∧ (op t o).finished = true ∧ (∀ h, registers (grp t h) = registers (grp s h)) ∧
          t.units = { s.units with table := removeRecords (s.units.table ++ [r]) taken }))

/-- Called units: `callq` sends one record per active lane to the unit its call word names, once that unit's queue has room for them all;
the depth and blend units apply a batch of the current token record by record, each as one read-modify-write of its sample; a batch of a
later token is held, one of a wrong token answered with status 0x01; the tessellator answers its records; a return record lands as one
write that sets its words full (R327 to R332, R335, R441, R481). -/
def Obligations.CalledUnitsServe : Prop :=
  (∀ f s, issuesWith (some 4) false (callqSig s f) s = true → areaGood f s 32 32 = true → activeLanes s s.cur ≠ [] →
    let u := callUnit (callWord f s); let n := (activeLanes s s.cur).length
    ((u = 3 ∨ queuedRecords s (callDie f s) u + n ≤ 256 ∧ queueWaiters s (queueObject (callDie f s) u) = []) →
      ∃ t, exec (.callq f) s = .next t ∧ requested s t 4 ∧ calledOut s t f) ∧
    (u ≠ 3 → 256 < queuedRecords s (callDie f s) u + n →
      ∃ t, exec (.callq f) s = .next t ∧ blockedOn s t true 6 (queueObject (callDie f s) u) n)) ∧
  (∀ f s g, let v := actAs s g; let w := (grp s g).wait
    g < s.groups.length → w.code = 6 → instrAt s g = some (.callq f) → callUnit (callWord f v) ≠ 3 →
    w.obj = queueObject (callDie f v) (callUnit (callWord f v)) → w.opnd = (activeLanes s g).length → w.opnd ≠ 0 →
    leastBy (fun h => (grp s h).lastIssue) (queueWaiters s w.obj) = some g →
    queuedRecords s (callDie f v) (callUnit (callWord f v)) + w.opnd ≤ 256 → areaGood f v 32 32 = true →
    ∃ t, exec (.calledQueueRoom g) s = .next t ∧ sameMemory s t ∧ calledOut v t f ∧ (grp t g).wait = {} ∧ t.cur = s.cur) ∧
  (∀ b lane p rest s, let x := batchAt s b; let f := surfaceOf s x; let loc := sampleLoc f (p.getD 0 0) (p.getD 1 0)
    batchAt1 s b lane p rest → batchNext s b = true → x.kind ≤ 1 → tokenState s x = .current →
    (recordFault s x p = none → unlocked s noOp loc (sampleSize f) = true →
      (x.kind = 0 → let old := rd s loc 4; let pass := depthPass (callFn x.word) (p.getD 2 0) old
        ∃ t, exec (.calledRecordApply b) s = .next t ∧ answered s t b lane rest [0, pass.toNat, old, x.token] ∧
          (if pass ∧ bitOf x.word 12 then storedAt s t loc (toBytesLE 4 (p.getD 2 0)) else sameMemory s t)) ∧
      (x.kind = 1 → let y := blendResult (callFn x.word) f.format (p.drop 2) (rd s loc (sampleSize f))
        ∃ t, exec (.calledRecordApply b) s = .next t ∧ answered s t b lane rest (0 :: y.2) ∧
          storedAt s t loc (toBytesLE (sampleSize f) y.1))) ∧
    (∀ st, recordFault s x p = some st →
      ∃ t, exec (.calledRecordApply b) s = .next t ∧ answered s t b lane rest [st] ∧ sameMemory s t)) ∧
  (∀ b s, let x := batchAt s b
    b < s.units.batches.length → x.kind ≤ 1 →
    (batchNext s b = true → batchAcquired s x = true → tokenState s x = .wrong →
      ∃ t, exec (.calledRecordApply b) s = .next t ∧ t = { s with units := t.units } ∧ (batchAt t b).records = [] ∧
        (batchAt t b).returns = x.returns ++ x.records.map (fun p => (p.1, [1]))) ∧
    (queueHead s b = true → tokenState s x = .later → holdRoom s x.die x.kind x.records.length = true →
      ∃ t, exec (.batchHeld b) s = .next t ∧ t = { s with units := t.units } ∧ batchAt t b = { x with held := true })) ∧
  (∀ b lane p rest s, let x := batchAt s b
    batchAt1 s b lane p rest → queueHead s b = true → x.kind = 2 →
    ∃ t, exec (.tessellatorRecord b) s = .next t ∧ t = { s with units := t.units } ∧
      answered s t b lane rest (if callReserved x.word || p.getD 0 0 == 0 || decide (64 < p.getD 0 0) then [5]
        else if callFn x.word = 0 then [0, p.getD 0 0 * p.getD 0 0]
        else if p.getD 0 0 * p.getD 0 0 ≤ p.getD 1 0 then [5]
        else 0 :: (tessTriangle (p.getD 0 0) (p.getD 1 0)).map (fun q : Nat => toF32 (quotient q (p.getD 0 0))))) ∧
  (∀ b lane words rest s, let x := batchAt s b
    x.returns = (lane, words) :: rest → calm s → unlocked s noOp (x.area + 32 * lane) 32 = true → b < s.units.batches.length →
    x.op < s.ops.length → 1 < (op s x.op).records →
    ∃ t, exec (.returnRecordLanding b) s = .next t ∧ (batchAt t b).returns = rest ∧ recordLanded s t x.op ∧
      storedAt s t (x.area + 32 * lane) ((List.range 8).flatMap (fun i => toBytesLE 4 (words.getD i 0))) ∧
      ∀ h, registers (grp t h) = registers (grp s h))

/-- What comes about at an instruction boundary. A group enters the clause at its pc: its header is fetched and checked, and the clause's
path wait blocks it (R139, R140). Pending errors are answered by one trap for the earliest, an error of the handler's own halts the group
(R409, R413), a breakpoint is taken before its instruction and a step trap after one (R498, R499); a failed slot write leaves the register
mapped (R416), and a fill ends with its register mapped or with cause 0x06 (R49, R415). -/
def Obligations.InstructionBoundaries : Prop :=
  (∀ g s, boundary s g = none → (grp s g).clause = none → sound s → let h := pcHeader (grp s g).pc
    (hasHandler s g = true → fetch s g h = none → ∃ t, exec (.clauseEntry g) s = .next t ∧ handled s t g 7 0 (some h)) ∧
    (∀ w, hasHandler s g = true → fetch s g h = some w → headerOk s g h w = false →
      ∃ t, exec (.clauseEntry g) s = .next t ∧ handled s t g 1 0x0200 none) ∧
    (∀ w, fetch s g h = some w → headerOk s g h w = true → let c := headerOf w
      ∃ t, exec (.clauseEntry g) s = .next t ∧ onlyGroups s t ∧ restKept s t g ∧ (grp t g).clause = some c ∧
        (grp t g).pc = (grp s g).pc ∧ registers (grp t g) = registers (grp s g) ∧
        (∀ i, i < c.count → wordAt (grp t g) i = fetch s g (h + 8 + 8 * i)) ∧
        (grp t g).wait = (if c.wpath < 6 ∧ c.wthresh < counter (grp s g).counters c.wpath then { code := 5, obj := c.wpath, opnd := c.wthresh }
          else (grp s g).wait))) ∧
  (∀ g s d rest, atBoundary s g = true → hasHandler s g = true → (grp s g).pending = d :: rest →
    ∃ t, exec (.deferredTrap g) s = .next t ∧ handled s t g d.cause d.detail d.addr ∧ (grp t g).pending = []) ∧
  (∀ g s c, runnable s g = true → (grp s g).doomed = some c →
    ∃ t, exec (.doubleFault g) s = .next t ∧ restKept s t g ∧ registers (grp t g) = { registers (grp s g) with halted := true } ∧
      (grp t g).pc = (grp s g).pc ∧ recorded s t 0x01F0 2 c) ∧
  (∀ g s n, boundary s g = none → (grp s g).clause.isSome = true → (wordAt (grp s g) (pcIndex (grp s g).pc)).isSome = true →
    breakpointAt s g = some n → hasHandler s g = true →
    ∃ t, exec (.breakpointMatch g) s = .next t ∧ handled s t g 2 (0x0100 + n) none ∧ onlyGroups s t) ∧
  (∀ g s, atBoundary s g = true → (grp s g).pending = [] → (grp s g).stepping = some true → hasHandler s g = true →
    ∃ t, exec (.stepTrap g) s = .next t ∧ handled s t g 2 0x0200 none ∧ (grp t g).stepping = none ∧ onlyGroups s t) ∧
  (∀ g r s e, residentGroup s g = true → takeable s g r = true → writeSlot s g r = (s, some e) → g < s.groups.length →
    ∃ t, exec (.slotWriteFailure g r) s = .next t ∧ (∀ h, registers (grp t h) = registers (grp s h)) ∧
      (grp t g).mapped = (grp s g).mapped ∧ recorded s t 0x01F1 1 r ∧
      (grp t g).slotFault = some ((grp s g).slotFault.getD (0x0100 + r, slotAddr s g r))) ∧
  (∀ g s d a, runnable s g = true → (grp s g).doomed = none → (grp s g).slotFault = some (d, a) → (grp s g).clause.isSome = true →
    hasHandler s g = true → mayTurn s g = true → s.agenda = [.group g] →
    ∃ t, step s = .next t ∧ handled s t g 6 d (some a) ∧ (grp t g).slotFault = none) ∧
  (∀ g r s, (grp s g).filling = some r →
    ((readSlot s g r).2 = none → ∃ t, exec (.registerFillDone g r) s = .next t ∧ (∀ h, registers (grp t h) = registers (grp s h)) ∧
      (grp t g).filling = none ∧ (grp t g).mapped = (grp s g).mapped ||| BitVec.ofNat 256 (2 ^ r)) ∧
    ((readSlot s g r).2.isSome = true → hasHandler s g = true →
      ∃ t, exec (.registerFillDone g r) s = .next t ∧ handled s t g 6 r (some (slotAddr s g r)) ∧ (grp t g).mapped = (grp s g).mapped))

/-- The active set and a group's end: a ready group enters a free place in the order of its ready stamp, one that has starved takes a
place (R354, R356), a sleeper wakes after its clocks (R199), a halted group is ended after 100 ms without debug hold (R414), and an ended
group leaves its flights and its waits (R42). A group whose quay core does not execute its instruction is written to the spill area and moves
to its origin core, resumes there in a return slot with its scratchpad, and is stranded when it cannot be written or after 1 ms without a
slot (R318, R480). -/
def Obligations.ActiveSetAndEndOfGroups : Prop :=
  (∀ g s, (grp s g).sleepUntil ≠ 0 → (grp s g).sleepUntil ≤ s.clock →
    ∃ t, exec (.sleepExpiry g) s = .next t ∧ onlyGroups s t ∧ keepsAll s t ∧ (grp t g).sleepUntil = 0 ∧
      (grp t g).readyStamp = some s.clock) ∧
  (∀ core part s, (activeGroups s core part).length < 8 → (∃ g, readyPending s core part g) →
    ∃ t g, exec (.activeSetEntry core part) s = .next t ∧ readyPending s core part g ∧
      (∀ h, readyPending s core part h → (grp s g).readyStamp.getD s.clock ≤ (grp s h).readyStamp.getD s.clock) ∧
      onlyGroups s t ∧ keepsAll s t ∧ (grp t g).active = true ∧ (grp t g).entryStamp = s.clock) ∧
  (∀ core part h g s, oldestReady s (partitionGroups s core part) = some h → (grp s h).readyStamp.getD s.clock + 2048 ≤ s.clock →
    8 ≤ (activeGroups s core part).length → leastBy (fun g => (grp s g).entryStamp) (activeGroups s core part) = some g →
    (grp s g).clause = none →
    ∃ t, exec (.pendingStarvation core part) s = .next t ∧ onlyGroups s t ∧ keepsAll s t ∧ (grp t g).active = false ∧
      (grp t h).active = true) ∧
  (∀ g s, (grp s g).halted = true →
    (isQuayCore (coreOf s g) = true ∨ s.dbg.hold = false ∧ (grp s g).haltedAt + 100000000 ≤ timeOf s) →
    ∃ t, exec (.haltedGroupTimeout g) s = .next t ∧ restKept s t g ∧ issueEnded t g ∧ recorded s t 0x01F5 2 0) ∧
  (∀ g s, endReady s g = true →
    ∃ t, exec (.groupEnd g) s = .next t ∧ restKept s t g ∧ (grp t g).ended = true ∧ (grp t g).mapped = 0 ∧
      (∀ k, memberOf (flight t k) (.group g) = none) ∧ ∀ e ∈ t.sync.armed, e.g ≠ g) ∧
  ((∀ g u s, (grp s g).returning = 1 → (grp s g).live ≠ 0 → quiet s g = true → (grp s g).team < s.teams.length → calm s →
     (saveMoving s g = (u, true) →
       ∃ t, exec (.returnTrap g) s = .next t ∧ (∀ h, registers (grp t h) = registers (grp s h)) ∧ (grp t g).returning = 2 ∧
         (teamOf t g).core = (grp s g).origin ∧ (grp t g).mapped = 0 ∧ sameMemory u t ∧
         ∀ a, (grp s g).backing = 2 ^ 63 + a → a + quayPlaceSize ≤ 2 ^ 44 → (teamOf s g).allocSize ≤ 131072 →
           ∀ i, i < (teamOf s g).allocSize →
             byteAt t.mem (a + quayBacking + i) = byteAt s.mem (locTeam (teamOf s g).core (teamOf s g).allocBase + i)) ∧
     (saveMoving s g = (s, false) →
       ∃ t, exec (.returnTrap g) s = .next t ∧ restKept s t g ∧ issueEnded t g ∧ (grp t g).stranded = true ∧ recorded s t 0x0C21 1 0)) ∧
   (∀ g base b s, (grp s g).returning = 2 → (grp s g).team < s.teams.length → let n := allocOf (teamOf s g).hdr
     (∃ p, p < 4 ∧ slotTaken s (coreOf s g) p = false) → findRange s (coreOf s g) n = some base →
     readSpan s (backSpace s g) ((grp s g).backing + quayBacking) (n + n / 32) = (s, .ok b) →
     ∃ t p, exec (.returnSlotResume g) s = .next t ∧ (∀ h, registers (grp t h) = registers (grp s h)) ∧ (grp t g).returning = 0 ∧
       p < 4 ∧ slotTaken s (coreOf s g) p = false ∧ (grp t g).returnSlot = some p ∧ (teamOf t g).allocBase = base ∧
       ∀ i, i < n → byteAt t.mem (locTeam (coreOf s g) base + i) = b.getD i 0) ∧
   (∀ g s, (grp s g).returning = 2 → (grp s g).returnAt + 1000000 ≤ timeOf s →
     ∃ t, exec (.returnTrapTimeout g) s = .next t ∧ restKept s t g ∧ issueEnded t g ∧ (grp t g).stranded = true ∧
       recorded s t 0x0C21 1 1))

/-- A team is placed on the open core of its grid's reach with the most free group slots, ties to the lower number, and starts as Table 2-5
gives (R39, R345). A team whose groups have ended retires: it frees its flights, windows and place, and the last team of a grid adds 1 to
its done word (R43, R340). The launcher's projection raises the rung of a late grid and logs a grid late at its last rung (R353, R489); a
die's balancer moves one core at a time toward its target (R350, R351). -/
def Obligations.TeamsPlaceAndRetire : Prop :=
  (∀ i slot s, placesNow s i slot → let v := variantOf (grid s i) (grid s i).rung; let n := groupCount v.2 (grid s i).width
    let fits (c : Nat) : Bool := coreOpen s (grid s i).gfx c && fitsCore s c v.2 n
    (∃ c, c < numCores ∧ fits c = true) →
    ∃ t, exec (.teamPlacement i) s = .next t ∧ startedTeam s t i s.groups.length v.1 v.2 ∧ (grid t i).placed = (grid s i).placed + 1 ∧
      (let c := (team t s.teams.length).core
       c < numCores ∧ fits c = true ∧ ((grid s i).place = 0 → ∀ d, d < numCores → fits d = true →
         freeSlots s d < freeSlots s c ∨ freeSlots s d = freeSlots s c ∧ c ≤ d))) ∧
  (∀ x s, canRetire s x → let i := (team s x).grid
    ((grid s i).retired + 1 < (grid s i).nteams → (grid s i).done = none →
      ∃ t, exec (.teamRetirement x) s = .next t ∧ retiredTeam s t x ∧ sameMemory s t) ∧
    (∀ a, (grid s i).retired + 1 = (grid s i).nteams → (grid s i).done = some a → (grid s i).failed = false → (grid s i).keep = false →
      calm s → unlocked s noOp a 8 = true →
      ∃ t, exec (.teamRetirement x) s = .next t ∧ retiredTeam s t x ∧ (grid t i).phase = .complete ∧
        storedAt s t a (toBytesLE 8 ((rd s a 8 + 1) % 2 ^ 64)))) ∧
  (∀ i s, projected s i = true →
    ((grid s i).rung < (grid s i).rungmax → lateAt s i (grid s i).rung = true → lateAt s i ((grid s i).rung + 1) = false →
      ∃ t, exec (.deadlineProjection i) s = .next t ∧ keepsAll s t ∧ (grid t i).rung = (grid s i).rung + 1) ∧
    ((grid s i).rung = (grid s i).rungmax → lateAt s i (grid s i).rung = true → (grid s i).late = false →
      ∃ t, exec (.deadlineProjection i) s = .next t ∧ (grid t i).rung = (grid s i).rung ∧ (grid t i).late = true ∧
        recorded s t 0x0F01 4 (grid s i).rung)) ∧
  ((∀ d s, balances s d = true → (s.duty.getLsbD 5 = true ∨ deadlineGrids s d = []) →
     ∃ t, exec (.reachBalancerStep d) s = .next t ∧ balanced s t d (dieReach s d).target) ∧
   (∀ d s, balances s d = true → s.duty.getLsbD 5 = false → (∃ i ∈ deadlineGrids s d, lateAt s i (grid s i).rung = true) →
     ∃ t, exec (.reachBalancerStep d) s = .next t ∧ balanced s t d (clampTarget (dieReach s d) ((dieReach s d).target + 1))) ∧
   (∀ d c m s, (dieReach s d).mark = some (c, m) → teamsOn s (288 * d + c) = [] →
     ∃ t, exec (.reachCoreMove d) s = .next t ∧ keepsAll s t ∧ (dieReach t d).mark = none ∧
       (dieReach t d).bound = (if c < (dieReach s d).bound then (dieReach s d).bound - 1 else (dieReach s d).bound + 1)) ∧
   (∀ d c m s, (dieReach s d).mark = some (c, m) → (dieReach s d).preempt = true → m + 100000 ≤ timeOf s →
     ∃ t, exec (.reachPreemptTimeout d) s = .next t ∧ keepsAll s t ∧ ∀ u, u < s.teams.length →
       (team t u).phase = (if ((teamsOn s (288 * d + c)).any (fun v => !fromQuay s v && (stopSet s v).contains u) &&
         (team s u).phase == .resident) = true then .stopping else (team s u).phase)))

/-- A team that has waited too long stops the victim of R357's order; a stopped team with nothing under way is saved and leaves its core,
and the save that fails is cancelled (R357, R358, R417). A parked team that fits again is read back on its core: a group takes its registers
from its image, and ends when the team's area cannot be read or fails its check (R358, R418). -/
def Obligations.TeamsPreemptAndResume : Prop :=
  (∀ i s, mustPreempt s i = true → candidates s i ≠ [] →
    ∃ t v, exec (.preemptionStart i) s = .next t ∧ v ∈ candidates s i ∧ (∀ u ∈ candidates s i, victimKey s v ≤ victimKey s u) ∧
      keepsAll s t ∧ v ∈ stopSet s v ∧ (∀ u, u ∉ stopSet s v → team t u = team s u) ∧
      ∀ u ∈ stopSet s v, (team t u).phase = (if (team s u).phase = .resident then .stopping else (team s u).phase)) ∧
  (∀ x s s1 f, (team s x).phase = .stopping → saveReady s x = true → memoryFree s = true → calm s →
    (∀ g ∈ openGroups s x, (grp s g).doomed = none ∧ (grp s g).pending = []) → saveTeam s x = (s1, f) →
    ∃ t, exec (.preemptionSave x) s = .next t ∧ (∀ h, registers (grp t h) = registers (grp s h)) ∧
      (team t x).phase = (if f.any then .resident else .parked) ∧
      (f.any = false → sameMemory s1 t ∧ ∀ g ∈ openGroups s x, (grp t g).mapped = 0 ∧ (grp t g).active = false)) ∧
  (∀ x s, resumeTurn s x = true → resumeFits s x = true → memoryFree s = true →
    (∃ t, exec (.teamResume x) s = .next t ∧
      ∀ u ∈ resumeSet s x, (team t u).phase = .resident ∧ (team t u).core = (team s u).core ∧ (team t u).teamid = (team s u).teamid) ∧
    (∀ g b, calm s → (grid s (team s x).grid).cores = false → resumesAlone s x g b →
      ∃ t, exec (.teamResume x) s = .next t ∧ (team t x).phase = .resident ∧ (grp t g).pc = BitVec.ofNat 64 (recField b 0x10 8) ∧
        registers (grp t g) = { registers (withImage s b (grp s g)) with vregs := (grp t g).vregs } ∧
        ∀ h, h ≠ g → registers (grp t h) = registers (grp s h)) ∧
    ((grid s (team s x).grid).cores = false →
      ((∃ e, (areaRead s x).2 = .error e) ∨ ∃ a, (areaRead s x).2 = .ok a ∧ areaOk (team (takeRoom s x) x) a = false) →
      ∃ t, exec (.teamResume x) s = .next t ∧ (team t x).phase = .resident ∧
        ∀ g ∈ openGroups s x, (grp s g).ending = false → issueEnded t g))

/-- Commands start at their queue's head in ring order and have the effect of Table 17-2: a launch forms its grid, a graph is bound, a wait
completes when its word has reached its value, a signal writes its value after every earlier command and raises the queue's vector, a
reach command sets G*, a rung command raises a grid's rung, a release frees its segments, and a reserved kind is rejected (R338, R339, R341,
R347, R351, R353). A grid's wait for a grant ends with the grant (R343). -/
def Obligations.CommandsHaveTheirEffects : Prop :=
  (∀ q i c r s, commandDue s q i 1 c → c.operand % 128 = 0 → c.value = 0 →
    readSpan s (queueSpace s q) c.operand 128 = (s, .ok r) → let l := (launchRecord s (queueSource s q i c.operand) r).2
    (∀ g, l = some g → ∃ t, exec (.commandLaunch q i) s = .next t ∧ began s t q { c with grid := some g } ∧ g = s.grids.length ∧
      let x := grid t g
      x.phase = .waiting ∧ x.placed = 0 ∧ x.entry = recField r 0 8 ∧ x.prio = recField r 0xC 1 ∧ x.ctx = recField r 0x2C 2 ∧
        x.nteams = recField r 0x10 4 * recField r 0x14 4 * recField r 0x18 4 ∧ x.pool = recField r 0x40 8 ∧
        x.deadline = BitVec.ofNat 64 (recField r 0x20 8)) ∧
    (l = none → calm s → ∃ t, exec (.commandLaunch q i) s = .next t ∧ began s t q { c with done := true } ∧ t.grids.length = s.grids.length)) ∧
  (∀ q i c d s, commandDue s q i 2 c → pendingCommand s q i 2 = none → c.operand % 16 = 0 → c.value = 0 →
    let s1 := begun s q c; let ctx := (queueAt s q).ctx; let nodes := recField d 8 4
    readSpan s1 (queueSpace s q) c.operand 16 = (s1, .ok d) → recField d 12 4 = 0 → 0 < nodes → nodes ≤ 65536 →
    (graphOf s ctx = none ∨ graphBusy s ctx = false) →
    ∃ t, exec (.commandGraph q i) s = .next t ∧ began s t q { c with done := true } ∧ sameMemory s t ∧
      graphOf t ctx = some { ctx, table := recField d 0 8, nodes } ∧ ∀ x, x ≠ ctx → graphOf t x = graphOf s x) ∧
  (∀ q i c d s, commandDue s q i 3 c → pendingCommand s q i 3 = none → c.operand % 8 = 0 →
    readSpan (begun s q c) (queueSpace s q) c.operand 8 = (begun s q c, .ok d) →
    ∃ t, exec (.commandWait q i) s = .next t ∧ sameMemory s t ∧ began s t q { c with done := decide (c.value ≤ recField d 0 8) }) ∧
  (∀ q i n d s, pendingCommand s q i 3 = some n → memoryFree s = true → let c := commandAt s n
    readSpan s (queueSpace s q) c.operand 8 = (s, .ok d) → c.value ≤ recField d 0 8 →
    ∃ t, exec (.commandWait q i) s = .next t ∧ sameMemory s t ∧ commandAt t n = { c with done := true }) ∧
  (∀ q i c a p s, commandDue s q i 4 c → pendingCommand s q i 4 = none → c.operand % 8 = 0 → calm s →
    earlierCommands s q s.launch.commands.length = true → locate (begun s q c) (queueSpace s q) c.operand 8 { write := true } = .ok (a, p) →
    ∃ t, exec (.commandSignal q i) s = .next t ∧ began s t q { c with done := true } ∧ storedAt s t a (toBytesLE 8 c.value) ∧
      t.msix = s.msix ++ [(queueAt s q).vector]) ∧
  (∀ q i c s, commandDue s q i 5 c → c.operand < 4 → bitField c.value 9 7 = 0 → c.value < 2 ^ 17 →
    ((queueAt s q).privileged = true → ∃ t, exec (.commandReach q i) s = .next t ∧ began s t q { c with done := true } ∧ sameMemory s t ∧
      dieReach t c.operand = { dieReach s c.operand with
        target := clampTarget (dieReach s c.operand) (bitField c.value 0 9), preempt := bitOf c.value 16 }) ∧
    ((queueAt s q).privileged = false → ∃ t, exec (.commandReach q i) s = .next t ∧ began s t q { c with done := true } ∧
      dieReach t c.operand = dieReach s c.operand ∧ recorded s t 0x0508 1 0)) ∧
  (∀ q i c g s, commandDue s q i 6 c → c.operand % 128 = 0 → c.value < 4 → (queueAt s q).privileged = true →
    gridOfRecordAt s (queueAt s q).ctx c.operand = some g → (grid s g).rung ≤ c.value → c.value ≤ (grid s g).rungmax →
    ∃ t, exec (.commandRung q i) s = .next t ∧ began s t q { c with done := true } ∧ sameMemory s t ∧ (grid t g).rung = c.value) ∧
  (∀ q i c s, commandDue s q i 7 c → pendingCommand s q i 7 = none → c.operand < 256 → c.value = 0 →
    (keptSeg s (queueAt s q).ctx c.operand).isSome = true → let busy := segInUse s (queueAt s q).ctx c.operand
    ∃ t, exec (.commandRelease q i) s = .next t ∧ began s t q { c with done := !busy } ∧ sameMemory s t ∧
      (∀ x n, keptSeg t x n = if x = (queueAt s q).ctx ∧ n = c.operand ∧ busy = false then none else keptSeg s x n)) ∧
  (∀ q i kind c s, mayStart s q i = true → (∃ b, headCommand s q = (s, .ok b) ∧ recField b 0 1 = kind ∧ c = commandOf q i b) →
    (kind = 0 ∨ 8 ≤ kind) →
    ∃ t, exec (.commandReserved q i) s = .next t ∧ began s t q { c with done := true } ∧ recorded s t 0x0507 1 0) ∧
  (∀ g s, (grid s g).grantWait = true → grantBusy s (grid s g) = false →
    ∃ t, exec (.grantWaitEnd g) s = .next t ∧ keepsAll s t ∧ grid t g = { grid s g with grantWait := false, waitingSince := timeOf s })

/-- The host reaches memory through an enabled aperture: an aligned access is one event, which reads or writes exactly its bytes and leaves
full/empty bits as they are; through none it is aborted and logged (R361, R363, R449, R118). A write reaches whole registers: device number,
inbound context, source mask, apertures, the log's base and tail, and queue entries while they are not enabled (R8, R362, R368, R397); one that
is not aligned is aborted. A read answers with whole registers, the identity and status among them, and reserved ones read zero (R8, R361); the
host writes its own memory (R117). A doorbell sets the tail, enabling a queue starts it at command 0, disabling it keeps its head (R362). -/
def Obligations.HostAccessesAndQueues : Prop :=
  ((∀ off n data s a, n ∈ [1, 2, 4, 8] → off % n = 0 → apertureAddr s off = some a → physOk s.poundSize a n = true →
      hostFree s off n = true → calm s →
      (∃ t, exec (.hostBar2Access off n false data) s = .next t ∧ onlyReply s t ∧ t.bar.reply = .data (rd s a n)) ∧
      ∃ t, exec (.hostBar2Access off n true data) s = .next t ∧ storedAt s t a (toBytesLE n data) ∧ t.bar.reply = .quiet ∧
        t.full = s.full ∧ ∀ h, registers (grp t h) = registers (grp s h)) ∧
   (∀ off n w data s, n ∈ [1, 2, 4, 8] → off % n = 0 → apertureAddr s off = none →
      ∃ t, exec (.hostBar2Access off n w data) s = .next t ∧ t.bar.reply = .abort ∧ recorded s t 0x0920 1 0)) ∧
  (∀ data s, let v : Nat := data % 2 ^ 32; let w : Nat := data % 2 ^ 64
    (∃ t, exec (.registerWrite 0x10 4 data) s = .next t ∧ t = { s with deviceId := v % 64, bar := t.bar } ∧ t.bar.reply = .quiet) ∧
    (∃ t, exec (.registerWrite 0x6000 4 data) s = .next t ∧ keepsAll s t ∧ t.fabric = { s.fabric with inbound := v % 2 ^ 16 }) ∧
    (∃ t, exec (.registerWrite 0x6008 8 data) s = .next t ∧ keepsAll s t ∧ t.fabric = { s.fabric with sources := BitVec.ofNat 64 w }) ∧
    (∀ k, k < 8 → ∃ t, exec (.registerWrite (0x5000 + 8 * k) 8 data) s = .next t ∧ keepsAll s t ∧
      ∀ o, apertureAddr t o = if o / 2 ^ 33 = k then (if w % 2 = 1 then some (bitField w 33 19 * 2 ^ 33 + o % 2 ^ 33) else none)
        else apertureAddr s o) ∧
    (s.log.en = false → ∃ t, exec (.registerWrite 0xA000 8 data) s = .next t ∧ keepsAll s t ∧ t.log = { s.log with base := BitVec.ofNat 64 w }) ∧
    (∃ t, exec (.registerWrite 0xA010 4 data) s = .next t ∧ keepsAll s t ∧ t.log = { s.log with tail := v }) ∧
    (∀ q, q < 128 → (queueAt s q).enabled = false →
      (∃ t, exec (.registerWrite (0x1000 + 64 * q) 8 data) s = .next t ∧ keepsAll s t ∧ onlyQueue s t q ∧
        queueAt t q = { queueAt s q with ring := BitVec.ofNat 64 w }) ∧
      (∃ t, exec (.registerWrite (0x100C + 64 * q) 4 data) s = .next t ∧ keepsAll s t ∧ onlyQueue s t q ∧
        queueAt t q = { queueAt s q with ctx := v % 2 ^ 16, vector := v / 2 ^ 16 }) ∧
      (bitOf v 23 = true → ∃ t, exec (.registerWrite (0x1008 + 64 * q) 4 data) s = .next t ∧ keepsAll s t ∧ onlyQueue s t q ∧
        queueAt t q = { queueAt s q with size := v % 2 ^ 8, prio := v / 2 ^ 8 % 2 ^ 8, gfx := bitOf v 16, privileged := bitOf v 17,
                                         enabled := true, head := 0, tail := 0 }) ∧
      (bitOf w 23 = true → ∃ t, exec (.registerWrite (0x1008 + 64 * q) 8 data) s = .next t ∧ keepsAll s t ∧ onlyQueue s t q ∧
        queueAt t q = { queueAt s q with size := w % 2 ^ 8, prio := w / 2 ^ 8 % 2 ^ 8, gfx := bitOf w 16, privileged := bitOf w 17,
                                         enabled := true, head := 0, tail := 0, ctx := bitField w 32 16, vector := bitField w 48 16 })) ∧
    (∃ t, exec (.registerWrite 0x12 4 data) s = .next t ∧ t.bar.reply = .abort ∧ recorded s t 0x0920 1 0)) ∧
  (∀ rest s, (s.agenda = .barRead 0 8 :: rest →
      step s = .next (hostReply (setAgenda s rest) (.data (0x59390001 + 2 ^ 32 * (s.ready.toNat + 2 * s.bar.damaged.toNat))))) ∧
    (s.agenda = .barRead 0xA014 4 :: rest → step s = .next (hostReply (clearLost (setAgenda s rest)) (.data (s.log.lost % 2 ^ 32)))) ∧
    (∀ q, q < 128 → s.agenda = .barRead (0x1010 + 64 * q) 4 :: rest →
      step s = .next (hostReply (setAgenda s rest) (.data (queueAt s q).head))) ∧
    (∀ off n, s.agenda = .barRead off n :: rest → n ∈ [4, 8] → off % n = 0 → 0xB000 ≤ off → off < 0x10000 →
      step s = .next (hostReply (setAgenda s rest) (.data 0))) ∧
    ∀ a n data, s.agenda = .hostStore a n data :: rest → n ≠ 0 → regionOf s.poundSize a = .host → regionOf s.poundSize (a + n - 1) = .host →
      unlocked s noOp a n = true → ∃ t, step s = .next t ∧ storedAt s t a (toBytesLE n data)) ∧
  (∀ q d s, q < 128 →
    (d.toNat < 2 ^ (queueAt s q).size → ∃ t, exec (.doorbell q d) s = .next t ∧ keepsAll s t ∧ onlyQueue s t q ∧
      queueAt t q = { queueAt s q with tail := d.toNat }) ∧
    (2 ^ (queueAt s q).size ≤ d.toNat → ∃ t, exec (.doorbell q d) s = .next t ∧ (∀ p, queueAt t p = queueAt s p) ∧ recorded s t 0x0509 4 0) ∧
    ((queueAt s q).enabled = false → ∃ t, exec (.queueEnable q) s = .next t ∧ keepsAll s t ∧ onlyQueue s t q ∧
      queueAt t q = { queueAt s q with enabled := true, head := 0, tail := 0 }) ∧
    (∃ t, exec (.queueDisable q) s = .next t ∧ keepsAll s t ∧ onlyQueue s t q ∧ queueAt t q = { queueAt s q with enabled := false }))

/-- Modes, time, log and held faults: a duty mode changes unless a bit that changes is in use (R380), a die's limits clamp its target (R351),
the clock's rate is limited and an offset applied (R371), the log control enables the ring and writes out what was buffered, the lost count
is read and cleared at once (R397, R399), and a held fault is retried, failed, or fails after 100 ms (R404). The mailbox's hold, once cleared,
ends halted groups (R501), and both reloads take in their entries and acknowledge the change word (R364, R495 to R498). -/
def Obligations.HostControlsAndReloads : Prop :=
  (∀ d s, ((∀ i, i < 6 → d.getLsbD i ≠ s.duty.getLsbD i → dutyUsed s i = false) →
      ∃ t, exec (.dutyModeWrite d) s = .next t ∧ t = { s with duty := d &&& 0x3F }) ∧
    ((∃ i, i < 6 ∧ d.getLsbD i ≠ s.duty.getLsbD i ∧ dutyUsed s i = true) →
      ∃ t, exec (.dutyModeWrite d) s = .next t ∧ t.duty = s.duty ∧ recorded s t 0x050D 4 0)) ∧
  (∀ k d s, k < 4 → let lo := d.toNat % 2 ^ 9; let hi := d.toNat / 2 ^ 16 % 2 ^ 9
    (lo ≤ hi → hi ≤ 288 → ∃ t, exec (.reachLimitWrite k d) s = .next t ∧ keepsAll s t ∧
      dieReach t k = { dieReach s k with gmin := lo, gmax := hi, target := max lo (min hi (dieReach s k).target) }) ∧
    (hi < lo ∨ 288 < lo ∨ 288 < hi →
      ∃ t, exec (.reachLimitWrite k d) s = .next t ∧ dieReach t k = dieReach s k ∧ recorded s t 0x0514 4 k)) ∧
  (∀ (d : Word) s, ∃ t, exec (.timeFreqWrite d) s = .next t ∧ keepsAll s t ∧ t.bar.freq = max (-4294967) (min 4294967 d.toInt)) ∧
  (∀ (d : DWord) s, ∃ t, exec (.timeOffsetWrite d) s = .next t ∧ keepsAll s t ∧
    (0 ≤ d.toInt → t.ptpNs = s.ptpNs + BitVec.ofNat 64 d.toInt.toNat) ∧
    (d.toInt < 0 → t.ptpNs = s.ptpNs ∧ t.bar.debt = s.bar.debt + d.toInt.natAbs * 2 ^ 32)) ∧
  (∀ (d : Word) r s, let size := bitField d.toNat 4 4; let l := s.log
    (size ≤ 10 → (d.getLsbD 0 = false ∨ l.en = true ∨ l.buffer = []) → ∃ t, exec (.logctlWrite d) s = .next t ∧ keepsAll s t ∧
      t.log = { l with en := d.getLsbD 0, size, ovf := l.ovf && !d.getLsbD 8 }) ∧
    (size ≤ 10 → d.getLsbD 0 = true → l.en = false → l.buffer = [r] → (l.head + 1) % (64 * 2 ^ size) ≠ l.tail →
      sound s → physOk 0 (bitField l.base.toNat 0 52 + 64 * l.head) 64 = true →
      ∃ t, exec (.logctlWrite d) s = .next t ∧ storedAt s t (bitField l.base.toNat 0 52 + 64 * l.head) (logBytes r) ∧ t.log.buffer = [] ∧
        t.log.head = (l.head + 1) % (64 * 2 ^ size) ∧ t.log.en = true ∧ t.log.size = size) ∧
    (10 < size → d.getLsbD 0 = false →
      ∃ t, exec (.logctlWrite d) s = .next t ∧ t.log.size = l.size ∧ recorded s t 0x0512 4 0)) ∧
  (∀ s, ∃ t, exec .loglostRead s = .next t ∧ keepsAll s t ∧ t.bar.reply = .data (s.log.lost % 2 ^ 32) ∧ t.log = { s.log with lost := 0 }) ∧
  (∀ q h s, heldFault s q = some h →
    (∃ t, exec (.faultreplyRetry q) s = .next t ∧ t = { s with held := t.held } ∧ ∀ x, x ∈ t.held ↔ x ∈ s.held ∧ x ≠ h) ∧
    (∃ t, exec (.faultreplyFail q) s = .next t ∧ t = { s with held := t.held } ∧ { h with failed := true } ∈ t.held ∧ h ∉ t.held) ∧
    (h.since + 100000000 ≤ timeOf s →
      ∃ t, exec (.heldFaultTimeout q) s = .next t ∧ t = { s with held := t.held } ∧ { h with failed := true } ∈ t.held ∧ h ∉ t.held)) ∧
  (∀ q s, heldFault s q = none →
    (∃ t, exec (.faultreplyRetry q) s = .next t ∧ t.held = s.held ∧ recorded s t 0x050F 4 0) ∧
    ∃ t, exec (.faultreplyFail q) s = .next t ∧ t.held = s.held ∧ recorded s t 0x050F 4 0) ∧
  ((∀ (d : Word) s, d.getLsbD 0 = true → ∃ t, exec (.debugHoldWrite d) s = .next t ∧ t = { s with dbg := { s.dbg with hold := true } }) ∧
   (∀ (d : Word) s, d.getLsbD 0 = false → s.dbg.hold = true →
     ∃ t, exec (.debugHoldWrite d) s = .next t ∧ t.dbg.hold = false ∧
       ∀ g, g < s.groups.length → (if (grp s g).halted = true then issueEnded t g
         else registers (grp t g) = registers (grp s g))) ∧
   (∀ b s, s.dbg.base = some b → rd s b 8 ≠ rd s (b + 8) 8 → s.log.en = false → calm s →
     ∃ t, exec .debugMailboxReload s = .next t ∧ storedAt s t (b + 8) (toBytesLE 8 (rd s b 8)) ∧ t.dbg.dctx = rd s (b + 0x18) 2 ∧
       (∀ n p, (n, p) ∈ t.dbg.breaks ↔ n < 4 ∧ breakAt s b n = some p) ∧ ∀ h, registers (grp t h) = registers (grp s h))) ∧
  (∀ l inv s, let b := s.bar.cfgbase; let v := rd s b 8
    s.ready = true → v ≠ s.bar.change → calm s → readConfig s = (s, l, inv) → arenasFree s l = true → contextsFree s l = true →
    inv.any (usesOld s) = false →
    ∃ t, exec .configChangeReload s = .next t ∧ acknowledged s t (b + 8) v (b + 0x100) 32 ∧ t.bar.change = v ∧ t.latched = l ∧
      (∀ c, c < 4096 → mapGet 0 t.latched.roots c = rootAt s c) ∧
      (∀ k ∈ t.launch.kept, k ∈ s.launch.kept ∧ k.ctx ∉ removedContexts s l) ∧ ∀ h, registers (grp t h) = registers (grp s h))

/-- Commands at a module: a write is performed and answered with status 0 and the bytes performed, its body flits following by their link
tag; an n64 add likewise; a reserved operation is refused with status 5. A command or response for another device leaves on the port of its
route with one hop less, and one without hops left is answered with status 5 (R365, R366, R368, R486). A response ends the command of its
tag (R366). Every flit sent carries a CRC that its receiver accepts. -/
def Obligations.CamtosCommandsAndResponses : Prop :=
  (∀ seq f, seq < 4096 → f % 4096 = 0 → flitGood (sealFlit seq f) = true ∧ flitSeq (sealFlit seq f) = seq) ∧
  (∀ p i f l s, commandHead s p i 1 f → let n := flitField f 8 4; let addr := flitField f 16 8; let s1 := takeRx s p i
    0 < n → n ≤ 32 → calm s → inboundFree s addr n = true → pieces addr n = [(addr, n)] →
    (locateAll (inboundSpace s1) { write := true } [(addr, n)] s1).2 = .ok [l] → l.len = n → answerable s1 f →
    ∃ t, exec (.camtosWriteCommand p i) s = .next t ∧ storedAt s t l.loc (toBytesLE n (flitField f 24 32)) ∧
      linkSent s1 t (routeOf s (flitField f 1 1)) (answerTo s f 0 n)) ∧
  (∀ p i f l s, commandHead s p i 2 f → let addr := flitField f 16 8; let s1 := takeRx s p i
    addr % 8 = 0 → calm s → inboundFree s addr 8 = true → locate s1 (inboundSpace s1) addr 8 atomNeed = .ok l → answerable s1 f →
    ∃ t, exec (.camtosAddCommand p i) s = .next t ∧ storedAt s t l.1 (toBytesLE 8 ((rd s l.1 8 + flitField f 24 8) % 2 ^ 64)) ∧
      linkSent s1 t (routeOf s (flitField f 1 1)) (answerTo s f 0 8)) ∧
  (∀ p i oper f s, commandHead s p i oper f → oper ≠ 1 → oper ≠ 2 → answerable (takeRx s p i) f → s.log.en = false →
    ∃ t, exec (.camtosReservedOp p i) s = .next t ∧ keepsAll s t ∧ recorded s t 0x0A05 1 (flitField f 1 1) ∧
      linkSent (takeRx s p i) t (routeOf s (flitField f 1 1)) (answerTo s f 5 0)) ∧
  (∀ p i f k b l s, let n := min b.left 56; let s1 := takeRx s p i
    rxFlit s p i 1 = some f → s.fabric.inbounds.findIdx? (fun b => b.port == p && b.link == bodyTag f) = some k →
    s.fabric.inbounds[k]? = some b → b.forward = none → b.status = 0 → n < b.left → calm s → inboundFree s b.addr n = true →
    pieces b.addr n = [(b.addr, n)] → (locateAll (inboundSpace s1) { write := true } [(b.addr, n)] s1).2 = .ok [l] → l.len = n →
    ∃ t, exec (.camtosBodyFlit p i) s = .next t ∧ storedAt s t l.loc (toBytesLE n (f / 2 ^ 32)) ∧
      t.fabric.inbounds[k]? = some { b with left := b.left - n, addr := b.addr + n, performed := b.performed + n } ∧
      ∀ r, portAt t r = portAt s1 r) ∧
  (∀ p i f oper s, let s1 := takeRx s p i; let dest := bitField f 24 6; let q := routeOf s dest
    rxFlit s p i 0 = some f → flitField f 0 1 = oper → dest ≠ s.deviceId → bodyBytes oper (flitField f 8 4) = 0 →
    bitField f 22 2 ≠ 0 → routeUp s1 dest = true → canSend s1 q 0 → freeLink s q < 2 ^ 16 → let link := freeLink s1 q
    let g := mkFlit 0 0 dest (bitField f 22 2 - 1) (f / 2 ^ 32 % 2 ^ 448 - flitField f 4 2 * 2 ^ 32 + link * 2 ^ 32)
    (oper = 1 → ∃ t, exec (.camtosWriteCommand p i) s = .next t ∧ keepsAll s t ∧ linkSent s1 t q g) ∧
    (oper = 2 → ∃ t, exec (.camtosAddCommand p i) s = .next t ∧ keepsAll s t ∧ linkSent s1 t q g) ∧
    (oper ≠ 1 → oper ≠ 2 → ∃ t, exec (.camtosReservedOp p i) s = .next t ∧ keepsAll s t ∧ linkSent s1 t q g)) ∧
  (∀ p i f oper s, rxFlit s p i 0 = some f → flitField f 0 1 = oper → bitField f 24 6 ≠ s.deviceId →
    bodyBytes oper (flitField f 8 4) = 0 → bitField f 22 2 = 0 → answerable (takeRx s p i) f → s.log.en = false →
    ∃ t, (if oper = 1 then exec (.camtosWriteCommand p i) s else if oper = 2 then exec (.camtosAddCommand p i) s
        else exec (.camtosReservedOp p i) s) = .next t ∧
      keepsAll s t ∧ recorded s t 0x0A05 1 (flitField f 1 1) ∧
      linkSent (takeRx s p i) t (routeOf s (flitField f 1 1)) (answerTo s f 5 0)) ∧
  (∀ p i f s, let s1 := takeRx s p i; let dest := bitField f 24 6
    rxFlit s p i 2 = some f →
    (dest = s.deviceId → flitField f 0 1 ≠ 0 →
      ∃ t, exec (.camtosResponse p i) s = .next t ∧ ∀ (k : Nat) (r : Remote), s.fabric.remotes[k]? = some r → r.answered = none →
        ((t.fabric.remotes[k]?).map Remote.answered) = some (if r.tag = flitField f 2 2 then some (flitField f 0 1) else none)) ∧
    (dest ≠ s.deviceId → bitField f 22 2 ≠ 0 → routeUp s1 dest = true → canSend s1 (routeOf s dest) 1 →
      ∃ t, exec (.camtosResponse p i) s = .next t ∧ keepsAll s t ∧
        linkSent s1 t (routeOf s dest) (mkFlit 2 1 dest (bitField f 22 2 - 1) (f / 2 ^ 32 % 2 ^ 448))))

/-- A link's own events: acknowledgements release the replay buffer, a negative one or 1 µs without one replays it, the ninth replay
retrains the port; credits come back; a flit with a bad CRC is discarded and asked for again (R365, R367). Retraining ends with the port up,
its replay resumed, or down, its commands ended with status 5 (R483, R484); so does a wait of 100 ms for the driver's command, and the
retrain word and a partner's arrival bring a port back (R485). -/
def Obligations.CamtosLinksRecover : Prop :=
  (∀ p seq k s, let x := portAt s p
    x.waiting = [] → x.turns = [] → x.replay.findIdx? (fun f => flitSeq f == seq % 4096) = some k →
    ∃ t, exec (.linkAck p seq) s = .next t ∧ onlyPort s t p ∧
      portAt t p = { x with replay := x.replay.drop (k + 1), replays := 0, sentAt := timeOf s }) ∧
  (∀ p seq s, let x := portAt s p
    x.state = 0 → x.replays < 8 → ((x.replay.head?).map flitSeq) = some (seq % 4096) →
    x.replay.findIdx? (fun f => flitSeq f == (seq + 4095) % 4096) = none →
    ∃ t, exec (.linkNak p seq) s = .next t ∧ onlyPort s t p ∧
      portAt t p = { x with replays := x.replays + 1, wire := x.wire ++ x.replay, sentAt := timeOf s }) ∧
  (∀ p vc n s, let x := portAt s p
    x.waiting = [] → x.turns = [] → vc < x.used.length →
    ∃ t, exec (.linkCreditUpdate p vc n) s = .next t ∧ onlyPort s t p ∧ portAt t p = { x with used := x.used.set vc (x.used.getD vc 0 - n) }) ∧
  (∀ p s, let x := portAt s p; let owed := x.owed.getD 0 0 + x.owed.getD 1 0 * 2 ^ 16 + x.owed.getD 2 0 * 2 ^ 32
    let control (ty seq : Nat) : Nat := sealFlit 0 (mkFlit 3 3 0 0 (ty + seq * 2 ^ 16 + owed * 2 ^ 32))
    x.state = 0 →
    (∃ t, exec (.flitCrcFail p) s = .next t ∧ onlyPort s t p ∧
      portAt t p = { x with discarding := true, owed := [0, 0, 0], wire := x.wire ++ [control 2 x.rxSeq] }) ∧
    (x.discarding = false → ∃ t, exec (.linkControlPeriodic p) s = .next t ∧ onlyPort s t p ∧
      portAt t p = { x with owed := [0, 0, 0], wire := x.wire ++ [control 1 ((x.rxSeq + 4095) % 4096)] }) ∧
    (x.discarding = true → ∃ t, exec (.linkControlPeriodic p) s = .next t ∧ onlyPort s t p ∧
      portAt t p = { x with owed := [0, 0, 0], wire := x.wire ++ [control 2 x.rxSeq] })) ∧
  (∀ p f rest s, let x := portAt s p
    s.agenda = .flit p f :: rest → x.state = 0 →
    (flitKind f = 3 → flitGood f = false → step s = .next (setAgenda s rest)) ∧
    (flitKind f ≠ 3 → flitGood f = false → step s = .next (crcFail (setAgenda s rest) p)) ∧
    (flitKind f ≠ 3 → flitGood f = true → flitSeq f = x.rxSeq → x.discarding = false → x.waiting = [] → x.turns = [] →
      ∃ t, step s = .next t ∧ onlyPort (setAgenda s rest) t p ∧
        portAt t p = { flitCredits x f with rx := x.rx ++ [f % 2 ^ 480], rxSeq := (x.rxSeq + 1) % 4096 })) ∧
  (∀ p s, let x := portAt s p
    x.state = 0 → x.replay ≠ [] → x.sentAt + 1000 ≤ timeOf s →
    (x.replays < 8 → ∃ t, exec (.replayTimeout p) s = .next t ∧ onlyPort s t p ∧
      portAt t p = { x with replays := x.replays + 1, wire := x.wire ++ x.replay, sentAt := timeOf s }) ∧
    (8 ≤ x.replays → s.duty.getLsbD 2 = false → ∃ t, exec (.replayTimeout p) s = .next t ∧ onlyPort s t p ∧
      portAt t p = { x with state := 1 }) ∧
    (8 ≤ x.replays → s.duty.getLsbD 2 = true → ∃ t, exec (.replayTimeout p) s = .next t ∧ onlyPort s t p ∧
      portAt t p = { x with state := 2, lanes := 0, downAt := some (timeOf s) })) ∧
  (∀ p s, let x := portAt s p
    x.state = 1 → x.waiting = [] → x.turns = [] →
    (∃ t l, exec (.portRetrain p true) s = .next t ∧ (∀ h, registers (grp t h) = registers (grp s h)) ∧ l ∈ [0xFF, 0x0F, 0xF0] ∧
      portAt t p = { x with state := 0, lanes := l, retrains := min (x.retrains + 1) 0xFFFF, replays := 0, downAt := none,
                            wire := x.wire ++ x.replay, sentAt := timeOf s } ∧ recorded s t 0x0A02 0 (p + l * 2 ^ 8)) ∧
    ∃ t, exec (.portRetrain p false) s = .next t ∧ linkFailed s t p) ∧
  (∀ p d s, (portAt s p).state = 2 → (portAt s p).downAt = some d → d + 100000000 ≤ timeOf s →
    ∃ t, exec (.hostRetrainTimeout p) s = .next t ∧ linkFailed s t p ∧ (portAt t p).downAt = none) ∧
  (∀ p (d : Word) s, p < 16 → d.toNat = 2 ^ 31 + p →
    ((portAt s p).state = 2 → ∃ t, exec (.retrainWordWrite d) s = .next t ∧ onlyPort s t p ∧ portAt t p = { portAt s p with state := 1 }) ∧
    ((portAt s p).state ≠ 2 → ∃ t, exec (.retrainWordWrite d) s = .next t ∧ (∀ r, portAt t r = portAt s r) ∧ recorded s t 0x0A06 4 p)) ∧
  (∀ p s, p < 16 → (portAt s p).state = 3 → (portAt s p).waiting = [] → (portAt s p).turns = [] →
    ∃ t, exec (.camtosPortConnect p) s = .next t ∧ onlyPort s t p ∧ portAt t p = { portAt s p with state := 0, lanes := 0xFF })

/-- `frel` appends its entry to every named output's pending list with sd := 0, waits while one is full, and gives an error 1 to 3 with its
record (R373, R446). At a frame start the block takes effect and the due entry with the largest T, of equal ones the last, is scanned (R372,
R374); what it displaces retires by adding 1 to its retire word. An output's block is written word by word, and an impossible timing is
not enabled (R372). The clock stamps the servo's messages, and the last of an exchange adjusts it (R370, R371; the messages of an exchange are the
model's, notes/assumptions/76.md); a change of lock is logged (R491). -/
def Obligations.FramesAreReleasedAndScanned : Prop :=
  (∀ f s, issues none false (.frel f) s = true → let x := me s; let w := frelWord f x; let os := namedOutputs (w % 16)
    (∀ r, frelGood f s s.cur r → (∀ o ∈ os, (outputAt s o).pending.length < 4) →
      ∃ t, exec (.frel f) s = .next t ∧ appended f s t s.cur r ∧ resultIn s t f.d 0 ∧ sameMemory s t) ∧
    (∀ r, frelGood f s s.cur r → (∃ o ∈ os, 4 ≤ (outputAt s o).pending.length) →
      ∃ t e, exec (.frel f) s = .next t ∧ blockedOn { s with bar := { s.bar with frels := s.bar.frels ++ [(s.cur, e)] } } t true 14 (w % 16) 0 ∧
        e.binding = w / 16 % 64 ∧ e.time = frelTime f x ∧ e.retire = r ∧ e.acq.isSome = (acqOf f).isSome) ∧
    ((2 ^ 10 ≤ w ∨ os = [] ∨ ¬ ownsAll s (gridOf s s.cur).ctx os) →
      ∃ t, exec (.frel f) s = .next t ∧ resultIn s t f.d 1 ∧ recorded s t 0x0D01 1 0 ∧ ∀ o, outputAt t o = outputAt s o) ∧
    (w < 2 ^ 10 → os ≠ [] → ownsAll s (gridOf s s.cur).ctx os →
      (∃ o ∈ os, scannable (scanBinding s (w / 16 % 64)) (outputAt s o).live = false) →
      ∃ t, exec (.frel f) s = .next t ∧ resultIn s t f.d 2 ∧ recorded s t 0x0D02 1 0 ∧ ∀ o, outputAt t o = outputAt s o) ∧
    (w < 2 ^ 10 → os ≠ [] → ownsAll s (gridOf s s.cur).ctx os →
      (∀ o ∈ os, scannable (scanBinding s (w / 16 % 64)) (outputAt s o).live = true) → frelRetire f x % 8 ≠ 0 →
      ∃ t, exec (.frel f) s = .next t ∧ resultIn s t f.d 3 ∧ recorded s t 0x0D03 1 0 ∧ ∀ o, outputAt t o = outputAt s o)) ∧
  (∀ g f s e, let os := namedOutputs (grp s g).wait.obj
    (grp s g).wait.code = 14 → onCore s g = true → instrAt s g = some (.frel f) → g < s.groups.length →
    s.bar.frels.find? (fun p => p.1 == g) = some (g, e) → (∀ o ∈ os, (outputAt s o).pending.length < 4) →
    ∃ t, exec (.displayPendingRoom g) s = .next t ∧ (grp t g).wait = {} ∧ sreg (grp t g) f.d.toNat = 0 ∧ restKept s t g ∧
      ∀ o, outputAt t o = if o ∈ os then { outputAt s o with pending := (outputAt s o).pending ++ [{ e with appended := timeOf s }] }
        else outputAt s o) ∧
  (∀ o s, frameDue s o → calm s → let x := outputAt s o; let due := x.pending.filter (dueAt (timeOf s))
    (due ≠ [] → ∃ t e l r, exec (.frameStart o) s = .next t ∧ due = l ++ e :: r ∧ (∀ y ∈ l, y.time ≤ e.time) ∧ (∀ y ∈ r, y.time < e.time) ∧
      keepsAll s t ∧
      let y := outputAt t o
      y.scanned = some e ∧ y.frames = x.frames + 1 ∧ y.live = x.words ∧ y.lastStart = some (timeOf s) ∧
        (∀ z, z ∈ y.pending ↔ z ∈ x.pending ∧ dueAt (timeOf s) z = false) ∧ ∀ z, x.scanned = some z → z ∈ y.retiring) ∧
    (due = [] → ∃ t, exec (.frameStart o) s = .next t ∧
      let y := outputAt t o
      y.scanned = x.scanned ∧ y.frames = x.frames + 1 ∧ y.live = x.words ∧ y.pending = x.pending ∧ y.retiring = x.retiring ∧
        (x.pending.any (lateEntry (timeOf s)) = true → recorded s t 0x0F02 4 (x.repeats + 1)))) ∧
  (∀ o a p s, calm s → (outputAt s o).retiring.filterMap (·.retire) = [(a, p)] → unlocked s noOp a 8 = true →
    ∃ t, exec (.frameBufferRetire o) s = .next t ∧ storedAt s t a (toBytesLE 8 ((rd s a 8 + 1) % 2 ^ 64)) ∧ (outputAt t o).retiring = []) ∧
  (∀ o i (v : DWord) s, o < 4 → i < 16 → ¬ (4 ≤ i ∧ i < 10) → let lo := v.toNat % 2 ^ 32
    (i ≠ 0 → bitOf (blockWord (outputAt s o).words 0) 0 = false → ∃ t, exec (.displayBlockWrite o (4 * i) v) s = .next t ∧ keepsAll s t ∧
      blockWritten s t o i lo) ∧
    (i = 0 → bitOf lo 0 = false → ∃ t, exec (.displayBlockWrite o 0 v) s = .next t ∧ keepsAll s t ∧ blockWritten s t o 0 lo ∧
      (outputAt t o).enabled = false) ∧
    (i = 0 → bitOf lo 0 = true → let w := setBlockWord 0 lo (outputAt s o).words
      (rateExceeded s w = false → blankShort w = false → blockLanes w ∈ [1, 2, 4] → (outputAt s o).enabled = false →
        ∃ t, exec (.displayBlockWrite o 0 v) s = .next t ∧ keepsAll s t ∧ blockWritten s t o 0 lo ∧ (outputAt t o).enabled = true ∧
          (outputAt t o).frames = 0 ∧ (outputAt t o).scanned = none) ∧
      (rateExceeded s w = true ∨ blankShort w = true →
        ∃ t, exec (.displayBlockWrite o 0 v) s = .next t ∧ (outputAt t o).enabled = false ∧
          bitOf (blockWord (outputAt t o).words 0) 0 = false ∧ recorded s t 0x0D10 4 0))) ∧
  (∀ n sec ns t1 t2 t3 s, let time := sec * 1000000000 + ns
    (∃ t, exec (.ptpEventMessage 0 n sec ns) s = .next t ∧ t = { s with bar := { s.bar with exchange := [time, timeOf s] } }) ∧
    (s.bar.exchange = [t1, t2] →
      ∃ t, exec (.ptpEventMessage 1 n sec ns) s = .next t ∧ t = { s with bar := { s.bar with exchange := [t1, t2, timeOf s, n] } }) ∧
    (s.bar.exchange = [t1, t2, t3, n] →
      ∃ t, exec (.ptpEventMessage 2 n sec ns) s = .next t ∧ keepsAll s t ∧ t.bar.exchange = [] ∧
        t.bar.freq = limitFreq (Config.servoRate t1 t2 t3 time s.bar.freq) ∧ -4294967 ≤ t.bar.freq ∧ t.bar.freq ≤ 4294967)) ∧
  (∀ b s, b ≠ s.bar.locked → ∃ t, exec (.ptpLockChange b) s = .next t ∧ t.bar.locked = b ∧ t.bar.outputs = s.bar.outputs ∧
    recorded s t 0x0F04 4 (if b then 0 else 1))

/-- Porman: bring-up and restore take effect only for an image whose signature is good (R375, R406); the arithmetic clock follows the inlet
and the power limit (R20, R379); scrubs write back what is correctable and leave and log what is not, calibration failures are counted,
row mitigation changes nothing (R378, R405); reset keeps stored data and clears every register (R23, R107); code objects are loaded page by
page and unloaded (R111); attestation starts (R407). The pound controller serves an access to LPDDR6: a write stores its 64 bytes and
nothing else, and the tag record then names the sector, modified after a write (R108 to R110). -/
def Obligations.PormanAndThePound : Prop :=
  (∀ s, s.ready = false → ∃ t, exec .powerOnBringup s = .next t ∧
    (if s.bar.torn = false ∧ s.bar.committing = false ∧ Config.imageSigned s.bar.firmware = true then broughtUp s t
      else t.ready = false ∧ t.bar.damaged = true ∧ t.bar.attest = 0x80 ∧ recorded s t 0x0701 5 0)) ∧
  (∀ w s, ∃ t, exec (.powerLimitThrottle w) s = .next t ∧ keepsAll s t ∧
    (4500 < w → 0 < s.bar.khz → t.bar.khz < s.bar.khz) ∧ (w ≤ 4500 → s.bar.khz ≤ t.bar.khz ∧ t.bar.khz ≤ max s.bar.khz s.bar.inletKhz)) ∧
  (∀ c s, let k := if c ≤ 35 then 2250000 else if c ≤ 40 then 2100000 else if c ≤ 45 then 1900000 else if c ≤ 50 then 1500000 else 1000000
    ∃ t, exec (.inletClockStep c) s = .next t ∧ t.bar.inletKhz = k ∧ t.bar.hot = decide (50 < c) ∧
      (k ≠ s.bar.inletKhz → t.bar.khz ≤ k ∧ recorded s t 0x0606 4 0)) ∧
  (∀ u s, let a := 64 * u
    a < 24 * 2 ^ 36 → a % 2 ^ 36 < 48 * 2 ^ 30 →
    (badAt s a = .correctable ∨ badAt s a = .transient →
      ∃ t, exec (.patrolScrub u) s = .next t ∧ badAt t a = .sound ∧ recorded s t 0x0601 0 (a / 512 % 64)) ∧
    (badAt s a = .lasting → ∃ t, exec (.patrolScrub u) s = .next t ∧ badAt t a = .lasting ∧ recorded s t 0x0602 3 (a / 512 % 64))) ∧
  (∀ c l s, c < numCores → l < 4096 → s.log.en = false →
    ∃ t, exec (.scratchpadScrub (256 + c) l) s = .next t ∧ keepsAll s t ∧ ∀ i, i < 32 →
      badAt t (locTeam c (128 * l) + 4 * i) = (if badAt s (locTeam c (128 * l) + 4 * i) = .lasting then .lasting else .sound)) ∧
  (∀ ok s, (∀ c, c < 1536 → ∃ t, exec (.dramCalibration c ok) s = .next t ∧ calibrated s t c (c % 64) ok) ∧
    (∀ p, p < 16 → ∃ t, exec (.serdesCalibration p ok) s = .next t ∧ calibrated s t (2 ^ 16 + p) p ok)) ∧
  (∀ k c s, exec (.rowActivityMitigation k c) s = .next s) ∧
  (∀ u s, ∃ t, exec (.agingMonitor u) s = .next t ∧ recorded s t 0x0605 4 0 ∧ ∀ h, registers (grp t h) = registers (grp s h)) ∧
  (∀ s, ∃ t, exec .moduleReset s = .next t ∧ t.mem = s.mem ∧ t.full = s.full ∧ t.bad = s.bad ∧ t.poundSize = s.poundSize ∧
    t.ptpNs = s.ptpNs ∧ t.bar.firmware = s.bar.firmware ∧ t.groups = [] ∧ t.teams = [] ∧ t.grids = [] ∧ t.clock = 0 ∧ t.density = [] ∧
    t.ready = false ∧ t.log = {} ∧ t.launch = {} ∧ t.sync = {} ∧ ∀ p ∈ t.tags, tagOk p.2 = false) ∧
  (∀ ctx base size x0 x1 m0 m1 s, base % 32768 = 0 → base + size ≤ 2 ^ 57 → sound s → s.log.en = false →
    ∃ t, exec (.codeObjectLoad ctx base size x0 x1 m0 m1) s = .next t ∧ keepsAll s t ∧
      (∀ k c, s.codes[k]? = some c → t.codes[k]? = some (if k ∈ codesOver s ctx base size then { c with loaded := false } else c)) ∧
      t.codes[s.codes.length]? = some ({
        ctx, base, text := (x0, x1), mstream := (m0, m1)
        pages := (List.range ((size + 32767) / 32768)).map (fun k => match translate s ctx (base + 32768 * k) { exec := true } true with
          | .ok (p, _) => some p
          | .error _ => none)
        pounds := (List.range ((size + 32767) / 32768)).map (fun k => match translate s ctx (base + 32768 * k) { exec := true } true with
          | .ok (_, pte) => bitOf pte 6
          | .error _ => false) } : CodeObj)) ∧
  (∀ k c s, s.codes[k]? = some c → ∃ t, exec (.codeObjectUnload k) s = .next t ∧ keepsAll s t ∧
    t.codes[k]? = some { c with loaded := false } ∧ (∀ d ∈ t.density, d.1 / 2 ^ 57 ≠ k) ∧ t.launch = s.launch) ∧
  (∀ s, ∃ t, exec .attestationStart s = .next t ∧ (s.bar.damaged = false → s.bar.attest = 1 → recorded s t 0x0704 4 0) ∧
    t.bar.attest = (if s.bar.damaged then 0x80 else if s.bar.attest = 1 ∨ Config.identityKey = true then 1 else 0x80)) ∧
  (∀ s, restoreServed s = true → let b := s.bar
    (0 < b.rlen → b.rlen ≤ 16384 → b.roff = b.image.length → b.image.length + b.rlen ≤ 2 ^ 24 →
      ∃ t, exec .restoreAppend s = .next t ∧ keepsAll s t ∧ t.bar.rstat = 2 ∧
        t.bar.image = b.image ++ (List.range b.rlen).map (fun i => mapGet 0 b.rbuf i)) ∧
    (b.rlen = 0 ∨ 16384 < b.rlen ∨ b.roff ≠ b.image.length →
      ∃ t, exec .restoreAppend s = .next t ∧ keepsAll s t ∧ t.bar.rstat = 0x80 ∧ t.bar.image = b.image) ∧
    (∃ t, exec .restoreDiscard s = .next t ∧ keepsAll s t ∧ t.bar.rstat = 0 ∧ t.bar.image = []) ∧
    ∃ t, exec .restoreCommit s = .next t ∧ t = { s with bar := { b with committing := true, rstat := 1 } }) ∧
  (∀ n ns rest s, let b := s.bar
    s.agenda = .clocks n ns :: rest → b.committing = true →
    ∃ t, step s = .next t ∧ t.bar.committing = false ∧ t.bar.image = [] ∧
      (if Config.imageSigned b.image then broughtUp s t ∧ t.bar.firmware = b.image ∧ t.bar.rstat = 3
        else t.bar.firmware = b.firmware ∧ t.bar.rstat = 0x81 ∧
          (logFree s = true → ∃ r, t.log.buffer = s.log.buffer ++ [r] ∧ r.code = 0x0702 ∧ r.cls = 5))) ∧
  ∀ addr write data c s, let a := addr / 64 * 64; let p := poundPlace s.poundSize a; let key := 2 ^ 24 * p.1 + p.2.1
    let r := mapGet 0 s.tags key
    s.bad = [] → unwatched s →
    0 < s.poundSize → unlocked s noOp a 64 = true → regionOf s.poundSize a = .lpddr c → tagOk r = true →
    ∃ t, exec (.poundAccess addr write data) s = .next t ∧ (∀ h, registers (grp t h) = registers (grp s h)) ∧
      (if write then storedAt s t a (toBytesLE 64 data) else sameMemory s t) ∧
      mapGet 0 t.tags key = (if write then tagRecord 3 p.2.2
        else if tagState r ≠ 0 ∧ r % 256 = p.2.2 then r else tagRecord 1 p.2.2) ∧
      ∀ k, k ≠ key → mapGet 0 t.tags k = mapGet 0 s.tags k
end

