-- ==== Sys2Proof/Laws/Map.lean ====
section
/-!
SUPPORT. The laws of the canonical maps that memory, registers, full/empty bits and tiles are held in: a read after a write, and the
canonical form, which every write keeps.
-/
namespace Sys2Proof.Machine

/-! ## Reading -/

theorem mapGet_mapErase_same {α : Type} (d : α) (i : Nat) (m : List (Nat × α)) : mapGet d (mapErase i m) i = d := by
  induction m with
  | nil => rfl
  | cons p t ih =>
    obtain ⟨k, w⟩ := p
    by_cases h : k = i
    · simpa [mapErase, h] using ih
    · simpa [mapErase, h, mapGet] using ih

theorem mapGet_mapErase_other {α : Type} (d : α) (i j : Nat) (h : j ≠ i) (m : List (Nat × α)) :
    mapGet d (mapErase i m) j = mapGet d m j := by
  induction m with
  | nil => rfl
  | cons p t ih =>
    obtain ⟨k, w⟩ := p
    by_cases hk : k = i
    · subst hk
      have : k ≠ j := fun e => h e.symm
      simpa [mapErase, mapGet, this] using ih
    · by_cases hj : k = j
      · simp [mapErase, mapGet, hj, h]
      · simpa [mapErase, hk, mapGet, hj] using ih

/-- A key reads as what was written there last. -/
@[simp] theorem mapGet_mapSet_same {α : Type} [DecidableEq α] (d : α) (i : Nat) (v : α) (m : List (Nat × α)) :
    mapGet d (mapSet d i v m) i = v := by
  induction m with
  | nil => by_cases h : v = d <;> simp [mapSet, mapGet, h]
  | cons p t ih =>
    obtain ⟨k, w⟩ := p
    unfold mapSet
    by_cases h1 : k < i
    · simp [h1, mapGet, Nat.ne_of_lt h1, ih]
    · by_cases h2 : v = d
      · simp [h1, h2, mapGet_mapErase_same]
      · by_cases h3 : k = i <;> simp [h1, h2, h3, mapGet]

/-- A write leaves every other key alone. -/
theorem mapGet_mapSet_other {α : Type} [DecidableEq α] (d : α) (i j : Nat) (v : α) (m : List (Nat × α)) (h : j ≠ i) :
    mapGet d (mapSet d i v m) j = mapGet d m j := by
  induction m with
  | nil => by_cases hv : v = d <;> simp [mapSet, mapGet, hv, Ne.symm h]
  | cons p t ih =>
    obtain ⟨k, w⟩ := p
    unfold mapSet
    by_cases h1 : k < i
    · simp [h1, mapGet, ih]
    · by_cases h2 : v = d
      · simp [h1, h2, mapGet_mapErase_other d i j h]
      · by_cases h3 : k = i
        · have : k ≠ j := fun e => h (e.symm.trans h3)
          simp [h2, h3, mapGet, Ne.symm h]
        · simp [h1, h2, h3, mapGet, Ne.symm h]

/-- Reading after a write, in one equation. -/
theorem mapGet_mapSet {α : Type} [DecidableEq α] (d : α) (i j : Nat) (v : α) (m : List (Nat × α)) :
    mapGet d (mapSet d i v m) j = if j = i then v else mapGet d m j := by
  by_cases h : j = i
  · subst h
    simp
  · simp [h, mapGet_mapSet_other]

theorem mapGet_mapClear_in {α : Type} (d : α) (lo n j : Nat) (m : List (Nat × α)) (h1 : lo ≤ j) (h2 : j < lo + n) :
    mapGet d (mapClear lo n m) j = d := by
  induction m with
  | nil => rfl
  | cons p t ih =>
    obtain ⟨k, w⟩ := p
    by_cases hk : k < lo ∨ lo + n ≤ k
    · have : k ≠ j := by omega
      simpa [mapClear, hk, mapGet, this] using ih
    · have : (decide (k < lo) || decide (lo + n ≤ k)) = false := by simpa using hk
      simpa [mapClear, this] using ih

theorem mapGet_mapClear_out {α : Type} (d : α) (lo n j : Nat) (m : List (Nat × α)) (h : j < lo ∨ lo + n ≤ j) :
    mapGet d (mapClear lo n m) j = mapGet d m j := by
  induction m with
  | nil => rfl
  | cons p t ih =>
    obtain ⟨k, w⟩ := p
    by_cases hk : k < lo ∨ lo + n ≤ k
    · by_cases hj : k = j
      · subst hj
        simp [mapClear, hk, mapGet]
      · simpa [mapClear, hk, mapGet, hj] using ih
    · have hf : (decide (k < lo) || decide (lo + n ≤ k)) = false := by simpa using hk
      have : k ≠ j := by omega
      simpa [mapClear, hf, mapGet, this] using ih

/-! ## The canonical form -/

/-- Below a bound nothing is lost by a smaller bound. -/
theorem mapWfFrom_mono {α : Type} [DecidableEq α] (d : α) (b c : Nat) (h : c ≤ b) (m : List (Nat × α))
    (w : mapWfFrom d (some b) m = true) : mapWfFrom d (some c) m = true := by
  cases m with
  | nil => rfl
  | cons p t =>
    obtain ⟨k, v⟩ := p
    simp only [mapWfFrom, Bool.and_eq_true, decide_eq_true_eq] at w ⊢
    exact ⟨⟨by omega, w.1.2⟩, w.2⟩

theorem mapWfFrom_none {α : Type} [DecidableEq α] (d : α) (b : Nat) (m : List (Nat × α))
    (w : mapWfFrom d (some b) m = true) : mapWfFrom d none m = true := by
  cases m with
  | nil => rfl
  | cons p t =>
    obtain ⟨k, v⟩ := p
    simp only [mapWfFrom, Bool.and_eq_true, decide_eq_true_eq] at w ⊢
    exact ⟨⟨trivial, w.1.2⟩, w.2⟩

theorem mapWfFrom_filter {α : Type} [DecidableEq α] (d : α) (q : Nat × α → Bool) (m : List (Nat × α)) :
    ∀ b, mapWfFrom d b m = true → mapWfFrom d b (m.filter q) = true := by
  induction m with
  | nil => intro b _; rfl
  | cons p t ih =>
    obtain ⟨k, v⟩ := p
    intro b w
    have w' := w
    simp only [mapWfFrom, Bool.and_eq_true, decide_eq_true_eq] at w
    by_cases hq : q (k, v) = true
    · simp only [List.filter_cons, hq, if_true, mapWfFrom, Bool.and_eq_true, decide_eq_true_eq]
      exact ⟨w.1, ih _ w.2⟩
    · simp only [List.filter_cons, hq, Bool.false_eq_true, if_false]
      cases b with
      | none => exact mapWfFrom_none d k _ (ih _ w.2)
      | some c =>
        have hc : c < k := by simpa using w.1.1
        exact mapWfFrom_mono d k c (by omega) _ (ih _ w.2)

theorem mapWfFrom_mapSet {α : Type} [DecidableEq α] (d : α) (i : Nat) (v : α) (m : List (Nat × α)) :
    ∀ b, (match b with | none => True | some x => x < i) → mapWfFrom d b m = true → mapWfFrom d b (mapSet d i v m) = true := by
  induction m with
  | nil =>
    intro b hb _
    by_cases h : v = d
    · simp [mapSet, h, mapWfFrom]
    · cases b <;> simp_all [mapSet, mapWfFrom]
  | cons p t ih =>
    obtain ⟨k, w⟩ := p
    intro b hb hm
    have hm' := hm
    simp only [mapWfFrom, Bool.and_eq_true, decide_eq_true_eq] at hm
    unfold mapSet
    by_cases h1 : k < i
    · simp only [h1, if_true, mapWfFrom, Bool.and_eq_true, decide_eq_true_eq]
      exact ⟨hm.1, ih (some k) h1 hm.2⟩
    · by_cases h2 : v = d
      · simp only [h1, h2, if_false, if_true]
        exact mapWfFrom_filter d _ _ b hm'
      · by_cases h3 : k = i
        · subst h3
          simp only [h1, h2, if_false, if_true, mapWfFrom, Bool.and_eq_true, decide_eq_true_eq]
          exact ⟨⟨hm.1.1, h2⟩, hm.2⟩
        · simp only [h1, h2, h3, if_false, mapWfFrom, Bool.and_eq_true, decide_eq_true_eq]
          refine ⟨⟨?_, h2⟩, ⟨by omega, hm.1.2⟩, hm.2⟩
          cases b <;> simp_all

/-- A write keeps the canonical form. -/
theorem mapWf_mapSet {α : Type} [DecidableEq α] (d : α) (i : Nat) (v : α) (m : List (Nat × α)) (h : mapWf d m = true) :
    mapWf d (mapSet d i v m) = true :=
  mapWfFrom_mapSet d i v m none trivial h

/-- Clearing a range keeps it. -/
theorem mapWf_mapClear {α : Type} [DecidableEq α] (d : α) (lo n : Nat) (m : List (Nat × α)) (h : mapWf d m = true) :
    mapWf d (mapClear lo n m) = true :=
  mapWfFrom_filter d _ m none h

end Sys2Proof.Machine
end

