-- ==== Sys2Proof/Laws/Memory.lean ====
section
/-!
SUPPORT. The laws of memory: what a read gives after a write, byte by byte and for whole numbers, and the canonical form.
-/
namespace Sys2Proof.Machine

@[simp] theorem byteAt_setByte_same (m : List Host.Cell) (a : Nat) (v : Byte) : byteAt (setByte m a v) a = v :=
  mapGet_mapSet_same 0 a v m

theorem byteAt_setByte_other (m : List Host.Cell) (a b : Nat) (v : Byte) (h : b ≠ a) : byteAt (setByte m a v) b = byteAt m b :=
  mapGet_mapSet_other 0 a b v m h

/-- A number written leaves every byte outside it alone. -/
theorem byteAt_writeLE_other (n : Nat) : ∀ (m : List Host.Cell) (a v b : Nat), (b < a ∨ a + n ≤ b) →
    byteAt (writeLE m a n v) b = byteAt m b := by
  induction n with
  | zero => intro m a v b _; rfl
  | succ n ih =>
    intro m a v b h
    show byteAt (writeLE (setByte m a (BitVec.ofNat 8 v)) (a + 1) n (v / 256)) b = byteAt m b
    rw [ih _ _ _ _ (by omega), byteAt_setByte_other _ _ _ _ (by omega)]

/-- A list of bytes written leaves every byte outside it alone. -/
theorem byteAt_writeBytes_other (bs : List Byte) : ∀ (m : List Host.Cell) (a b : Nat), (b < a ∨ a + bs.length ≤ b) →
    byteAt (writeBytes m a bs) b = byteAt m b := by
  induction bs with
  | nil => intro m a b _; rfl
  | cons x t ih =>
    intro m a b h
    simp only [List.length_cons] at h
    show byteAt (writeBytes (setByte m a x) (a + 1) t) b = byteAt m b
    rw [ih _ _ _ (by omega), byteAt_setByte_other _ _ _ _ (by omega)]

/-- Reading depends on the bytes read alone. -/
theorem readLE_congr (n : Nat) : ∀ (m m' : List Host.Cell) (a : Nat), (∀ b, a ≤ b → b < a + n → byteAt m b = byteAt m' b) →
    readLE m a n = readLE m' a n := by
  induction n with
  | zero => intro m m' a _; rfl
  | succ n ih =>
    intro m m' a h
    show (byteAt m a).toNat + 256 * readLE m (a + 1) n = (byteAt m' a).toNat + 256 * readLE m' (a + 1) n
    rw [h a (by omega) (by omega), ih m m' (a + 1) (fun b h1 h2 => h b (by omega) (by omega))]

/-- A number read back after it was written, narrowed to its bytes (R6). -/
theorem readLE_writeLE_same (n : Nat) : ∀ (m : List Host.Cell) (a v : Nat), readLE (writeLE m a n v) a n = v % 2 ^ (8 * n) := by
  induction n with
  | zero => intro m a v; simp [readLE, Nat.mod_one]
  | succ n ih =>
    intro m a v
    show (byteAt (writeLE (setByte m a (BitVec.ofNat 8 v)) (a + 1) n (v / 256)) a).toNat +
      256 * readLE (writeLE (setByte m a (BitVec.ofNat 8 v)) (a + 1) n (v / 256)) (a + 1) n = v % 2 ^ (8 * (n + 1))
    rw [byteAt_writeLE_other _ _ _ _ _ (by omega), byteAt_setByte_same, ih, BitVec.toNat_ofNat]
    have h : 2 ^ (8 * (n + 1)) = 256 * 2 ^ (8 * n) := by
      rw [show 8 * (n + 1) = 8 * n + 8 by omega, Nat.pow_add]
      omega
    rw [h, Nat.mod_mul, show (2 : Nat) ^ 8 = 256 by rfl]

/-- A number read after a write elsewhere is as before. -/
theorem readLE_writeLE_other (n k : Nat) (m : List Host.Cell) (a b v : Nat) (h : b + k ≤ a ∨ a + n ≤ b) :
    readLE (writeLE m a n v) b k = readLE m b k :=
  readLE_congr k _ _ _ (fun c h1 h2 => byteAt_writeLE_other _ _ _ _ _ (by omega))

/-! ## The canonical form -/

theorem setByte_wf (m : List Host.Cell) (a : Nat) (v : Byte) (h : Memory.wf m = true) : Memory.wf (setByte m a v) = true :=
  mapWf_mapSet 0 a v m h

theorem writeLE_wf (n : Nat) : ∀ (m : List Host.Cell) (a v : Nat), Memory.wf m = true → Memory.wf (writeLE m a n v) = true := by
  induction n with
  | zero => intro m a v h; exact h
  | succ n ih => intro m a v h; exact ih _ _ _ (setByte_wf _ _ _ h)

theorem writeBytes_wf (bs : List Byte) : ∀ (m : List Host.Cell) (a : Nat), Memory.wf m = true → Memory.wf (writeBytes m a bs) = true := by
  induction bs with
  | nil => intro m a h; exact h
  | cons x t ih => intro m a h; exact ih _ _ (setByte_wf _ _ _ h)

theorem mapClear_wf (m : List Host.Cell) (lo n : Nat) (h : Memory.wf m = true) : Memory.wf (mapClear lo n m) = true :=
  mapWf_mapClear 0 lo n m h

theorem wr_wf (s : State) (a n v : Nat) (h : Memory.wf s.mem = true) : Memory.wf (wr s a n v).mem = true := writeLE_wf _ _ _ _ h

theorem wrBytes_wf (s : State) (a : Nat) (bs : List Byte) (h : Memory.wf s.mem = true) : Memory.wf (wrBytes s a bs).mem = true :=
  writeBytes_wf _ _ _ h

theorem clearScratch_wf (s : State) (loc n : Nat) (h : Memory.wf s.mem = true) : Memory.wf (clearScratch s loc n).mem = true :=
  mapClear_wf _ _ _ h

theorem reset_wf : Memory.wf State.reset.mem = true := rfl

end Sys2Proof.Machine
end

