-- ==== Sys2Proof/Laws/State.lean ====
section
/-!
SUPPORT. What each update of the state leaves alone, one lemma for each field, and what a record reads as after its update.
-/
namespace Sys2Proof.Machine

/-! ## setGrp -/

@[simp] theorem setGrp_agenda (s : State) (g : Nat) (x : Group) : (setGrp s g x).agenda = s.agenda := rfl
@[simp] theorem setGrp_cur (s : State) (g : Nat) (x : Group) : (setGrp s g x).cur = s.cur := rfl
@[simp] theorem setGrp_curCore (s : State) (g : Nat) (x : Group) : (setGrp s g x).curCore = s.curCore := rfl
@[simp] theorem setGrp_free (s : State) (g : Nat) (x : Group) : (setGrp s g x).free = s.free := rfl
@[simp] theorem setGrp_deviceId (s : State) (g : Nat) (x : Group) : (setGrp s g x).deviceId = s.deviceId := rfl
@[simp] theorem setGrp_clock (s : State) (g : Nat) (x : Group) : (setGrp s g x).clock = s.clock := rfl
@[simp] theorem setGrp_teams (s : State) (g : Nat) (x : Group) : (setGrp s g x).teams = s.teams := rfl
@[simp] theorem setGrp_grids (s : State) (g : Nat) (x : Group) : (setGrp s g x).grids = s.grids := rfl
@[simp] theorem setGrp_codes (s : State) (g : Nat) (x : Group) : (setGrp s g x).codes = s.codes := rfl
@[simp] theorem setGrp_mem (s : State) (g : Nat) (x : Group) : (setGrp s g x).mem = s.mem := rfl
@[simp] theorem setGrp_full (s : State) (g : Nat) (x : Group) : (setGrp s g x).full = s.full := rfl
@[simp] theorem setGrp_bad (s : State) (g : Nat) (x : Group) : (setGrp s g x).bad = s.bad := rfl
@[simp] theorem setGrp_poundSize (s : State) (g : Nat) (x : Group) : (setGrp s g x).poundSize = s.poundSize := rfl
@[simp] theorem setGrp_tags (s : State) (g : Nat) (x : Group) : (setGrp s g x).tags = s.tags := rfl
@[simp] theorem setGrp_spilled (s : State) (g : Nat) (x : Group) : (setGrp s g x).spilled = s.spilled := rfl
@[simp] theorem setGrp_latched (s : State) (g : Nat) (x : Group) : (setGrp s g x).latched = s.latched := rfl
@[simp] theorem setGrp_seq (s : State) (g : Nat) (x : Group) : (setGrp s g x).seq = s.seq := rfl
@[simp] theorem setGrp_pins (s : State) (g : Nat) (x : Group) : (setGrp s g x).pins = s.pins := rfl
@[simp] theorem setGrp_held (s : State) (g : Nat) (x : Group) : (setGrp s g x).held = s.held := rfl
@[simp] theorem setGrp_density (s : State) (g : Nat) (x : Group) : (setGrp s g x).density = s.density := rfl
@[simp] theorem setGrp_ops (s : State) (g : Nat) (x : Group) : (setGrp s g x).ops = s.ops := rfl
@[simp] theorem setGrp_tows (s : State) (g : Nat) (x : Group) : (setGrp s g x).tows = s.tows := rfl
@[simp] theorem setGrp_runs (s : State) (g : Nat) (x : Group) : (setGrp s g x).runs = s.runs := rfl
@[simp] theorem setGrp_tiles (s : State) (g : Nat) (x : Group) : (setGrp s g x).tiles = s.tiles := rfl
@[simp] theorem setGrp_fabric (s : State) (g : Nat) (x : Group) : (setGrp s g x).fabric = s.fabric := rfl
@[simp] theorem setGrp_quay (s : State) (g : Nat) (x : Group) : (setGrp s g x).quay = s.quay := rfl
@[simp] theorem setGrp_units (s : State) (g : Nat) (x : Group) : (setGrp s g x).units = s.units := rfl
@[simp] theorem setGrp_launch (s : State) (g : Nat) (x : Group) : (setGrp s g x).launch = s.launch := rfl
@[simp] theorem setGrp_bar (s : State) (g : Nat) (x : Group) : (setGrp s g x).bar = s.bar := rfl
@[simp] theorem setGrp_ready (s : State) (g : Nat) (x : Group) : (setGrp s g x).ready = s.ready := rfl
@[simp] theorem setGrp_sync (s : State) (g : Nat) (x : Group) : (setGrp s g x).sync = s.sync := rfl
@[simp] theorem setGrp_log (s : State) (g : Nat) (x : Group) : (setGrp s g x).log = s.log := rfl
@[simp] theorem setGrp_dbg (s : State) (g : Nat) (x : Group) : (setGrp s g x).dbg = s.dbg := rfl
@[simp] theorem setGrp_msix (s : State) (g : Nat) (x : Group) : (setGrp s g x).msix = s.msix := rfl
@[simp] theorem setGrp_ptpNs (s : State) (g : Nat) (x : Group) : (setGrp s g x).ptpNs = s.ptpNs := rfl
@[simp] theorem setGrp_ptpFrac (s : State) (g : Nat) (x : Group) : (setGrp s g x).ptpFrac = s.ptpFrac := rfl
@[simp] theorem setGrp_duty (s : State) (g : Nat) (x : Group) : (setGrp s g x).duty = s.duty := rfl

/-! ## modGrp -/

@[simp] theorem modGrp_agenda (s : State) (g : Nat) (f : Group → Group) : (modGrp s g f).agenda = s.agenda := rfl
@[simp] theorem modGrp_cur (s : State) (g : Nat) (f : Group → Group) : (modGrp s g f).cur = s.cur := rfl
@[simp] theorem modGrp_curCore (s : State) (g : Nat) (f : Group → Group) : (modGrp s g f).curCore = s.curCore := rfl
@[simp] theorem modGrp_free (s : State) (g : Nat) (f : Group → Group) : (modGrp s g f).free = s.free := rfl
@[simp] theorem modGrp_deviceId (s : State) (g : Nat) (f : Group → Group) : (modGrp s g f).deviceId = s.deviceId := rfl
@[simp] theorem modGrp_clock (s : State) (g : Nat) (f : Group → Group) : (modGrp s g f).clock = s.clock := rfl
@[simp] theorem modGrp_teams (s : State) (g : Nat) (f : Group → Group) : (modGrp s g f).teams = s.teams := rfl
@[simp] theorem modGrp_grids (s : State) (g : Nat) (f : Group → Group) : (modGrp s g f).grids = s.grids := rfl
@[simp] theorem modGrp_codes (s : State) (g : Nat) (f : Group → Group) : (modGrp s g f).codes = s.codes := rfl
@[simp] theorem modGrp_mem (s : State) (g : Nat) (f : Group → Group) : (modGrp s g f).mem = s.mem := rfl
@[simp] theorem modGrp_full (s : State) (g : Nat) (f : Group → Group) : (modGrp s g f).full = s.full := rfl
@[simp] theorem modGrp_bad (s : State) (g : Nat) (f : Group → Group) : (modGrp s g f).bad = s.bad := rfl
@[simp] theorem modGrp_poundSize (s : State) (g : Nat) (f : Group → Group) : (modGrp s g f).poundSize = s.poundSize := rfl
@[simp] theorem modGrp_tags (s : State) (g : Nat) (f : Group → Group) : (modGrp s g f).tags = s.tags := rfl
@[simp] theorem modGrp_spilled (s : State) (g : Nat) (f : Group → Group) : (modGrp s g f).spilled = s.spilled := rfl
@[simp] theorem modGrp_latched (s : State) (g : Nat) (f : Group → Group) : (modGrp s g f).latched = s.latched := rfl
@[simp] theorem modGrp_seq (s : State) (g : Nat) (f : Group → Group) : (modGrp s g f).seq = s.seq := rfl
@[simp] theorem modGrp_pins (s : State) (g : Nat) (f : Group → Group) : (modGrp s g f).pins = s.pins := rfl
@[simp] theorem modGrp_held (s : State) (g : Nat) (f : Group → Group) : (modGrp s g f).held = s.held := rfl
@[simp] theorem modGrp_density (s : State) (g : Nat) (f : Group → Group) : (modGrp s g f).density = s.density := rfl
@[simp] theorem modGrp_ops (s : State) (g : Nat) (f : Group → Group) : (modGrp s g f).ops = s.ops := rfl
@[simp] theorem modGrp_tows (s : State) (g : Nat) (f : Group → Group) : (modGrp s g f).tows = s.tows := rfl
@[simp] theorem modGrp_runs (s : State) (g : Nat) (f : Group → Group) : (modGrp s g f).runs = s.runs := rfl
@[simp] theorem modGrp_tiles (s : State) (g : Nat) (f : Group → Group) : (modGrp s g f).tiles = s.tiles := rfl
@[simp] theorem modGrp_fabric (s : State) (g : Nat) (f : Group → Group) : (modGrp s g f).fabric = s.fabric := rfl
@[simp] theorem modGrp_quay (s : State) (g : Nat) (f : Group → Group) : (modGrp s g f).quay = s.quay := rfl
@[simp] theorem modGrp_units (s : State) (g : Nat) (f : Group → Group) : (modGrp s g f).units = s.units := rfl
@[simp] theorem modGrp_launch (s : State) (g : Nat) (f : Group → Group) : (modGrp s g f).launch = s.launch := rfl
@[simp] theorem modGrp_bar (s : State) (g : Nat) (f : Group → Group) : (modGrp s g f).bar = s.bar := rfl
@[simp] theorem modGrp_ready (s : State) (g : Nat) (f : Group → Group) : (modGrp s g f).ready = s.ready := rfl
@[simp] theorem modGrp_sync (s : State) (g : Nat) (f : Group → Group) : (modGrp s g f).sync = s.sync := rfl
@[simp] theorem modGrp_log (s : State) (g : Nat) (f : Group → Group) : (modGrp s g f).log = s.log := rfl
@[simp] theorem modGrp_dbg (s : State) (g : Nat) (f : Group → Group) : (modGrp s g f).dbg = s.dbg := rfl
@[simp] theorem modGrp_msix (s : State) (g : Nat) (f : Group → Group) : (modGrp s g f).msix = s.msix := rfl
@[simp] theorem modGrp_ptpNs (s : State) (g : Nat) (f : Group → Group) : (modGrp s g f).ptpNs = s.ptpNs := rfl
@[simp] theorem modGrp_ptpFrac (s : State) (g : Nat) (f : Group → Group) : (modGrp s g f).ptpFrac = s.ptpFrac := rfl
@[simp] theorem modGrp_duty (s : State) (g : Nat) (f : Group → Group) : (modGrp s g f).duty = s.duty := rfl

/-! ## modMe -/

@[simp] theorem modMe_agenda (s : State) (f : Group → Group) : (modMe s f).agenda = s.agenda := rfl
@[simp] theorem modMe_cur (s : State) (f : Group → Group) : (modMe s f).cur = s.cur := rfl
@[simp] theorem modMe_curCore (s : State) (f : Group → Group) : (modMe s f).curCore = s.curCore := rfl
@[simp] theorem modMe_free (s : State) (f : Group → Group) : (modMe s f).free = s.free := rfl
@[simp] theorem modMe_deviceId (s : State) (f : Group → Group) : (modMe s f).deviceId = s.deviceId := rfl
@[simp] theorem modMe_clock (s : State) (f : Group → Group) : (modMe s f).clock = s.clock := rfl
@[simp] theorem modMe_teams (s : State) (f : Group → Group) : (modMe s f).teams = s.teams := rfl
@[simp] theorem modMe_grids (s : State) (f : Group → Group) : (modMe s f).grids = s.grids := rfl
@[simp] theorem modMe_codes (s : State) (f : Group → Group) : (modMe s f).codes = s.codes := rfl
@[simp] theorem modMe_mem (s : State) (f : Group → Group) : (modMe s f).mem = s.mem := rfl
@[simp] theorem modMe_full (s : State) (f : Group → Group) : (modMe s f).full = s.full := rfl
@[simp] theorem modMe_bad (s : State) (f : Group → Group) : (modMe s f).bad = s.bad := rfl
@[simp] theorem modMe_poundSize (s : State) (f : Group → Group) : (modMe s f).poundSize = s.poundSize := rfl
@[simp] theorem modMe_tags (s : State) (f : Group → Group) : (modMe s f).tags = s.tags := rfl
@[simp] theorem modMe_spilled (s : State) (f : Group → Group) : (modMe s f).spilled = s.spilled := rfl
@[simp] theorem modMe_latched (s : State) (f : Group → Group) : (modMe s f).latched = s.latched := rfl
@[simp] theorem modMe_seq (s : State) (f : Group → Group) : (modMe s f).seq = s.seq := rfl
@[simp] theorem modMe_pins (s : State) (f : Group → Group) : (modMe s f).pins = s.pins := rfl
@[simp] theorem modMe_held (s : State) (f : Group → Group) : (modMe s f).held = s.held := rfl
@[simp] theorem modMe_density (s : State) (f : Group → Group) : (modMe s f).density = s.density := rfl
@[simp] theorem modMe_ops (s : State) (f : Group → Group) : (modMe s f).ops = s.ops := rfl
@[simp] theorem modMe_tows (s : State) (f : Group → Group) : (modMe s f).tows = s.tows := rfl
@[simp] theorem modMe_runs (s : State) (f : Group → Group) : (modMe s f).runs = s.runs := rfl
@[simp] theorem modMe_tiles (s : State) (f : Group → Group) : (modMe s f).tiles = s.tiles := rfl
@[simp] theorem modMe_fabric (s : State) (f : Group → Group) : (modMe s f).fabric = s.fabric := rfl
@[simp] theorem modMe_quay (s : State) (f : Group → Group) : (modMe s f).quay = s.quay := rfl
@[simp] theorem modMe_units (s : State) (f : Group → Group) : (modMe s f).units = s.units := rfl
@[simp] theorem modMe_launch (s : State) (f : Group → Group) : (modMe s f).launch = s.launch := rfl
@[simp] theorem modMe_bar (s : State) (f : Group → Group) : (modMe s f).bar = s.bar := rfl
@[simp] theorem modMe_ready (s : State) (f : Group → Group) : (modMe s f).ready = s.ready := rfl
@[simp] theorem modMe_sync (s : State) (f : Group → Group) : (modMe s f).sync = s.sync := rfl
@[simp] theorem modMe_log (s : State) (f : Group → Group) : (modMe s f).log = s.log := rfl
@[simp] theorem modMe_dbg (s : State) (f : Group → Group) : (modMe s f).dbg = s.dbg := rfl
@[simp] theorem modMe_msix (s : State) (f : Group → Group) : (modMe s f).msix = s.msix := rfl
@[simp] theorem modMe_ptpNs (s : State) (f : Group → Group) : (modMe s f).ptpNs = s.ptpNs := rfl
@[simp] theorem modMe_ptpFrac (s : State) (f : Group → Group) : (modMe s f).ptpFrac = s.ptpFrac := rfl
@[simp] theorem modMe_duty (s : State) (f : Group → Group) : (modMe s f).duty = s.duty := rfl

/-! ## modTeam -/

@[simp] theorem modTeam_agenda (s : State) (t : Nat) (f : Team → Team) : (modTeam s t f).agenda = s.agenda := rfl
@[simp] theorem modTeam_cur (s : State) (t : Nat) (f : Team → Team) : (modTeam s t f).cur = s.cur := rfl
@[simp] theorem modTeam_curCore (s : State) (t : Nat) (f : Team → Team) : (modTeam s t f).curCore = s.curCore := rfl
@[simp] theorem modTeam_free (s : State) (t : Nat) (f : Team → Team) : (modTeam s t f).free = s.free := rfl
@[simp] theorem modTeam_deviceId (s : State) (t : Nat) (f : Team → Team) : (modTeam s t f).deviceId = s.deviceId := rfl
@[simp] theorem modTeam_clock (s : State) (t : Nat) (f : Team → Team) : (modTeam s t f).clock = s.clock := rfl
@[simp] theorem modTeam_groups (s : State) (t : Nat) (f : Team → Team) : (modTeam s t f).groups = s.groups := rfl
@[simp] theorem modTeam_grids (s : State) (t : Nat) (f : Team → Team) : (modTeam s t f).grids = s.grids := rfl
@[simp] theorem modTeam_codes (s : State) (t : Nat) (f : Team → Team) : (modTeam s t f).codes = s.codes := rfl
@[simp] theorem modTeam_mem (s : State) (t : Nat) (f : Team → Team) : (modTeam s t f).mem = s.mem := rfl
@[simp] theorem modTeam_full (s : State) (t : Nat) (f : Team → Team) : (modTeam s t f).full = s.full := rfl
@[simp] theorem modTeam_bad (s : State) (t : Nat) (f : Team → Team) : (modTeam s t f).bad = s.bad := rfl
@[simp] theorem modTeam_poundSize (s : State) (t : Nat) (f : Team → Team) : (modTeam s t f).poundSize = s.poundSize := rfl
@[simp] theorem modTeam_tags (s : State) (t : Nat) (f : Team → Team) : (modTeam s t f).tags = s.tags := rfl
@[simp] theorem modTeam_spilled (s : State) (t : Nat) (f : Team → Team) : (modTeam s t f).spilled = s.spilled := rfl
@[simp] theorem modTeam_latched (s : State) (t : Nat) (f : Team → Team) : (modTeam s t f).latched = s.latched := rfl
@[simp] theorem modTeam_seq (s : State) (t : Nat) (f : Team → Team) : (modTeam s t f).seq = s.seq := rfl
@[simp] theorem modTeam_pins (s : State) (t : Nat) (f : Team → Team) : (modTeam s t f).pins = s.pins := rfl
@[simp] theorem modTeam_held (s : State) (t : Nat) (f : Team → Team) : (modTeam s t f).held = s.held := rfl
@[simp] theorem modTeam_density (s : State) (t : Nat) (f : Team → Team) : (modTeam s t f).density = s.density := rfl
@[simp] theorem modTeam_ops (s : State) (t : Nat) (f : Team → Team) : (modTeam s t f).ops = s.ops := rfl
@[simp] theorem modTeam_tows (s : State) (t : Nat) (f : Team → Team) : (modTeam s t f).tows = s.tows := rfl
@[simp] theorem modTeam_runs (s : State) (t : Nat) (f : Team → Team) : (modTeam s t f).runs = s.runs := rfl
@[simp] theorem modTeam_tiles (s : State) (t : Nat) (f : Team → Team) : (modTeam s t f).tiles = s.tiles := rfl
@[simp] theorem modTeam_fabric (s : State) (t : Nat) (f : Team → Team) : (modTeam s t f).fabric = s.fabric := rfl
@[simp] theorem modTeam_quay (s : State) (t : Nat) (f : Team → Team) : (modTeam s t f).quay = s.quay := rfl
@[simp] theorem modTeam_units (s : State) (t : Nat) (f : Team → Team) : (modTeam s t f).units = s.units := rfl
@[simp] theorem modTeam_launch (s : State) (t : Nat) (f : Team → Team) : (modTeam s t f).launch = s.launch := rfl
@[simp] theorem modTeam_bar (s : State) (t : Nat) (f : Team → Team) : (modTeam s t f).bar = s.bar := rfl
@[simp] theorem modTeam_ready (s : State) (t : Nat) (f : Team → Team) : (modTeam s t f).ready = s.ready := rfl
@[simp] theorem modTeam_sync (s : State) (t : Nat) (f : Team → Team) : (modTeam s t f).sync = s.sync := rfl
@[simp] theorem modTeam_log (s : State) (t : Nat) (f : Team → Team) : (modTeam s t f).log = s.log := rfl
@[simp] theorem modTeam_dbg (s : State) (t : Nat) (f : Team → Team) : (modTeam s t f).dbg = s.dbg := rfl
@[simp] theorem modTeam_msix (s : State) (t : Nat) (f : Team → Team) : (modTeam s t f).msix = s.msix := rfl
@[simp] theorem modTeam_ptpNs (s : State) (t : Nat) (f : Team → Team) : (modTeam s t f).ptpNs = s.ptpNs := rfl
@[simp] theorem modTeam_ptpFrac (s : State) (t : Nat) (f : Team → Team) : (modTeam s t f).ptpFrac = s.ptpFrac := rfl
@[simp] theorem modTeam_duty (s : State) (t : Nat) (f : Team → Team) : (modTeam s t f).duty = s.duty := rfl

/-! ## modGrid -/

@[simp] theorem modGrid_agenda (s : State) (i : Nat) (f : Grid → Grid) : (modGrid s i f).agenda = s.agenda := rfl
@[simp] theorem modGrid_cur (s : State) (i : Nat) (f : Grid → Grid) : (modGrid s i f).cur = s.cur := rfl
@[simp] theorem modGrid_curCore (s : State) (i : Nat) (f : Grid → Grid) : (modGrid s i f).curCore = s.curCore := rfl
@[simp] theorem modGrid_free (s : State) (i : Nat) (f : Grid → Grid) : (modGrid s i f).free = s.free := rfl
@[simp] theorem modGrid_deviceId (s : State) (i : Nat) (f : Grid → Grid) : (modGrid s i f).deviceId = s.deviceId := rfl
@[simp] theorem modGrid_clock (s : State) (i : Nat) (f : Grid → Grid) : (modGrid s i f).clock = s.clock := rfl
@[simp] theorem modGrid_groups (s : State) (i : Nat) (f : Grid → Grid) : (modGrid s i f).groups = s.groups := rfl
@[simp] theorem modGrid_teams (s : State) (i : Nat) (f : Grid → Grid) : (modGrid s i f).teams = s.teams := rfl
@[simp] theorem modGrid_codes (s : State) (i : Nat) (f : Grid → Grid) : (modGrid s i f).codes = s.codes := rfl
@[simp] theorem modGrid_mem (s : State) (i : Nat) (f : Grid → Grid) : (modGrid s i f).mem = s.mem := rfl
@[simp] theorem modGrid_full (s : State) (i : Nat) (f : Grid → Grid) : (modGrid s i f).full = s.full := rfl
@[simp] theorem modGrid_bad (s : State) (i : Nat) (f : Grid → Grid) : (modGrid s i f).bad = s.bad := rfl
@[simp] theorem modGrid_poundSize (s : State) (i : Nat) (f : Grid → Grid) : (modGrid s i f).poundSize = s.poundSize := rfl
@[simp] theorem modGrid_tags (s : State) (i : Nat) (f : Grid → Grid) : (modGrid s i f).tags = s.tags := rfl
@[simp] theorem modGrid_spilled (s : State) (i : Nat) (f : Grid → Grid) : (modGrid s i f).spilled = s.spilled := rfl
@[simp] theorem modGrid_latched (s : State) (i : Nat) (f : Grid → Grid) : (modGrid s i f).latched = s.latched := rfl
@[simp] theorem modGrid_seq (s : State) (i : Nat) (f : Grid → Grid) : (modGrid s i f).seq = s.seq := rfl
@[simp] theorem modGrid_pins (s : State) (i : Nat) (f : Grid → Grid) : (modGrid s i f).pins = s.pins := rfl
@[simp] theorem modGrid_held (s : State) (i : Nat) (f : Grid → Grid) : (modGrid s i f).held = s.held := rfl
@[simp] theorem modGrid_density (s : State) (i : Nat) (f : Grid → Grid) : (modGrid s i f).density = s.density := rfl
@[simp] theorem modGrid_ops (s : State) (i : Nat) (f : Grid → Grid) : (modGrid s i f).ops = s.ops := rfl
@[simp] theorem modGrid_tows (s : State) (i : Nat) (f : Grid → Grid) : (modGrid s i f).tows = s.tows := rfl
@[simp] theorem modGrid_runs (s : State) (i : Nat) (f : Grid → Grid) : (modGrid s i f).runs = s.runs := rfl
@[simp] theorem modGrid_tiles (s : State) (i : Nat) (f : Grid → Grid) : (modGrid s i f).tiles = s.tiles := rfl
@[simp] theorem modGrid_fabric (s : State) (i : Nat) (f : Grid → Grid) : (modGrid s i f).fabric = s.fabric := rfl
@[simp] theorem modGrid_quay (s : State) (i : Nat) (f : Grid → Grid) : (modGrid s i f).quay = s.quay := rfl
@[simp] theorem modGrid_units (s : State) (i : Nat) (f : Grid → Grid) : (modGrid s i f).units = s.units := rfl
@[simp] theorem modGrid_launch (s : State) (i : Nat) (f : Grid → Grid) : (modGrid s i f).launch = s.launch := rfl
@[simp] theorem modGrid_bar (s : State) (i : Nat) (f : Grid → Grid) : (modGrid s i f).bar = s.bar := rfl
@[simp] theorem modGrid_ready (s : State) (i : Nat) (f : Grid → Grid) : (modGrid s i f).ready = s.ready := rfl
@[simp] theorem modGrid_sync (s : State) (i : Nat) (f : Grid → Grid) : (modGrid s i f).sync = s.sync := rfl
@[simp] theorem modGrid_log (s : State) (i : Nat) (f : Grid → Grid) : (modGrid s i f).log = s.log := rfl
@[simp] theorem modGrid_dbg (s : State) (i : Nat) (f : Grid → Grid) : (modGrid s i f).dbg = s.dbg := rfl
@[simp] theorem modGrid_msix (s : State) (i : Nat) (f : Grid → Grid) : (modGrid s i f).msix = s.msix := rfl
@[simp] theorem modGrid_ptpNs (s : State) (i : Nat) (f : Grid → Grid) : (modGrid s i f).ptpNs = s.ptpNs := rfl
@[simp] theorem modGrid_ptpFrac (s : State) (i : Nat) (f : Grid → Grid) : (modGrid s i f).ptpFrac = s.ptpFrac := rfl
@[simp] theorem modGrid_duty (s : State) (i : Nat) (f : Grid → Grid) : (modGrid s i f).duty = s.duty := rfl

/-! ## modOp -/

@[simp] theorem modOp_agenda (s : State) (o : Nat) (f : Op → Op) : (modOp s o f).agenda = s.agenda := rfl
@[simp] theorem modOp_cur (s : State) (o : Nat) (f : Op → Op) : (modOp s o f).cur = s.cur := rfl
@[simp] theorem modOp_curCore (s : State) (o : Nat) (f : Op → Op) : (modOp s o f).curCore = s.curCore := rfl
@[simp] theorem modOp_free (s : State) (o : Nat) (f : Op → Op) : (modOp s o f).free = s.free := rfl
@[simp] theorem modOp_deviceId (s : State) (o : Nat) (f : Op → Op) : (modOp s o f).deviceId = s.deviceId := rfl
@[simp] theorem modOp_clock (s : State) (o : Nat) (f : Op → Op) : (modOp s o f).clock = s.clock := rfl
@[simp] theorem modOp_groups (s : State) (o : Nat) (f : Op → Op) : (modOp s o f).groups = s.groups := rfl
@[simp] theorem modOp_teams (s : State) (o : Nat) (f : Op → Op) : (modOp s o f).teams = s.teams := rfl
@[simp] theorem modOp_grids (s : State) (o : Nat) (f : Op → Op) : (modOp s o f).grids = s.grids := rfl
@[simp] theorem modOp_codes (s : State) (o : Nat) (f : Op → Op) : (modOp s o f).codes = s.codes := rfl
@[simp] theorem modOp_mem (s : State) (o : Nat) (f : Op → Op) : (modOp s o f).mem = s.mem := rfl
@[simp] theorem modOp_full (s : State) (o : Nat) (f : Op → Op) : (modOp s o f).full = s.full := rfl
@[simp] theorem modOp_bad (s : State) (o : Nat) (f : Op → Op) : (modOp s o f).bad = s.bad := rfl
@[simp] theorem modOp_poundSize (s : State) (o : Nat) (f : Op → Op) : (modOp s o f).poundSize = s.poundSize := rfl
@[simp] theorem modOp_tags (s : State) (o : Nat) (f : Op → Op) : (modOp s o f).tags = s.tags := rfl
@[simp] theorem modOp_spilled (s : State) (o : Nat) (f : Op → Op) : (modOp s o f).spilled = s.spilled := rfl
@[simp] theorem modOp_latched (s : State) (o : Nat) (f : Op → Op) : (modOp s o f).latched = s.latched := rfl
@[simp] theorem modOp_seq (s : State) (o : Nat) (f : Op → Op) : (modOp s o f).seq = s.seq := rfl
@[simp] theorem modOp_pins (s : State) (o : Nat) (f : Op → Op) : (modOp s o f).pins = s.pins := rfl
@[simp] theorem modOp_held (s : State) (o : Nat) (f : Op → Op) : (modOp s o f).held = s.held := rfl
@[simp] theorem modOp_density (s : State) (o : Nat) (f : Op → Op) : (modOp s o f).density = s.density := rfl
@[simp] theorem modOp_tows (s : State) (o : Nat) (f : Op → Op) : (modOp s o f).tows = s.tows := rfl
@[simp] theorem modOp_runs (s : State) (o : Nat) (f : Op → Op) : (modOp s o f).runs = s.runs := rfl
@[simp] theorem modOp_tiles (s : State) (o : Nat) (f : Op → Op) : (modOp s o f).tiles = s.tiles := rfl
@[simp] theorem modOp_fabric (s : State) (o : Nat) (f : Op → Op) : (modOp s o f).fabric = s.fabric := rfl
@[simp] theorem modOp_quay (s : State) (o : Nat) (f : Op → Op) : (modOp s o f).quay = s.quay := rfl
@[simp] theorem modOp_units (s : State) (o : Nat) (f : Op → Op) : (modOp s o f).units = s.units := rfl
@[simp] theorem modOp_launch (s : State) (o : Nat) (f : Op → Op) : (modOp s o f).launch = s.launch := rfl
@[simp] theorem modOp_bar (s : State) (o : Nat) (f : Op → Op) : (modOp s o f).bar = s.bar := rfl
@[simp] theorem modOp_ready (s : State) (o : Nat) (f : Op → Op) : (modOp s o f).ready = s.ready := rfl
@[simp] theorem modOp_sync (s : State) (o : Nat) (f : Op → Op) : (modOp s o f).sync = s.sync := rfl
@[simp] theorem modOp_log (s : State) (o : Nat) (f : Op → Op) : (modOp s o f).log = s.log := rfl
@[simp] theorem modOp_dbg (s : State) (o : Nat) (f : Op → Op) : (modOp s o f).dbg = s.dbg := rfl
@[simp] theorem modOp_msix (s : State) (o : Nat) (f : Op → Op) : (modOp s o f).msix = s.msix := rfl
@[simp] theorem modOp_ptpNs (s : State) (o : Nat) (f : Op → Op) : (modOp s o f).ptpNs = s.ptpNs := rfl
@[simp] theorem modOp_ptpFrac (s : State) (o : Nat) (f : Op → Op) : (modOp s o f).ptpFrac = s.ptpFrac := rfl
@[simp] theorem modOp_duty (s : State) (o : Nat) (f : Op → Op) : (modOp s o f).duty = s.duty := rfl

/-! ## modTow -/

@[simp] theorem modTow_agenda (s : State) (n : Nat) (f : Tow → Tow) : (modTow s n f).agenda = s.agenda := rfl
@[simp] theorem modTow_cur (s : State) (n : Nat) (f : Tow → Tow) : (modTow s n f).cur = s.cur := rfl
@[simp] theorem modTow_curCore (s : State) (n : Nat) (f : Tow → Tow) : (modTow s n f).curCore = s.curCore := rfl
@[simp] theorem modTow_free (s : State) (n : Nat) (f : Tow → Tow) : (modTow s n f).free = s.free := rfl
@[simp] theorem modTow_deviceId (s : State) (n : Nat) (f : Tow → Tow) : (modTow s n f).deviceId = s.deviceId := rfl
@[simp] theorem modTow_clock (s : State) (n : Nat) (f : Tow → Tow) : (modTow s n f).clock = s.clock := rfl
@[simp] theorem modTow_groups (s : State) (n : Nat) (f : Tow → Tow) : (modTow s n f).groups = s.groups := rfl
@[simp] theorem modTow_teams (s : State) (n : Nat) (f : Tow → Tow) : (modTow s n f).teams = s.teams := rfl
@[simp] theorem modTow_grids (s : State) (n : Nat) (f : Tow → Tow) : (modTow s n f).grids = s.grids := rfl
@[simp] theorem modTow_codes (s : State) (n : Nat) (f : Tow → Tow) : (modTow s n f).codes = s.codes := rfl
@[simp] theorem modTow_mem (s : State) (n : Nat) (f : Tow → Tow) : (modTow s n f).mem = s.mem := rfl
@[simp] theorem modTow_full (s : State) (n : Nat) (f : Tow → Tow) : (modTow s n f).full = s.full := rfl
@[simp] theorem modTow_bad (s : State) (n : Nat) (f : Tow → Tow) : (modTow s n f).bad = s.bad := rfl
@[simp] theorem modTow_poundSize (s : State) (n : Nat) (f : Tow → Tow) : (modTow s n f).poundSize = s.poundSize := rfl
@[simp] theorem modTow_tags (s : State) (n : Nat) (f : Tow → Tow) : (modTow s n f).tags = s.tags := rfl
@[simp] theorem modTow_spilled (s : State) (n : Nat) (f : Tow → Tow) : (modTow s n f).spilled = s.spilled := rfl
@[simp] theorem modTow_latched (s : State) (n : Nat) (f : Tow → Tow) : (modTow s n f).latched = s.latched := rfl
@[simp] theorem modTow_seq (s : State) (n : Nat) (f : Tow → Tow) : (modTow s n f).seq = s.seq := rfl
@[simp] theorem modTow_pins (s : State) (n : Nat) (f : Tow → Tow) : (modTow s n f).pins = s.pins := rfl
@[simp] theorem modTow_held (s : State) (n : Nat) (f : Tow → Tow) : (modTow s n f).held = s.held := rfl
@[simp] theorem modTow_density (s : State) (n : Nat) (f : Tow → Tow) : (modTow s n f).density = s.density := rfl
@[simp] theorem modTow_ops (s : State) (n : Nat) (f : Tow → Tow) : (modTow s n f).ops = s.ops := rfl
@[simp] theorem modTow_runs (s : State) (n : Nat) (f : Tow → Tow) : (modTow s n f).runs = s.runs := rfl
@[simp] theorem modTow_tiles (s : State) (n : Nat) (f : Tow → Tow) : (modTow s n f).tiles = s.tiles := rfl
@[simp] theorem modTow_fabric (s : State) (n : Nat) (f : Tow → Tow) : (modTow s n f).fabric = s.fabric := rfl
@[simp] theorem modTow_quay (s : State) (n : Nat) (f : Tow → Tow) : (modTow s n f).quay = s.quay := rfl
@[simp] theorem modTow_units (s : State) (n : Nat) (f : Tow → Tow) : (modTow s n f).units = s.units := rfl
@[simp] theorem modTow_launch (s : State) (n : Nat) (f : Tow → Tow) : (modTow s n f).launch = s.launch := rfl
@[simp] theorem modTow_bar (s : State) (n : Nat) (f : Tow → Tow) : (modTow s n f).bar = s.bar := rfl
@[simp] theorem modTow_ready (s : State) (n : Nat) (f : Tow → Tow) : (modTow s n f).ready = s.ready := rfl
@[simp] theorem modTow_sync (s : State) (n : Nat) (f : Tow → Tow) : (modTow s n f).sync = s.sync := rfl
@[simp] theorem modTow_log (s : State) (n : Nat) (f : Tow → Tow) : (modTow s n f).log = s.log := rfl
@[simp] theorem modTow_dbg (s : State) (n : Nat) (f : Tow → Tow) : (modTow s n f).dbg = s.dbg := rfl
@[simp] theorem modTow_msix (s : State) (n : Nat) (f : Tow → Tow) : (modTow s n f).msix = s.msix := rfl
@[simp] theorem modTow_ptpNs (s : State) (n : Nat) (f : Tow → Tow) : (modTow s n f).ptpNs = s.ptpNs := rfl
@[simp] theorem modTow_ptpFrac (s : State) (n : Nat) (f : Tow → Tow) : (modTow s n f).ptpFrac = s.ptpFrac := rfl
@[simp] theorem modTow_duty (s : State) (n : Nat) (f : Tow → Tow) : (modTow s n f).duty = s.duty := rfl

/-! ## modRun -/

@[simp] theorem modRun_agenda (s : State) (r : Nat) (f : Run → Run) : (modRun s r f).agenda = s.agenda := rfl
@[simp] theorem modRun_cur (s : State) (r : Nat) (f : Run → Run) : (modRun s r f).cur = s.cur := rfl
@[simp] theorem modRun_curCore (s : State) (r : Nat) (f : Run → Run) : (modRun s r f).curCore = s.curCore := rfl
@[simp] theorem modRun_free (s : State) (r : Nat) (f : Run → Run) : (modRun s r f).free = s.free := rfl
@[simp] theorem modRun_deviceId (s : State) (r : Nat) (f : Run → Run) : (modRun s r f).deviceId = s.deviceId := rfl
@[simp] theorem modRun_clock (s : State) (r : Nat) (f : Run → Run) : (modRun s r f).clock = s.clock := rfl
@[simp] theorem modRun_groups (s : State) (r : Nat) (f : Run → Run) : (modRun s r f).groups = s.groups := rfl
@[simp] theorem modRun_teams (s : State) (r : Nat) (f : Run → Run) : (modRun s r f).teams = s.teams := rfl
@[simp] theorem modRun_grids (s : State) (r : Nat) (f : Run → Run) : (modRun s r f).grids = s.grids := rfl
@[simp] theorem modRun_codes (s : State) (r : Nat) (f : Run → Run) : (modRun s r f).codes = s.codes := rfl
@[simp] theorem modRun_mem (s : State) (r : Nat) (f : Run → Run) : (modRun s r f).mem = s.mem := rfl
@[simp] theorem modRun_full (s : State) (r : Nat) (f : Run → Run) : (modRun s r f).full = s.full := rfl
@[simp] theorem modRun_bad (s : State) (r : Nat) (f : Run → Run) : (modRun s r f).bad = s.bad := rfl
@[simp] theorem modRun_poundSize (s : State) (r : Nat) (f : Run → Run) : (modRun s r f).poundSize = s.poundSize := rfl
@[simp] theorem modRun_tags (s : State) (r : Nat) (f : Run → Run) : (modRun s r f).tags = s.tags := rfl
@[simp] theorem modRun_spilled (s : State) (r : Nat) (f : Run → Run) : (modRun s r f).spilled = s.spilled := rfl
@[simp] theorem modRun_latched (s : State) (r : Nat) (f : Run → Run) : (modRun s r f).latched = s.latched := rfl
@[simp] theorem modRun_seq (s : State) (r : Nat) (f : Run → Run) : (modRun s r f).seq = s.seq := rfl
@[simp] theorem modRun_pins (s : State) (r : Nat) (f : Run → Run) : (modRun s r f).pins = s.pins := rfl
@[simp] theorem modRun_held (s : State) (r : Nat) (f : Run → Run) : (modRun s r f).held = s.held := rfl
@[simp] theorem modRun_density (s : State) (r : Nat) (f : Run → Run) : (modRun s r f).density = s.density := rfl
@[simp] theorem modRun_ops (s : State) (r : Nat) (f : Run → Run) : (modRun s r f).ops = s.ops := rfl
@[simp] theorem modRun_tows (s : State) (r : Nat) (f : Run → Run) : (modRun s r f).tows = s.tows := rfl
@[simp] theorem modRun_tiles (s : State) (r : Nat) (f : Run → Run) : (modRun s r f).tiles = s.tiles := rfl
@[simp] theorem modRun_fabric (s : State) (r : Nat) (f : Run → Run) : (modRun s r f).fabric = s.fabric := rfl
@[simp] theorem modRun_quay (s : State) (r : Nat) (f : Run → Run) : (modRun s r f).quay = s.quay := rfl
@[simp] theorem modRun_units (s : State) (r : Nat) (f : Run → Run) : (modRun s r f).units = s.units := rfl
@[simp] theorem modRun_launch (s : State) (r : Nat) (f : Run → Run) : (modRun s r f).launch = s.launch := rfl
@[simp] theorem modRun_bar (s : State) (r : Nat) (f : Run → Run) : (modRun s r f).bar = s.bar := rfl
@[simp] theorem modRun_ready (s : State) (r : Nat) (f : Run → Run) : (modRun s r f).ready = s.ready := rfl
@[simp] theorem modRun_sync (s : State) (r : Nat) (f : Run → Run) : (modRun s r f).sync = s.sync := rfl
@[simp] theorem modRun_log (s : State) (r : Nat) (f : Run → Run) : (modRun s r f).log = s.log := rfl
@[simp] theorem modRun_dbg (s : State) (r : Nat) (f : Run → Run) : (modRun s r f).dbg = s.dbg := rfl
@[simp] theorem modRun_msix (s : State) (r : Nat) (f : Run → Run) : (modRun s r f).msix = s.msix := rfl
@[simp] theorem modRun_ptpNs (s : State) (r : Nat) (f : Run → Run) : (modRun s r f).ptpNs = s.ptpNs := rfl
@[simp] theorem modRun_ptpFrac (s : State) (r : Nat) (f : Run → Run) : (modRun s r f).ptpFrac = s.ptpFrac := rfl
@[simp] theorem modRun_duty (s : State) (r : Nat) (f : Run → Run) : (modRun s r f).duty = s.duty := rfl

/-! ## modBar -/

@[simp] theorem modBar_agenda (s : State) (f : Bar → Bar) : (modBar s f).agenda = s.agenda := rfl
@[simp] theorem modBar_cur (s : State) (f : Bar → Bar) : (modBar s f).cur = s.cur := rfl
@[simp] theorem modBar_curCore (s : State) (f : Bar → Bar) : (modBar s f).curCore = s.curCore := rfl
@[simp] theorem modBar_free (s : State) (f : Bar → Bar) : (modBar s f).free = s.free := rfl
@[simp] theorem modBar_deviceId (s : State) (f : Bar → Bar) : (modBar s f).deviceId = s.deviceId := rfl
@[simp] theorem modBar_clock (s : State) (f : Bar → Bar) : (modBar s f).clock = s.clock := rfl
@[simp] theorem modBar_groups (s : State) (f : Bar → Bar) : (modBar s f).groups = s.groups := rfl
@[simp] theorem modBar_teams (s : State) (f : Bar → Bar) : (modBar s f).teams = s.teams := rfl
@[simp] theorem modBar_grids (s : State) (f : Bar → Bar) : (modBar s f).grids = s.grids := rfl
@[simp] theorem modBar_codes (s : State) (f : Bar → Bar) : (modBar s f).codes = s.codes := rfl
@[simp] theorem modBar_mem (s : State) (f : Bar → Bar) : (modBar s f).mem = s.mem := rfl
@[simp] theorem modBar_full (s : State) (f : Bar → Bar) : (modBar s f).full = s.full := rfl
@[simp] theorem modBar_bad (s : State) (f : Bar → Bar) : (modBar s f).bad = s.bad := rfl
@[simp] theorem modBar_poundSize (s : State) (f : Bar → Bar) : (modBar s f).poundSize = s.poundSize := rfl
@[simp] theorem modBar_tags (s : State) (f : Bar → Bar) : (modBar s f).tags = s.tags := rfl
@[simp] theorem modBar_spilled (s : State) (f : Bar → Bar) : (modBar s f).spilled = s.spilled := rfl
@[simp] theorem modBar_latched (s : State) (f : Bar → Bar) : (modBar s f).latched = s.latched := rfl
@[simp] theorem modBar_seq (s : State) (f : Bar → Bar) : (modBar s f).seq = s.seq := rfl
@[simp] theorem modBar_pins (s : State) (f : Bar → Bar) : (modBar s f).pins = s.pins := rfl
@[simp] theorem modBar_held (s : State) (f : Bar → Bar) : (modBar s f).held = s.held := rfl
@[simp] theorem modBar_density (s : State) (f : Bar → Bar) : (modBar s f).density = s.density := rfl
@[simp] theorem modBar_ops (s : State) (f : Bar → Bar) : (modBar s f).ops = s.ops := rfl
@[simp] theorem modBar_tows (s : State) (f : Bar → Bar) : (modBar s f).tows = s.tows := rfl
@[simp] theorem modBar_runs (s : State) (f : Bar → Bar) : (modBar s f).runs = s.runs := rfl
@[simp] theorem modBar_tiles (s : State) (f : Bar → Bar) : (modBar s f).tiles = s.tiles := rfl
@[simp] theorem modBar_fabric (s : State) (f : Bar → Bar) : (modBar s f).fabric = s.fabric := rfl
@[simp] theorem modBar_quay (s : State) (f : Bar → Bar) : (modBar s f).quay = s.quay := rfl
@[simp] theorem modBar_units (s : State) (f : Bar → Bar) : (modBar s f).units = s.units := rfl
@[simp] theorem modBar_launch (s : State) (f : Bar → Bar) : (modBar s f).launch = s.launch := rfl
@[simp] theorem modBar_ready (s : State) (f : Bar → Bar) : (modBar s f).ready = s.ready := rfl
@[simp] theorem modBar_sync (s : State) (f : Bar → Bar) : (modBar s f).sync = s.sync := rfl
@[simp] theorem modBar_log (s : State) (f : Bar → Bar) : (modBar s f).log = s.log := rfl
@[simp] theorem modBar_dbg (s : State) (f : Bar → Bar) : (modBar s f).dbg = s.dbg := rfl
@[simp] theorem modBar_msix (s : State) (f : Bar → Bar) : (modBar s f).msix = s.msix := rfl
@[simp] theorem modBar_ptpNs (s : State) (f : Bar → Bar) : (modBar s f).ptpNs = s.ptpNs := rfl
@[simp] theorem modBar_ptpFrac (s : State) (f : Bar → Bar) : (modBar s f).ptpFrac = s.ptpFrac := rfl
@[simp] theorem modBar_duty (s : State) (f : Bar → Bar) : (modBar s f).duty = s.duty := rfl

/-! ## setBad -/

@[simp] theorem setBad_agenda (s : State) (a : Nat) (b : Bad) : (setBad s a b).agenda = s.agenda := rfl
@[simp] theorem setBad_cur (s : State) (a : Nat) (b : Bad) : (setBad s a b).cur = s.cur := rfl
@[simp] theorem setBad_curCore (s : State) (a : Nat) (b : Bad) : (setBad s a b).curCore = s.curCore := rfl
@[simp] theorem setBad_free (s : State) (a : Nat) (b : Bad) : (setBad s a b).free = s.free := rfl
@[simp] theorem setBad_deviceId (s : State) (a : Nat) (b : Bad) : (setBad s a b).deviceId = s.deviceId := rfl
@[simp] theorem setBad_clock (s : State) (a : Nat) (b : Bad) : (setBad s a b).clock = s.clock := rfl
@[simp] theorem setBad_groups (s : State) (a : Nat) (b : Bad) : (setBad s a b).groups = s.groups := rfl
@[simp] theorem setBad_teams (s : State) (a : Nat) (b : Bad) : (setBad s a b).teams = s.teams := rfl
@[simp] theorem setBad_grids (s : State) (a : Nat) (b : Bad) : (setBad s a b).grids = s.grids := rfl
@[simp] theorem setBad_codes (s : State) (a : Nat) (b : Bad) : (setBad s a b).codes = s.codes := rfl
@[simp] theorem setBad_mem (s : State) (a : Nat) (b : Bad) : (setBad s a b).mem = s.mem := rfl
@[simp] theorem setBad_full (s : State) (a : Nat) (b : Bad) : (setBad s a b).full = s.full := rfl
@[simp] theorem setBad_poundSize (s : State) (a : Nat) (b : Bad) : (setBad s a b).poundSize = s.poundSize := rfl
@[simp] theorem setBad_tags (s : State) (a : Nat) (b : Bad) : (setBad s a b).tags = s.tags := rfl
@[simp] theorem setBad_spilled (s : State) (a : Nat) (b : Bad) : (setBad s a b).spilled = s.spilled := rfl
@[simp] theorem setBad_latched (s : State) (a : Nat) (b : Bad) : (setBad s a b).latched = s.latched := rfl
@[simp] theorem setBad_seq (s : State) (a : Nat) (b : Bad) : (setBad s a b).seq = s.seq := rfl
@[simp] theorem setBad_pins (s : State) (a : Nat) (b : Bad) : (setBad s a b).pins = s.pins := rfl
@[simp] theorem setBad_held (s : State) (a : Nat) (b : Bad) : (setBad s a b).held = s.held := rfl
@[simp] theorem setBad_density (s : State) (a : Nat) (b : Bad) : (setBad s a b).density = s.density := rfl
@[simp] theorem setBad_ops (s : State) (a : Nat) (b : Bad) : (setBad s a b).ops = s.ops := rfl
@[simp] theorem setBad_tows (s : State) (a : Nat) (b : Bad) : (setBad s a b).tows = s.tows := rfl
@[simp] theorem setBad_runs (s : State) (a : Nat) (b : Bad) : (setBad s a b).runs = s.runs := rfl
@[simp] theorem setBad_tiles (s : State) (a : Nat) (b : Bad) : (setBad s a b).tiles = s.tiles := rfl
@[simp] theorem setBad_fabric (s : State) (a : Nat) (b : Bad) : (setBad s a b).fabric = s.fabric := rfl
@[simp] theorem setBad_quay (s : State) (a : Nat) (b : Bad) : (setBad s a b).quay = s.quay := rfl
@[simp] theorem setBad_units (s : State) (a : Nat) (b : Bad) : (setBad s a b).units = s.units := rfl
@[simp] theorem setBad_launch (s : State) (a : Nat) (b : Bad) : (setBad s a b).launch = s.launch := rfl
@[simp] theorem setBad_bar (s : State) (a : Nat) (b : Bad) : (setBad s a b).bar = s.bar := rfl
@[simp] theorem setBad_ready (s : State) (a : Nat) (b : Bad) : (setBad s a b).ready = s.ready := rfl
@[simp] theorem setBad_sync (s : State) (a : Nat) (b : Bad) : (setBad s a b).sync = s.sync := rfl
@[simp] theorem setBad_log (s : State) (a : Nat) (b : Bad) : (setBad s a b).log = s.log := rfl
@[simp] theorem setBad_dbg (s : State) (a : Nat) (b : Bad) : (setBad s a b).dbg = s.dbg := rfl
@[simp] theorem setBad_msix (s : State) (a : Nat) (b : Bad) : (setBad s a b).msix = s.msix := rfl
@[simp] theorem setBad_ptpNs (s : State) (a : Nat) (b : Bad) : (setBad s a b).ptpNs = s.ptpNs := rfl
@[simp] theorem setBad_ptpFrac (s : State) (a : Nat) (b : Bad) : (setBad s a b).ptpFrac = s.ptpFrac := rfl
@[simp] theorem setBad_duty (s : State) (a : Nat) (b : Bad) : (setBad s a b).duty = s.duty := rfl

/-! ## wr -/

@[simp] theorem wr_agenda (s : State) (a n v : Nat) : (wr s a n v).agenda = s.agenda := rfl
@[simp] theorem wr_cur (s : State) (a n v : Nat) : (wr s a n v).cur = s.cur := rfl
@[simp] theorem wr_curCore (s : State) (a n v : Nat) : (wr s a n v).curCore = s.curCore := rfl
@[simp] theorem wr_free (s : State) (a n v : Nat) : (wr s a n v).free = s.free := rfl
@[simp] theorem wr_deviceId (s : State) (a n v : Nat) : (wr s a n v).deviceId = s.deviceId := rfl
@[simp] theorem wr_clock (s : State) (a n v : Nat) : (wr s a n v).clock = s.clock := rfl
@[simp] theorem wr_groups (s : State) (a n v : Nat) : (wr s a n v).groups = s.groups := rfl
@[simp] theorem wr_teams (s : State) (a n v : Nat) : (wr s a n v).teams = s.teams := rfl
@[simp] theorem wr_grids (s : State) (a n v : Nat) : (wr s a n v).grids = s.grids := rfl
@[simp] theorem wr_codes (s : State) (a n v : Nat) : (wr s a n v).codes = s.codes := rfl
@[simp] theorem wr_full (s : State) (a n v : Nat) : (wr s a n v).full = s.full := rfl
@[simp] theorem wr_bad (s : State) (a n v : Nat) : (wr s a n v).bad = s.bad := rfl
@[simp] theorem wr_poundSize (s : State) (a n v : Nat) : (wr s a n v).poundSize = s.poundSize := rfl
@[simp] theorem wr_tags (s : State) (a n v : Nat) : (wr s a n v).tags = s.tags := rfl
@[simp] theorem wr_spilled (s : State) (a n v : Nat) : (wr s a n v).spilled = s.spilled := rfl
@[simp] theorem wr_latched (s : State) (a n v : Nat) : (wr s a n v).latched = s.latched := rfl
@[simp] theorem wr_seq (s : State) (a n v : Nat) : (wr s a n v).seq = s.seq := rfl
@[simp] theorem wr_pins (s : State) (a n v : Nat) : (wr s a n v).pins = s.pins := rfl
@[simp] theorem wr_held (s : State) (a n v : Nat) : (wr s a n v).held = s.held := rfl
@[simp] theorem wr_density (s : State) (a n v : Nat) : (wr s a n v).density = s.density := rfl
@[simp] theorem wr_ops (s : State) (a n v : Nat) : (wr s a n v).ops = s.ops := rfl
@[simp] theorem wr_tows (s : State) (a n v : Nat) : (wr s a n v).tows = s.tows := rfl
@[simp] theorem wr_runs (s : State) (a n v : Nat) : (wr s a n v).runs = s.runs := rfl
@[simp] theorem wr_tiles (s : State) (a n v : Nat) : (wr s a n v).tiles = s.tiles := rfl
@[simp] theorem wr_fabric (s : State) (a n v : Nat) : (wr s a n v).fabric = s.fabric := rfl
@[simp] theorem wr_quay (s : State) (a n v : Nat) : (wr s a n v).quay = s.quay := rfl
@[simp] theorem wr_units (s : State) (a n v : Nat) : (wr s a n v).units = s.units := rfl
@[simp] theorem wr_launch (s : State) (a n v : Nat) : (wr s a n v).launch = s.launch := rfl
@[simp] theorem wr_bar (s : State) (a n v : Nat) : (wr s a n v).bar = s.bar := rfl
@[simp] theorem wr_ready (s : State) (a n v : Nat) : (wr s a n v).ready = s.ready := rfl
@[simp] theorem wr_sync (s : State) (a n v : Nat) : (wr s a n v).sync = s.sync := rfl
@[simp] theorem wr_log (s : State) (a n v : Nat) : (wr s a n v).log = s.log := rfl
@[simp] theorem wr_dbg (s : State) (a n v : Nat) : (wr s a n v).dbg = s.dbg := rfl
@[simp] theorem wr_msix (s : State) (a n v : Nat) : (wr s a n v).msix = s.msix := rfl
@[simp] theorem wr_ptpNs (s : State) (a n v : Nat) : (wr s a n v).ptpNs = s.ptpNs := rfl
@[simp] theorem wr_ptpFrac (s : State) (a n v : Nat) : (wr s a n v).ptpFrac = s.ptpFrac := rfl
@[simp] theorem wr_duty (s : State) (a n v : Nat) : (wr s a n v).duty = s.duty := rfl

/-! ## wrBytes -/

@[simp] theorem wrBytes_agenda (s : State) (a : Nat) (bs : List Byte) : (wrBytes s a bs).agenda = s.agenda := rfl
@[simp] theorem wrBytes_cur (s : State) (a : Nat) (bs : List Byte) : (wrBytes s a bs).cur = s.cur := rfl
@[simp] theorem wrBytes_curCore (s : State) (a : Nat) (bs : List Byte) : (wrBytes s a bs).curCore = s.curCore := rfl
@[simp] theorem wrBytes_free (s : State) (a : Nat) (bs : List Byte) : (wrBytes s a bs).free = s.free := rfl
@[simp] theorem wrBytes_deviceId (s : State) (a : Nat) (bs : List Byte) : (wrBytes s a bs).deviceId = s.deviceId := rfl
@[simp] theorem wrBytes_clock (s : State) (a : Nat) (bs : List Byte) : (wrBytes s a bs).clock = s.clock := rfl
@[simp] theorem wrBytes_groups (s : State) (a : Nat) (bs : List Byte) : (wrBytes s a bs).groups = s.groups := rfl
@[simp] theorem wrBytes_teams (s : State) (a : Nat) (bs : List Byte) : (wrBytes s a bs).teams = s.teams := rfl
@[simp] theorem wrBytes_grids (s : State) (a : Nat) (bs : List Byte) : (wrBytes s a bs).grids = s.grids := rfl
@[simp] theorem wrBytes_codes (s : State) (a : Nat) (bs : List Byte) : (wrBytes s a bs).codes = s.codes := rfl
@[simp] theorem wrBytes_full (s : State) (a : Nat) (bs : List Byte) : (wrBytes s a bs).full = s.full := rfl
@[simp] theorem wrBytes_bad (s : State) (a : Nat) (bs : List Byte) : (wrBytes s a bs).bad = s.bad := rfl
@[simp] theorem wrBytes_poundSize (s : State) (a : Nat) (bs : List Byte) : (wrBytes s a bs).poundSize = s.poundSize := rfl
@[simp] theorem wrBytes_tags (s : State) (a : Nat) (bs : List Byte) : (wrBytes s a bs).tags = s.tags := rfl
@[simp] theorem wrBytes_spilled (s : State) (a : Nat) (bs : List Byte) : (wrBytes s a bs).spilled = s.spilled := rfl
@[simp] theorem wrBytes_latched (s : State) (a : Nat) (bs : List Byte) : (wrBytes s a bs).latched = s.latched := rfl
@[simp] theorem wrBytes_seq (s : State) (a : Nat) (bs : List Byte) : (wrBytes s a bs).seq = s.seq := rfl
@[simp] theorem wrBytes_pins (s : State) (a : Nat) (bs : List Byte) : (wrBytes s a bs).pins = s.pins := rfl
@[simp] theorem wrBytes_held (s : State) (a : Nat) (bs : List Byte) : (wrBytes s a bs).held = s.held := rfl
@[simp] theorem wrBytes_density (s : State) (a : Nat) (bs : List Byte) : (wrBytes s a bs).density = s.density := rfl
@[simp] theorem wrBytes_ops (s : State) (a : Nat) (bs : List Byte) : (wrBytes s a bs).ops = s.ops := rfl
@[simp] theorem wrBytes_tows (s : State) (a : Nat) (bs : List Byte) : (wrBytes s a bs).tows = s.tows := rfl
@[simp] theorem wrBytes_runs (s : State) (a : Nat) (bs : List Byte) : (wrBytes s a bs).runs = s.runs := rfl
@[simp] theorem wrBytes_tiles (s : State) (a : Nat) (bs : List Byte) : (wrBytes s a bs).tiles = s.tiles := rfl
@[simp] theorem wrBytes_fabric (s : State) (a : Nat) (bs : List Byte) : (wrBytes s a bs).fabric = s.fabric := rfl
@[simp] theorem wrBytes_quay (s : State) (a : Nat) (bs : List Byte) : (wrBytes s a bs).quay = s.quay := rfl
@[simp] theorem wrBytes_units (s : State) (a : Nat) (bs : List Byte) : (wrBytes s a bs).units = s.units := rfl
@[simp] theorem wrBytes_launch (s : State) (a : Nat) (bs : List Byte) : (wrBytes s a bs).launch = s.launch := rfl
@[simp] theorem wrBytes_bar (s : State) (a : Nat) (bs : List Byte) : (wrBytes s a bs).bar = s.bar := rfl
@[simp] theorem wrBytes_ready (s : State) (a : Nat) (bs : List Byte) : (wrBytes s a bs).ready = s.ready := rfl
@[simp] theorem wrBytes_sync (s : State) (a : Nat) (bs : List Byte) : (wrBytes s a bs).sync = s.sync := rfl
@[simp] theorem wrBytes_log (s : State) (a : Nat) (bs : List Byte) : (wrBytes s a bs).log = s.log := rfl
@[simp] theorem wrBytes_dbg (s : State) (a : Nat) (bs : List Byte) : (wrBytes s a bs).dbg = s.dbg := rfl
@[simp] theorem wrBytes_msix (s : State) (a : Nat) (bs : List Byte) : (wrBytes s a bs).msix = s.msix := rfl
@[simp] theorem wrBytes_ptpNs (s : State) (a : Nat) (bs : List Byte) : (wrBytes s a bs).ptpNs = s.ptpNs := rfl
@[simp] theorem wrBytes_ptpFrac (s : State) (a : Nat) (bs : List Byte) : (wrBytes s a bs).ptpFrac = s.ptpFrac := rfl
@[simp] theorem wrBytes_duty (s : State) (a : Nat) (bs : List Byte) : (wrBytes s a bs).duty = s.duty := rfl

/-! ## setAgenda -/

@[simp] theorem setAgenda_cur (s : State) (l : List Turn) : (setAgenda s l).cur = s.cur := rfl
@[simp] theorem setAgenda_curCore (s : State) (l : List Turn) : (setAgenda s l).curCore = s.curCore := rfl
@[simp] theorem setAgenda_free (s : State) (l : List Turn) : (setAgenda s l).free = s.free := rfl
@[simp] theorem setAgenda_deviceId (s : State) (l : List Turn) : (setAgenda s l).deviceId = s.deviceId := rfl
@[simp] theorem setAgenda_clock (s : State) (l : List Turn) : (setAgenda s l).clock = s.clock := rfl
@[simp] theorem setAgenda_groups (s : State) (l : List Turn) : (setAgenda s l).groups = s.groups := rfl
@[simp] theorem setAgenda_teams (s : State) (l : List Turn) : (setAgenda s l).teams = s.teams := rfl
@[simp] theorem setAgenda_grids (s : State) (l : List Turn) : (setAgenda s l).grids = s.grids := rfl
@[simp] theorem setAgenda_codes (s : State) (l : List Turn) : (setAgenda s l).codes = s.codes := rfl
@[simp] theorem setAgenda_mem (s : State) (l : List Turn) : (setAgenda s l).mem = s.mem := rfl
@[simp] theorem setAgenda_full (s : State) (l : List Turn) : (setAgenda s l).full = s.full := rfl
@[simp] theorem setAgenda_bad (s : State) (l : List Turn) : (setAgenda s l).bad = s.bad := rfl
@[simp] theorem setAgenda_poundSize (s : State) (l : List Turn) : (setAgenda s l).poundSize = s.poundSize := rfl
@[simp] theorem setAgenda_tags (s : State) (l : List Turn) : (setAgenda s l).tags = s.tags := rfl
@[simp] theorem setAgenda_spilled (s : State) (l : List Turn) : (setAgenda s l).spilled = s.spilled := rfl
@[simp] theorem setAgenda_latched (s : State) (l : List Turn) : (setAgenda s l).latched = s.latched := rfl
@[simp] theorem setAgenda_seq (s : State) (l : List Turn) : (setAgenda s l).seq = s.seq := rfl
@[simp] theorem setAgenda_pins (s : State) (l : List Turn) : (setAgenda s l).pins = s.pins := rfl
@[simp] theorem setAgenda_held (s : State) (l : List Turn) : (setAgenda s l).held = s.held := rfl
@[simp] theorem setAgenda_density (s : State) (l : List Turn) : (setAgenda s l).density = s.density := rfl
@[simp] theorem setAgenda_ops (s : State) (l : List Turn) : (setAgenda s l).ops = s.ops := rfl
@[simp] theorem setAgenda_tows (s : State) (l : List Turn) : (setAgenda s l).tows = s.tows := rfl
@[simp] theorem setAgenda_runs (s : State) (l : List Turn) : (setAgenda s l).runs = s.runs := rfl
@[simp] theorem setAgenda_tiles (s : State) (l : List Turn) : (setAgenda s l).tiles = s.tiles := rfl
@[simp] theorem setAgenda_fabric (s : State) (l : List Turn) : (setAgenda s l).fabric = s.fabric := rfl
@[simp] theorem setAgenda_quay (s : State) (l : List Turn) : (setAgenda s l).quay = s.quay := rfl
@[simp] theorem setAgenda_units (s : State) (l : List Turn) : (setAgenda s l).units = s.units := rfl
@[simp] theorem setAgenda_launch (s : State) (l : List Turn) : (setAgenda s l).launch = s.launch := rfl
@[simp] theorem setAgenda_bar (s : State) (l : List Turn) : (setAgenda s l).bar = s.bar := rfl
@[simp] theorem setAgenda_ready (s : State) (l : List Turn) : (setAgenda s l).ready = s.ready := rfl
@[simp] theorem setAgenda_sync (s : State) (l : List Turn) : (setAgenda s l).sync = s.sync := rfl
@[simp] theorem setAgenda_log (s : State) (l : List Turn) : (setAgenda s l).log = s.log := rfl
@[simp] theorem setAgenda_dbg (s : State) (l : List Turn) : (setAgenda s l).dbg = s.dbg := rfl
@[simp] theorem setAgenda_msix (s : State) (l : List Turn) : (setAgenda s l).msix = s.msix := rfl
@[simp] theorem setAgenda_ptpNs (s : State) (l : List Turn) : (setAgenda s l).ptpNs = s.ptpNs := rfl
@[simp] theorem setAgenda_ptpFrac (s : State) (l : List Turn) : (setAgenda s l).ptpFrac = s.ptpFrac := rfl
@[simp] theorem setAgenda_duty (s : State) (l : List Turn) : (setAgenda s l).duty = s.duty := rfl

/-! ## actAs -/

@[simp] theorem actAs_agenda (s : State) (g : Nat) : (actAs s g).agenda = s.agenda := rfl
@[simp] theorem actAs_curCore (s : State) (g : Nat) : (actAs s g).curCore = s.curCore := rfl
@[simp] theorem actAs_free (s : State) (g : Nat) : (actAs s g).free = s.free := rfl
@[simp] theorem actAs_deviceId (s : State) (g : Nat) : (actAs s g).deviceId = s.deviceId := rfl
@[simp] theorem actAs_clock (s : State) (g : Nat) : (actAs s g).clock = s.clock := rfl
@[simp] theorem actAs_groups (s : State) (g : Nat) : (actAs s g).groups = s.groups := rfl
@[simp] theorem actAs_teams (s : State) (g : Nat) : (actAs s g).teams = s.teams := rfl
@[simp] theorem actAs_grids (s : State) (g : Nat) : (actAs s g).grids = s.grids := rfl
@[simp] theorem actAs_codes (s : State) (g : Nat) : (actAs s g).codes = s.codes := rfl
@[simp] theorem actAs_mem (s : State) (g : Nat) : (actAs s g).mem = s.mem := rfl
@[simp] theorem actAs_full (s : State) (g : Nat) : (actAs s g).full = s.full := rfl
@[simp] theorem actAs_bad (s : State) (g : Nat) : (actAs s g).bad = s.bad := rfl
@[simp] theorem actAs_poundSize (s : State) (g : Nat) : (actAs s g).poundSize = s.poundSize := rfl
@[simp] theorem actAs_tags (s : State) (g : Nat) : (actAs s g).tags = s.tags := rfl
@[simp] theorem actAs_spilled (s : State) (g : Nat) : (actAs s g).spilled = s.spilled := rfl
@[simp] theorem actAs_latched (s : State) (g : Nat) : (actAs s g).latched = s.latched := rfl
@[simp] theorem actAs_seq (s : State) (g : Nat) : (actAs s g).seq = s.seq := rfl
@[simp] theorem actAs_pins (s : State) (g : Nat) : (actAs s g).pins = s.pins := rfl
@[simp] theorem actAs_held (s : State) (g : Nat) : (actAs s g).held = s.held := rfl
@[simp] theorem actAs_density (s : State) (g : Nat) : (actAs s g).density = s.density := rfl
@[simp] theorem actAs_ops (s : State) (g : Nat) : (actAs s g).ops = s.ops := rfl
@[simp] theorem actAs_tows (s : State) (g : Nat) : (actAs s g).tows = s.tows := rfl
@[simp] theorem actAs_runs (s : State) (g : Nat) : (actAs s g).runs = s.runs := rfl
@[simp] theorem actAs_tiles (s : State) (g : Nat) : (actAs s g).tiles = s.tiles := rfl
@[simp] theorem actAs_fabric (s : State) (g : Nat) : (actAs s g).fabric = s.fabric := rfl
@[simp] theorem actAs_quay (s : State) (g : Nat) : (actAs s g).quay = s.quay := rfl
@[simp] theorem actAs_units (s : State) (g : Nat) : (actAs s g).units = s.units := rfl
@[simp] theorem actAs_launch (s : State) (g : Nat) : (actAs s g).launch = s.launch := rfl
@[simp] theorem actAs_bar (s : State) (g : Nat) : (actAs s g).bar = s.bar := rfl
@[simp] theorem actAs_ready (s : State) (g : Nat) : (actAs s g).ready = s.ready := rfl
@[simp] theorem actAs_sync (s : State) (g : Nat) : (actAs s g).sync = s.sync := rfl
@[simp] theorem actAs_log (s : State) (g : Nat) : (actAs s g).log = s.log := rfl
@[simp] theorem actAs_dbg (s : State) (g : Nat) : (actAs s g).dbg = s.dbg := rfl
@[simp] theorem actAs_msix (s : State) (g : Nat) : (actAs s g).msix = s.msix := rfl
@[simp] theorem actAs_ptpNs (s : State) (g : Nat) : (actAs s g).ptpNs = s.ptpNs := rfl
@[simp] theorem actAs_ptpFrac (s : State) (g : Nat) : (actAs s g).ptpFrac = s.ptpFrac := rfl
@[simp] theorem actAs_duty (s : State) (g : Nat) : (actAs s g).duty = s.duty := rfl

/-! ## actAsCore -/

@[simp] theorem actAsCore_agenda (s : State) (c : Nat) : (actAsCore s c).agenda = s.agenda := rfl
@[simp] theorem actAsCore_cur (s : State) (c : Nat) : (actAsCore s c).cur = s.cur := rfl
@[simp] theorem actAsCore_free (s : State) (c : Nat) : (actAsCore s c).free = s.free := rfl
@[simp] theorem actAsCore_deviceId (s : State) (c : Nat) : (actAsCore s c).deviceId = s.deviceId := rfl
@[simp] theorem actAsCore_clock (s : State) (c : Nat) : (actAsCore s c).clock = s.clock := rfl
@[simp] theorem actAsCore_groups (s : State) (c : Nat) : (actAsCore s c).groups = s.groups := rfl
@[simp] theorem actAsCore_teams (s : State) (c : Nat) : (actAsCore s c).teams = s.teams := rfl
@[simp] theorem actAsCore_grids (s : State) (c : Nat) : (actAsCore s c).grids = s.grids := rfl
@[simp] theorem actAsCore_codes (s : State) (c : Nat) : (actAsCore s c).codes = s.codes := rfl
@[simp] theorem actAsCore_mem (s : State) (c : Nat) : (actAsCore s c).mem = s.mem := rfl
@[simp] theorem actAsCore_full (s : State) (c : Nat) : (actAsCore s c).full = s.full := rfl
@[simp] theorem actAsCore_bad (s : State) (c : Nat) : (actAsCore s c).bad = s.bad := rfl
@[simp] theorem actAsCore_poundSize (s : State) (c : Nat) : (actAsCore s c).poundSize = s.poundSize := rfl
@[simp] theorem actAsCore_tags (s : State) (c : Nat) : (actAsCore s c).tags = s.tags := rfl
@[simp] theorem actAsCore_spilled (s : State) (c : Nat) : (actAsCore s c).spilled = s.spilled := rfl
@[simp] theorem actAsCore_latched (s : State) (c : Nat) : (actAsCore s c).latched = s.latched := rfl
@[simp] theorem actAsCore_seq (s : State) (c : Nat) : (actAsCore s c).seq = s.seq := rfl
@[simp] theorem actAsCore_pins (s : State) (c : Nat) : (actAsCore s c).pins = s.pins := rfl
@[simp] theorem actAsCore_held (s : State) (c : Nat) : (actAsCore s c).held = s.held := rfl
@[simp] theorem actAsCore_density (s : State) (c : Nat) : (actAsCore s c).density = s.density := rfl
@[simp] theorem actAsCore_ops (s : State) (c : Nat) : (actAsCore s c).ops = s.ops := rfl
@[simp] theorem actAsCore_tows (s : State) (c : Nat) : (actAsCore s c).tows = s.tows := rfl
@[simp] theorem actAsCore_runs (s : State) (c : Nat) : (actAsCore s c).runs = s.runs := rfl
@[simp] theorem actAsCore_tiles (s : State) (c : Nat) : (actAsCore s c).tiles = s.tiles := rfl
@[simp] theorem actAsCore_fabric (s : State) (c : Nat) : (actAsCore s c).fabric = s.fabric := rfl
@[simp] theorem actAsCore_quay (s : State) (c : Nat) : (actAsCore s c).quay = s.quay := rfl
@[simp] theorem actAsCore_units (s : State) (c : Nat) : (actAsCore s c).units = s.units := rfl
@[simp] theorem actAsCore_launch (s : State) (c : Nat) : (actAsCore s c).launch = s.launch := rfl
@[simp] theorem actAsCore_bar (s : State) (c : Nat) : (actAsCore s c).bar = s.bar := rfl
@[simp] theorem actAsCore_ready (s : State) (c : Nat) : (actAsCore s c).ready = s.ready := rfl
@[simp] theorem actAsCore_sync (s : State) (c : Nat) : (actAsCore s c).sync = s.sync := rfl
@[simp] theorem actAsCore_log (s : State) (c : Nat) : (actAsCore s c).log = s.log := rfl
@[simp] theorem actAsCore_dbg (s : State) (c : Nat) : (actAsCore s c).dbg = s.dbg := rfl
@[simp] theorem actAsCore_msix (s : State) (c : Nat) : (actAsCore s c).msix = s.msix := rfl
@[simp] theorem actAsCore_ptpNs (s : State) (c : Nat) : (actAsCore s c).ptpNs = s.ptpNs := rfl
@[simp] theorem actAsCore_ptpFrac (s : State) (c : Nat) : (actAsCore s c).ptpFrac = s.ptpFrac := rfl
@[simp] theorem actAsCore_duty (s : State) (c : Nat) : (actAsCore s c).duty = s.duty := rfl

/-! ## Records after an update -/

theorem grp_setGrp_same (s : State) (g : Nat) (x : Group) (h : g < s.groups.length) : grp (setGrp s g x) g = x := by
  simp [grp, setGrp, List.getD, h]
theorem grp_setGrp_other (s : State) (g h : Nat) (x : Group) (n : h ≠ g) : grp (setGrp s g x) h = grp s h := by
  simp [grp, setGrp, List.getD, List.getElem?_set_ne (Ne.symm n)]
theorem grp_modGrp_same (s : State) (g : Nat) (f : Group → Group) (h : g < s.groups.length) : grp (modGrp s g f) g = f (grp s g) :=
  grp_setGrp_same s g _ h
theorem grp_modGrp_other (s : State) (g h : Nat) (f : Group → Group) (n : h ≠ g) : grp (modGrp s g f) h = grp s h :=
  grp_setGrp_other s g h _ n
theorem me_modMe (s : State) (f : Group → Group) (h : s.cur < s.groups.length) : me (modMe s f) = f (me s) :=
  grp_modGrp_same s s.cur f h
theorem grp_modMe_other (s : State) (h : Nat) (f : Group → Group) (n : h ≠ s.cur) : grp (modMe s f) h = grp s h :=
  grp_modGrp_other s s.cur h f n
@[simp] theorem setGrp_groups_length (s : State) (g : Nat) (x : Group) : (setGrp s g x).groups.length = s.groups.length := by
  simp [setGrp]
@[simp] theorem modGrp_groups_length (s : State) (g : Nat) (f : Group → Group) : (modGrp s g f).groups.length = s.groups.length := by
  simp [modGrp]
@[simp] theorem modMe_groups_length (s : State) (f : Group → Group) : (modMe s f).groups.length = s.groups.length := by
  simp [modMe]
theorem team_modTeam_same (s : State) (t : Nat) (f : Team → Team) (h : t < s.teams.length) : team (modTeam s t f) t = f (team s t) := by
  simp [team, modTeam, List.getD, h]
theorem team_modTeam_other (s : State) (t u : Nat) (f : Team → Team) (n : u ≠ t) : team (modTeam s t f) u = team s u := by
  simp [team, modTeam, List.getD, List.getElem?_set_ne (Ne.symm n)]
theorem grid_modGrid_same (s : State) (i : Nat) (f : Grid → Grid) (h : i < s.grids.length) : grid (modGrid s i f) i = f (grid s i) := by
  simp [grid, modGrid, List.getD, h]
theorem grid_modGrid_other (s : State) (i j : Nat) (f : Grid → Grid) (n : j ≠ i) : grid (modGrid s i f) j = grid s j := by
  simp [grid, modGrid, List.getD, List.getElem?_set_ne (Ne.symm n)]
@[simp] theorem team_of_teams_eq (s t : State) (h : t.teams = s.teams) (n : Nat) : team t n = team s n := by
  simp [team, h]

/-! ## Registers after a write -/

@[simp] theorem sreg_setSreg_same (n : Nat) (v : Word) (x : Group) : sreg (setSreg n v x) n = v := mapGet_mapSet_same 0 n v x.sregs
theorem sreg_setSreg_other (n k : Nat) (v : Word) (x : Group) (h : k ≠ n) : sreg (setSreg n v x) k = sreg x k :=
  mapGet_mapSet_other 0 n k v x.sregs h
@[simp] theorem vlane_setVlane_same (n l : Nat) (v : Word) (x : Group) : vlane (setVlane n l v x) n l = v :=
  mapGet_mapSet_same 0 (64 * n + l) v _
/-- Writing a lane keeps every lane of another register, and the other lanes of a register that is not backed. -/
theorem vlane_setVlane_other (n l m k : Nat) (v : Word) (x : Group) (hl : l < 64) (hk : k < 64)
    (h : m ≠ n ∨ k ≠ l ∧ backed x n = false) : vlane (setVlane n l v x) m k = vlane x m k := by
  have hi : 64 * m + k ≠ 64 * n + l := by omega
  unfold vlane setVlane
  rw [mapGet_mapSet_other 0 (64 * n + l) (64 * m + k) v _ hi]
  rcases h with h | h
  · split
    · exact mapGet_mapClear_out _ _ _ _ _ (by omega)
    · rfl
  · simp [h.2]
theorem regIn_or (m k : BitVec 256) (n : Nat) : regIn (m ||| k) n = (regIn m n || regIn k n) := by
  unfold regIn
  exact BitVec.getLsbD_or
/-- A register that a lane has been written of is not backed. -/
theorem backed_setVlane_self (n l : Nat) (v : Word) (x : Group) : backed (setVlane n l v x) n = false := by
  unfold backed setVlane
  simp only [regIn_or]
  by_cases h : n < 256
  · have hb : regIn (BitVec.ofNat 256 (2 ^ n)) n = true := by
      unfold regIn
      rw [BitVec.getLsbD_ofNat, Nat.testBit_two_pow_self, decide_eq_true h, Bool.and_true]
    simp only [hb, Bool.or_true, Bool.not_true, Bool.and_false]
  · have hx : regIn x.written n = false := BitVec.getLsbD_of_ge _ _ (Nat.le_of_not_lt h)
    have hb : regIn (BitVec.ofNat 256 (2 ^ n)) n = false := BitVec.getLsbD_of_ge _ _ (Nat.le_of_not_lt h)
    simp only [hx, hb, Bool.or_false, Bool.false_and]
/-- Writing a lane leaves no register backed that was not. -/
theorem backed_setVlane (n l m : Nat) (v : Word) (x : Group) (h : backed x m = false) : backed (setVlane n l v x) m = false := by
  unfold backed setVlane at *
  simp only [regIn_or]
  cases hw : regIn x.written m <;> cases hm : regIn x.mapped m <;> simp_all
theorem append_halves (v : BitVec 64) : (v.extractLsb' 32 32 ++ v.extractLsb' 0 32 : BitVec (32 + 32)) = v := by
  apply BitVec.eq_of_getLsbD_eq
  intro i hi
  rw [BitVec.getLsbD_append]
  by_cases hl : i < 32
  · simp [hl]
  · simp only [hl, decide_false, BitVec.getLsbD_extractLsb']
    rw [show 32 + (i - 32) = i by omega]
    simp [show i - 32 < 32 by omega]
theorem spair_setSpair_same (n : Nat) (v : DWord) (x : Group) : spair (setSpair n v x) n = v := by
  have h : sreg (setSpair n v x) n = v.extractLsb' 0 32 := by
    unfold setSpair
    rw [sreg_setSreg_other _ _ _ _ (by omega), sreg_setSreg_same]
  have h1 : sreg (setSpair n v x) (n + 1) = v.extractLsb' 32 32 := by
    unfold setSpair
    rw [sreg_setSreg_same]
  unfold spair
  rw [h, h1]
  exact append_halves v
theorem sreg_setSpair_other (n k : Nat) (v : DWord) (x : Group) (h : k ≠ n) (h1 : k ≠ n + 1) : sreg (setSpair n v x) k = sreg x k := by
  unfold setSpair
  rw [sreg_setSreg_other _ _ _ _ h1, sreg_setSreg_other _ _ _ _ h]

end Sys2Proof.Machine
end

