-- ==== Sys2Proof/Laws/Issue.lean ====
section
/-!
SUPPORT. What every issue does besides the instruction's own effect: the accounts of `noteIssue` and the move of the pc, each in one
statement of all it can change.
-/
namespace Sys2Proof.Machine

/-! ## The body runs -/

theorem issueOn_go (path : Option Nat) (quay : Bool) (sg : Sig) (body : State → Res) (s : State)
    (h : issuesWith path quay sg s = true) : issueOn path quay sg body s = body (noteIssue s s.cur sg) := by
  simp only [issuesWith, Bool.and_eq_true, decide_eq_true_eq, Bool.or_eq_true, Bool.not_eq_true'] at h
  obtain ⟨⟨⟨h1, h2⟩, h3⟩, h4⟩ := h
  have hq : (isQuayCore (coreOf s s.cur) && !quay) = false := by
    rcases h2 with h2 | h2 <;> simp [h2]
  have hm : makeRoom s.cur (regSet (sigVecs sg)) (freshDests s s.cur sg) 32768 s = (s, true) := by
    unfold makeRoom searchRoom
    simp [h4]
  unfold issueOn issueWith
  simp [h1, hq, h3, hm]

theorem issue_go (sg : Sig) (body : State → Res) (s : State) (h : issuesWith none true sg s = true) :
    issue sg body s = body (noteIssue s s.cur sg) := issueOn_go none true sg body s h

theorem issues_sig {path : Option Nat} {quay : Bool} {i : Instr} {s : State} {sg : Sig} (e : sigOf (widthOf s s.cur) i = some sg)
    (h : issues path quay i s = true) : issuesWith path quay sg s = true := by
  simpa [issues, e] using h

/-- A group that issues exists. -/
theorem issuesWith_cur {path : Option Nat} {quay : Bool} {sg : Sig} {s : State} (h : issuesWith path quay sg s = true) :
    s.cur < s.groups.length := by
  by_cases hc : s.cur < s.groups.length
  · exact hc
  · exfalso
    have : grp s s.cur = {} := by simp [grp, List.getD, List.getElem?_eq_none (Nat.le_of_not_lt hc)]
    simp [issuesWith, canIssue, this] at h

/-! ## Whole-module frames -/

theorem onlyGroups_refl (s : State) : onlyGroups s s := rfl
theorem onlyGroups_trans {s t u : State} (h1 : onlyGroups s t) (h2 : onlyGroups t u) : onlyGroups s u := by
  unfold onlyGroups at *
  rw [h2, h1]
theorem onlyGroups_setGrp (s : State) (g : Nat) (x : Group) : onlyGroups s (setGrp s g x) := rfl
theorem onlyGroups_modGrp (s : State) (g : Nat) (f : Group → Group) : onlyGroups s (modGrp s g f) := rfl
theorem onlyGroups_cur {s t : State} (h : onlyGroups s t) : t.cur = s.cur := by rw [h]
theorem onlyGroups_mem {s t : State} (h : onlyGroups s t) : t.mem = s.mem := by rw [h]
theorem sameMemory_of_onlyGroups {s t : State} (h : onlyGroups s t) : sameMemory s t := fun a => by rw [onlyGroups_mem h]

/-! ## Moving the pc -/

theorem registers_setLoopReg (n : Nat) (v : LoopReg) (x : Group) : registers (setLoopReg n v x) = registers x := by
  unfold setLoopReg
  split <;> rfl

theorem registers_stepped (x : Group) : registers (stepped x) = registers x := rfl
theorem registers_withPc (x : Group) (p : DWord) : registers { x with pc := p } = registers x := rfl

theorem registers_loopEnd (h : Nat) (n : Nat) : ∀ x, registers (loopEnd h n x).1 = registers x := by
  induction n with
  | zero => intro x; rfl
  | succ n ih =>
    intro x
    unfold loopEnd
    dsimp only
    split
    · rfl
    · split
      · exact registers_setLoopReg _ _ _
      · rw [ih]
        exact registers_setLoopReg _ _ _

/-- A group that does not exist reads as the empty one. -/
theorem grp_out {s : State} {g : Nat} (h : ¬ g < s.groups.length) : grp s g = {} := by
  simp [grp, List.getD, List.getElem?_eq_none (Nat.le_of_not_lt h)]

theorem registers_setGrp (s : State) (g : Nat) (x : Group) (h : registers x = registers (grp s g)) (k : Nat) :
    registers (grp (setGrp s g x) k) = registers (grp s k) := by
  by_cases hk : k = g
  · subst hk
    by_cases hl : k < s.groups.length
    · rw [grp_setGrp_same _ _ _ hl, h]
    · rw [grp_out (s := setGrp s k x) (by simpa using hl), grp_out hl]
  · rw [grp_setGrp_other _ _ _ _ hk]

/-- A change that keeps the registers of a group keeps those of every group. -/
theorem registers_modGrp (s : State) (g : Nat) (f : Group → Group) (h : ∀ x, registers (f x) = registers x) (k : Nat) :
    registers (grp (modGrp s g f) k) = registers (grp s k) := registers_setGrp s g _ (h _) k

theorem onlyGroups_enterActive (s : State) (g : Nat) : onlyGroups s (enterActive s g) := rfl
theorem registers_enterActive (s : State) (g k : Nat) : registers (grp (enterActive s g) k) = registers (grp s k) := by
  unfold enterActive
  rw [registers_modGrp]
  intro x; rfl

theorem onlyGroups_yieldExchange (s : State) (g : Nat) : onlyGroups s (yieldExchange s g) := by
  unfold yieldExchange
  split <;> rfl
theorem registers_yieldExchange (s : State) (g k : Nat) : registers (grp (yieldExchange s g) k) = registers (grp s k) := by
  unfold yieldExchange
  split
  · rfl
  · rw [registers_enterActive, registers_modGrp]
    intro x; rfl

theorem onlyGroups_leaveClause (s : State) (g : Nat) (x : Group) : onlyGroups s (leaveClause s g x) := by
  unfold leaveClause
  dsimp only
  split
  · rfl
  · exact onlyGroups_trans (onlyGroups_modGrp _ _ _) (onlyGroups_yieldExchange _ _)
  · split
    · exact onlyGroups_trans (onlyGroups_modGrp _ _ _) (onlyGroups_yieldExchange _ _)
    · rfl
theorem registers_leaveClause (s : State) (g : Nat) (x : Group) (k : Nat) :
    registers (grp (leaveClause s g x) k) = registers (grp s k) := by
  unfold leaveClause
  dsimp only
  split
  · rw [registers_modGrp, registers_modGrp] <;> (intro x; rfl)
  · rw [registers_yieldExchange, registers_modGrp]
    intro x; rfl
  · split
    · rw [registers_yieldExchange, registers_modGrp]
      intro x; rfl
    · rw [registers_modGrp]
      intro x; rfl

theorem onlyGroups_endClause (s : State) (g : Nat) : onlyGroups s (endClause s g) :=
  onlyGroups_trans (onlyGroups_setGrp _ _ _) (onlyGroups_leaveClause _ _ _)
theorem registers_endClause (s : State) (g k : Nat) : registers (grp (endClause s g) k) = registers (grp s k) := by
  unfold endClause
  dsimp only
  rw [registers_leaveClause, registers_setGrp]
  exact registers_loopEnd (pcHeader (grp s g).pc) (liveLoops (grp s g)) (grp s g)

/-- The move of the pc changes nothing outside the groups. -/
theorem onlyGroups_advance (s : State) (g : Nat) : onlyGroups s (advance s g) := by
  unfold advance
  dsimp only
  split
  · rfl
  · exact onlyGroups_trans (onlyGroups_setGrp _ _ _) (onlyGroups_endClause _ _)
/-- The move of the pc changes no register of any group. -/
theorem registers_advance (s : State) (g k : Nat) : registers (grp (advance s g) k) = registers (grp s k) := by
  unfold advance
  dsimp only
  split
  · rw [registers_setGrp]
    exact (registers_withPc _ _).trans (registers_stepped _)
  · rw [registers_endClause, registers_setGrp]
    exact registers_stepped _
/-- Inside a clause the pc moves to the next instruction and the loop registers stay. -/
theorem advance_inside (s : State) (g : Nat) (h : pcIndex (grp s g).pc + 1 < (clauseOf (grp s g)).count) :
    advance s g = setGrp s g { stepped (grp s g) with pc := mkPc (pcHeader (grp s g).pc) (pcIndex (grp s g).pc + 1) } := by
  unfold advance
  exact if_pos h

theorem yieldExchange_length (s : State) (g : Nat) : (yieldExchange s g).groups.length = s.groups.length := by
  unfold yieldExchange
  split
  · rfl
  · simp [enterActive]
theorem leaveClause_length (s : State) (g : Nat) (x : Group) : (leaveClause s g x).groups.length = s.groups.length := by
  unfold leaveClause
  dsimp only
  split
  · simp
  · simp [yieldExchange_length]
  · split
    · simp [yieldExchange_length]
    · simp
theorem endClause_length (s : State) (g : Nat) : (endClause s g).groups.length = s.groups.length := by
  unfold endClause
  dsimp only
  rw [leaveClause_length]
  simp
/-- The move of the pc makes no group and removes none. -/
theorem advance_length (s : State) (g : Nat) : (advance s g).groups.length = s.groups.length := by
  unfold advance
  dsimp only
  split
  · simp
  · rw [endClause_length]
    simp

/-! ## The accounts of an issue -/

theorem onlyGroups_noteIssue (s : State) (g : Nat) (sg : Sig) : onlyGroups s (noteIssue s g sg) := rfl
@[simp] theorem noteIssue_cur (s : State) (g : Nat) (sg : Sig) : (noteIssue s g sg).cur = s.cur := rfl
@[simp] theorem noteIssue_groups_length (s : State) (g : Nat) (sg : Sig) : (noteIssue s g sg).groups.length = s.groups.length := by
  simp [noteIssue, modGrp, setGrp]
theorem noteIssue_grp_other (s : State) (g h : Nat) (sg : Sig) (n : h ≠ g) : grp (noteIssue s g sg) h = grp s h := by
  unfold noteIssue
  rw [grp_modGrp_other _ _ _ _ n]
  rfl

/-- What a group is from its launch on: its team, its numbers, its budget and its backing region. -/
def identity (x : Group) : Nat × Nat × Nat × Nat × Nat × Nat :=
  (x.team, x.gid, x.role, x.launched, x.budget, x.backing)

/-- Two states agree on every group's registers, pc, clause and loop registers, and on everything outside the groups. -/
structure SameView (s t : State) : Prop where
  only : onlyGroups s t
  length : t.groups.length = s.groups.length
  regs : ∀ h, registers (grp t h) = registers (grp s h)
  pc : ∀ h, (grp t h).pc = (grp s h).pc
  clause : ∀ h, (grp t h).clause = (grp s h).clause
  lc0 : ∀ h, (grp t h).lc0 = (grp s h).lc0
  lc1 : ∀ h, (grp t h).lc1 = (grp s h).lc1
  lc2 : ∀ h, (grp t h).lc2 = (grp s h).lc2
  lc3 : ∀ h, (grp t h).lc3 = (grp s h).lc3
  ids : ∀ h, identity (grp t h) = identity (grp s h)
  pairing : ∀ h, (grp t h).pairing = (grp s h).pairing

theorem grp_withSeq (s : State) (q g : Nat) : grp { s with seq := q } g = grp s g := rfl

theorem noteIssue_grp (s : State) (g : Nat) (sg : Sig) (hg : g < s.groups.length) :
    grp (noteIssue s g sg) g = countIssue (s.seq + 1) (popCount (activeMask s g).toNat 64) sg (grp s g) := by
  unfold noteIssue
  dsimp only
  rw [grp_modGrp_same _ _ _ (by exact hg), grp_withSeq]

/-- The accounts of an issue keep what claims compare. -/
theorem noteIssue_view (s : State) (g : Nat) (sg : Sig) (hg : g < s.groups.length) : SameView s (noteIssue s g sg) := by
  have e := noteIssue_grp s g sg hg
  have o (k : Nat) (hk : k ≠ g) : grp (noteIssue s g sg) k = grp s k := noteIssue_grp_other s g k sg hk
  refine ⟨rfl, noteIssue_groups_length s g sg, ?_, ?_, ?_, ?_, ?_, ?_, ?_, ?_, ?_⟩ <;> intro k <;> by_cases hk : k = g
  all_goals first
    | rw [o k hk]
    | (subst hk; rw [e]; rfl)

/-- The accounts of an issue map no register and unmap none. -/
theorem noteIssue_backed (s : State) (g : Nat) (sg : Sig) (hg : g < s.groups.length) (n : Nat) :
    backed (grp (noteIssue s g sg) g) n = backed (grp s g) n := by
  rw [noteIssue_grp s g sg hg]
  rfl

/-- After an update of the acting group that leaves pc, clause and loop registers alone, the pc moves on and nothing else changes. -/
theorem advance_update (s t : State) (f : Group → Group) (v : SameView s t) (hc : s.cur < s.groups.length)
    (hf : ∀ x, (f x).pc = x.pc ∧ (f x).clause = x.clause ∧ (f x).lc0 = x.lc0 ∧ (f x).lc1 = x.lc1 ∧ (f x).lc2 = x.lc2 ∧
      (f x).lc3 = x.lc3) :
    groupOnly s (advance (modMe t f) t.cur) ∧
      registers (grp (advance (modMe t f) t.cur) s.cur) = registers (f (grp t s.cur)) := by
  have ec : t.cur = s.cur := onlyGroups_cur v.only
  have o : onlyGroups s (advance (modMe t f) t.cur) :=
    onlyGroups_trans v.only (onlyGroups_trans (onlyGroups_modGrp _ _ _) (onlyGroups_advance _ _))
  have hm : me (modMe t f) = f (me t) := me_modMe t f (by rw [ec, v.length]; exact hc)
  refine ⟨⟨o, sameMemory_of_onlyGroups o, ?_, ?_⟩, ?_⟩
  · intro h hh
    rw [registers_advance, grp_modMe_other _ _ _ (by rw [ec]; exact hh), v.regs]
  · intro hi
    have hx := hf (grp t s.cur)
    have hg : grp (modMe t f) t.cur = f (grp t s.cur) := by
      rw [show s.cur = t.cur from ec.symm]
      exact hm
    have hp : (grp (modMe t f) t.cur).pc = (me s).pc := by rw [hg, hx.1, v.pc]; rfl
    have hcl : (clauseOf (grp (modMe t f) t.cur)).count = (clauseOf (me s)).count := by
      unfold clauseOf
      rw [hg, hx.2.1, v.clause]
      rfl
    rw [advance_inside _ _ (by rw [hp, hcl]; exact hi)]
    have hl : t.cur < (modMe t f).groups.length := by simpa [ec, v.length] using hc
    rw [show s.cur = t.cur from ec.symm, grp_setGrp_same _ _ _ hl]
    refine ⟨by simp only [hp], ?_, ?_, ?_, ?_⟩
    · show (stepped (grp (modMe t f) t.cur)).lc0 = _
      rw [hg]; exact hx.2.2.1.trans (v.lc0 _)
    · show (stepped (grp (modMe t f) t.cur)).lc1 = _
      rw [hg]; exact hx.2.2.2.1.trans (v.lc1 _)
    · show (stepped (grp (modMe t f) t.cur)).lc2 = _
      rw [hg]; exact hx.2.2.2.2.1.trans (v.lc2 _)
    · show (stepped (grp (modMe t f) t.cur)).lc3 = _
      rw [hg]; exact hx.2.2.2.2.2.trans (v.lc3 _)
  · rw [registers_advance]
    have := hm
    unfold me at this
    simp only [modMe_cur] at this
    rw [show s.cur = t.cur from ec.symm, this]

end Sys2Proof.Machine
end

