-- ==== Sys2Proof/Laws/Uniform.lean ====
section
/-!
SUPPORT. What the shapes of uniform instructions do once they issue: the registers they write, and the frame.
-/
namespace Sys2Proof.Machine

/-! ## Operands of a state that looks the same -/

theorem SameView.refl (s : State) : SameView s s := ⟨rfl, rfl, fun _ => rfl, fun _ => rfl, fun _ => rfl, fun _ => rfl, fun _ => rfl, fun _ => rfl, fun _ => rfl,
  fun _ => rfl, fun _ => rfl⟩
theorem SameView.cur {s t : State} (v : SameView s t) : t.cur = s.cur := onlyGroups_cur v.only
theorem sreg_view {s t : State} (v : SameView s t) (h n : Nat) : sreg (grp t h) n = sreg (grp s h) n :=
  congrArg (fun r : Registers => mapGet 0 r.sregs n) (v.regs h)
theorem spair_view {s t : State} (v : SameView s t) (h n : Nat) : spair (grp t h) n = spair (grp s h) n := by
  unfold spair
  rw [sreg_view v, sreg_view v]
theorem vlane_view {s t : State} (v : SameView s t) (h n l : Nat) : vlane (grp t h) n l = vlane (grp s h) n l :=
  congrArg (fun r : Registers => mapGet 0 r.vregs (64 * n + l)) (v.regs h)
theorem uniWord_view {s t : State} (v : SameView s t) (h : Nat) (k : BitVec 2) (n : Byte) :
    uniWord (grp t h) k n = uniWord (grp s h) k n := by
  unfold uniWord
  rw [sreg_view v]
theorem uniPair_view {s t : State} (v : SameView s t) (h : Nat) (k : BitVec 2) (n : Byte) :
    uniPair (grp t h) k n = uniPair (grp s h) k n := by
  unfold uniPair
  rw [spair_view v]
theorem exec_view {s t : State} (v : SameView s t) (h : Nat) : (grp t h).exec = (grp s h).exec := congrArg Registers.exec (v.regs h)

theorem live_view {s t : State} (v : SameView s t) (h : Nat) : (grp t h).live = (grp s h).live := congrArg Registers.live (v.regs h)
theorem team_view {s t : State} (v : SameView s t) (h : Nat) : teamOf t h = teamOf s h := by
  have e : (grp t h).team = (grp s h).team := congrArg Prod.fst (v.ids h)
  have o := v.only
  unfold teamOf team
  rw [e, o]
theorem grid_view {s t : State} (v : SameView s t) (h : Nat) : gridOf t h = gridOf s h := by
  have o := v.only
  unfold gridOf
  rw [team_view v]
  unfold grid
  rw [o]
theorem width_view {s t : State} (v : SameView s t) (h : Nat) : widthOf t h = widthOf s h := by
  unfold widthOf
  rw [grid_view v]
theorem activeMask_view {s t : State} (v : SameView s t) (h : Nat) : activeMask t h = activeMask s h := by
  unfold activeMask
  rw [exec_view v, width_view v]
theorem activeLanes_view {s t : State} (v : SameView s t) (h : Nat) : activeLanes t h = activeLanes s h := by
  unfold activeLanes
  rw [exec_view v, width_view v]
theorem sysRead_view {s t : State} (v : SameView s t) (h n : Nat) : sysRead t h n = sysRead s h n := by
  have o := v.only
  have r := v.regs h
  have i := v.ids h
  simp only [registers, Registers.mk.injEq] at r
  simp only [identity, Prod.mk.injEq] at i
  have ec : reportedCore t h = reportedCore s h := by
    unfold reportedCore coreOf
    rw [team_view v]
  have ed : t.deviceId = s.deviceId := by rw [o]
  have ek : t.clock = s.clock := by rw [o]
  have et : timeOf t = timeOf s := by
    rw [o]
    rfl
  unfold sysRead
  simp only [team_view v, grid_view v, ec, ed, ek, et, r, i]

/-- The acting group of a view. -/
theorem me_view {s t : State} (v : SameView s t) : me t = grp t s.cur := by
  unfold me
  rw [v.cur]

/-! ## Writing uniform registers -/

theorem finishU_wrote (s t : State) (d : Byte) (w : Word) (v : SameView s t) (hc : s.cur < s.groups.length) :
    ∃ u, finishU t d w = .next u ∧ wrote s u [(d.toNat, w)] := by
  refine ⟨_, rfl, ?_⟩
  obtain ⟨h1, h2⟩ := advance_update s t (setSreg d.toNat w) v hc (fun x => ⟨rfl, rfl, rfl, rfl, rfl, rfl⟩)
  have e : (grp (advance (modMe t (setSreg d.toNat w)) t.cur) s.cur).sregs = mapSet 0 d.toNat w (grp t s.cur).sregs :=
    congrArg Registers.sregs h2
  refine ⟨?_, h1, ?_, ?_⟩
  · intro p hp
    simp only [List.mem_singleton] at hp
    subst hp
    unfold sreg
    rw [e]
    exact mapGet_mapSet_same ..
  · intro n hn
    have hn : n ≠ d.toNat := by simpa using hn
    have : sreg (grp (advance (modMe t (setSreg d.toNat w)) t.cur) s.cur) n = sreg (grp t s.cur) n := by
      unfold sreg
      rw [e]
      exact mapGet_mapSet_other _ _ _ _ _ hn
    rw [this, sreg_view v]
    rfl
  · rw [h2, show registers (me s) = registers (grp t s.cur) from (v.regs s.cur).symm,
      show (grp (advance (modMe t (setSreg d.toNat w)) t.cur) s.cur).sregs = (setSreg d.toNat w (grp t s.cur)).sregs from e]
    rfl

theorem finishU2_wrote (s t : State) (d : Byte) (w : DWord) (v : SameView s t) (hc : s.cur < s.groups.length) :
    ∃ u, finishU2 t d w = .next u ∧ wrote s u [(d.toNat, w.extractLsb' 0 32), (d.toNat + 1, w.extractLsb' 32 32)] := by
  refine ⟨_, rfl, ?_⟩
  obtain ⟨h1, h2⟩ := advance_update s t (setSpair d.toNat w) v hc (fun x => ⟨rfl, rfl, rfl, rfl, rfl, rfl⟩)
  have e : (grp (advance (modMe t (setSpair d.toNat w)) t.cur) s.cur).sregs =
      mapSet 0 (d.toNat + 1) (w.extractLsb' 32 32) (mapSet 0 d.toNat (w.extractLsb' 0 32) (grp t s.cur).sregs) :=
    congrArg Registers.sregs h2
  refine ⟨?_, h1, ?_, ?_⟩
  · intro p hp
    simp only [List.mem_cons, List.not_mem_nil, or_false] at hp
    unfold sreg
    rw [e]
    rcases hp with hp | hp <;> subst hp
    · rw [mapGet_mapSet_other _ _ _ _ _ (by omega), mapGet_mapSet_same]
    · exact mapGet_mapSet_same ..
  · intro n hn
    have hn : n ≠ d.toNat ∧ n ≠ d.toNat + 1 := by simpa using hn
    have : sreg (grp (advance (modMe t (setSpair d.toNat w)) t.cur) s.cur) n = sreg (grp t s.cur) n := by
      unfold sreg
      rw [e, mapGet_mapSet_other _ _ _ _ _ hn.2, mapGet_mapSet_other _ _ _ _ _ hn.1]
    rw [this, sreg_view v]
    rfl
  · rw [h2, show registers (me s) = registers (grp t s.cur) from (v.regs s.cur).symm,
      show (grp (advance (modMe t (setSpair d.toNat w)) t.cur) s.cur).sregs = (setSpair d.toNat w (grp t s.cur)).sregs from e]
    rfl

/-! ## The shapes -/

/-- A uniform instruction that issues runs its body on a state that looks the same. -/
theorem issue_view (sg : Sig) (body : State → Res) (s : State) (i : Instr) (hs : sigOf (widthOf s s.cur) i = some sg)
    (h : issues none true i s = true) :
    issue sg body s = body (noteIssue s s.cur sg) ∧ SameView s (noteIssue s s.cur sg) ∧ s.cur < s.groups.length :=
  have h' := issues_sig hs h
  have hc := issuesWith_cur h'
  ⟨issue_go _ _ _ h', noteIssue_view s s.cur sg hc, hc⟩

theorem uniT_wrote (sg : Sig) (f : FmtT) (op : Word → Word → Word) (s : State) (i : Instr) (hs : sigOf (widthOf s s.cur) i = some sg)
    (h : issues none true i s = true) :
    ∃ u, uniT sg f op s = .next u ∧ wrote s u [(f.d.toNat, op (uniWord (me s) f.ka f.a) (uniWord (me s) f.kb f.b))] := by
  obtain ⟨e, v, hc⟩ := issue_view sg (fun t => finishU t f.d (op (uniWord (me t) f.ka f.a) (uniWord (me t) f.kb f.b))) s i hs h
  unfold uniT
  rw [e, me_view v, uniWord_view v, uniWord_view v]
  exact finishU_wrote s _ f.d _ v hc

theorem uniI_wrote (sg : Sig) (f : FmtI) (op : Word → Word → Word) (s : State) (i : Instr) (hs : sigOf (widthOf s s.cur) i = some sg)
    (h : issues none true i s = true) :
    ∃ u, uniI sg f op s = .next u ∧ wrote s u [(f.d.toNat, op (uniWord (me s) f.ka f.a) f.imm)] := by
  obtain ⟨e, v, hc⟩ := issue_view sg (fun t => finishU t f.d (op (uniWord (me t) f.ka f.a) f.imm)) s i hs h
  unfold uniI
  rw [e, me_view v, uniWord_view v]
  exact finishU_wrote s _ f.d _ v hc

/-! ## Operands of the acting group -/

theorem me_uniWord {s t : State} (v : SameView s t) (k : BitVec 2) (n : Byte) : uniWord (me t) k n = uniWord (me s) k n := by
  rw [me_view v, uniWord_view v]
  rfl
theorem me_uniPair {s t : State} (v : SameView s t) (k : BitVec 2) (n : Byte) : uniPair (me t) k n = uniPair (me s) k n := by
  rw [me_view v, uniPair_view v]
  rfl
theorem me_sreg {s t : State} (v : SameView s t) (n : Nat) : sreg (me t) n = sreg (me s) n := by
  rw [me_view v, sreg_view v]
  rfl
theorem me_spair {s t : State} (v : SameView s t) (n : Nat) : spair (me t) n = spair (me s) n := by
  rw [me_view v, spair_view v]
  rfl
theorem me_vlane {s t : State} (v : SameView s t) (n l : Nat) : vlane (me t) n l = vlane (me s) n l := by
  rw [me_view v, vlane_view v]
  rfl
theorem me_exec {s t : State} (v : SameView s t) : (me t).exec = (me s).exec := by
  rw [me_view v, exec_view v]
  rfl
theorem me_width {s t : State} (v : SameView s t) : widthOf t t.cur = widthOf s s.cur := by
  rw [v.cur, width_view v]

/-- A uniform instruction whose result is one word. -/
theorem issueU_wrote (sg : Sig) (d : Byte) (val : State → Word) (s : State) (i : Instr) (hs : sigOf (widthOf s s.cur) i = some sg)
    (h : issues none true i s = true) (hv : ∀ t, SameView s t → val t = val s) :
    ∃ u, issue sg (fun t => finishU t d (val t)) s = .next u ∧ wrote s u [(d.toNat, val s)] := by
  obtain ⟨e, v, hc⟩ := issue_view sg (fun t => finishU t d (val t)) s i hs h
  rw [e, hv _ v]
  exact finishU_wrote s _ d _ v hc

/-- A uniform instruction whose result is a pair. -/
theorem issueU2_wrote (sg : Sig) (d : Byte) (val : State → DWord) (s : State) (i : Instr) (hs : sigOf (widthOf s s.cur) i = some sg)
    (h : issues none true i s = true) (hv : ∀ t, SameView s t → val t = val s) :
    ∃ u, issue sg (fun t => finishU2 t d (val t)) s = .next u ∧
      wrote s u [(d.toNat, (val s).extractLsb' 0 32), (d.toNat + 1, (val s).extractLsb' 32 32)] := by
  obtain ⟨e, v, hc⟩ := issue_view sg (fun t => finishU2 t d (val t)) s i hs h
  rw [e, hv _ v]
  exact finishU2_wrote s _ d _ v hc

/-! ## The functions of Table 9-3 in other words -/

theorem shlWord_eq (x y : Word) : shlWord x y = x <<< y.toNat := by
  unfold shlWord
  split
  · rfl
  · rw [BitVec.shiftLeft_eq_zero (by omega)]
    rfl
theorem shrWord_eq (x y : Word) : shrWord x y = x >>> y.toNat := by
  unfold shrWord
  split
  · rfl
  · rw [BitVec.ushiftRight_eq_zero (by omega)]
    rfl
theorem sraWord_eq (x y : Word) : sraWord x y = x.sshiftRight y.toNat := by
  unfold sraWord
  by_cases h : y.toNat ≤ 31
  · rw [Nat.min_eq_left h]
  · rw [Nat.min_eq_right (by omega)]
    apply BitVec.eq_of_getLsbD_eq
    intro i hi
    rw [BitVec.getLsbD_sshiftRight, BitVec.getLsbD_sshiftRight]
    have h2 : ¬ (y.toNat + i < 32) := by omega
    have h0 : ¬ y.toNat < 32 := by omega
    by_cases h1 : 31 + i < 32
    · have : i = 0 := by omega
      subst this
      simp [BitVec.msb_eq_getLsbD_last, h0]
    · simp [h1, h2]
theorem minWord_eq (t : Nat) (x y : Word) : minWord t x y = if typed t x.toNat ≤ typed t y.toNat then x else y := by
  unfold minWord
  split <;> split <;> first | rfl | omega
theorem maxWord_eq (t : Nat) (x y : Word) : maxWord t x y = if typed t y.toNat ≤ typed t x.toNat then x else y := by
  unfold maxWord
  split <;> split <;> first | rfl | omega

end Sys2Proof.Machine
end

