-- ==== Sys2Proof/Laws/Vector.lean ====
section
/-!
SUPPORT. What vector instructions do once they issue: the lanes they write, the flags they set, and the frame.
-/
namespace Sys2Proof.Machine

/-! ## What the acting group shows after its issue -/

theorem SameView.fpctl {s t : State} (v : SameView s t) : (me t).fpctl = (me s).fpctl := by
  rw [me_view v]
  exact congrArg Registers.fpctl (v.regs s.cur)
theorem SameView.fpflags {s t : State} (v : SameView s t) : (me t).fpflags = (me s).fpflags := by
  rw [me_view v]
  exact congrArg Registers.fpflags (v.regs s.cur)
theorem SameView.trapen {s t : State} (v : SameView s t) : (me t).trapen = (me s).trapen := by
  rw [me_view v]
  exact congrArg Registers.trapen (v.regs s.cur)
theorem SameView.activeLanes {s t : State} (v : SameView s t) : Machine.activeLanes t t.cur = Machine.activeLanes s s.cur := by
  rw [v.cur, activeLanes_view v]

/-! ## Sources -/

/-- A source delivers what it delivered. -/
theorem SameView.srcBits {s t : State} (v : SameView s t) (cnt : Nat) (k : BitVec 2) (n : Byte) (l : Nat) :
    Machine.srcBits (me t) cnt k n l = Machine.srcBits (me s) cnt k n l := by
  unfold Machine.srcBits srcPair srcWord vpair
  simp only [me_vlane v, me_sreg v, me_spair v]

/-! ## Writing lanes -/

theorem foldl_congr_mem {α β : Type} (f g : β → α → β) (ls : List α) (h : ∀ y, ∀ l ∈ ls, f y l = g y l) (x : β) :
    ls.foldl f x = ls.foldl g x := by
  induction ls generalizing x with
  | nil => rfl
  | cons a t ih =>
    rw [List.foldl_cons, List.foldl_cons, h x a (List.mem_cons_self ..)]
    exact ih (fun y l hl => h y l (List.mem_cons_of_mem _ hl)) _

/-- Writing a lane of one register or a pair writes that lane. -/
theorem vlane_setVlanes_in (n cnt l m v : Nat) (hc : cnt = 1 ∨ cnt = 2) (x : Group) (hl : l < 64) (hm : n ≤ m ∧ m < n + cnt) :
    vlane (setVlanes n cnt l v x) m l = BitVec.ofNat 32 (v / 2 ^ (32 * (m - n))) := by
  unfold setVlanes
  rcases hc with rfl | rfl
  · obtain rfl : m = n := by omega
    simp
  · simp only [if_true]
    by_cases h1 : m = n + 1
    · subst h1
      simp
    · obtain rfl : m = n := by omega
      rw [vlane_setVlane_other _ _ _ _ _ _ hl hl (.inl h1)]
      simp

/-- Writing a lane of one register or a pair keeps the lanes of every other register, and of a register not backed its other lanes. -/
theorem vlane_setVlanes_out (n cnt l m k v : Nat) (hc : cnt = 1 ∨ cnt = 2) (x : Group) (hl : l < 64) (hk : k < 64)
    (h : ¬ (n ≤ m ∧ m < n + cnt) ∨ k ≠ l ∧ backed x m = false) : vlane (setVlanes n cnt l v x) m k = vlane x m k := by
  have one (a : Nat) (w : Word) (y : Group) (ha : m = a → k ≠ l ∧ backed y m = false) : vlane (setVlane a l w y) m k = vlane y m k := by
    refine vlane_setVlane_other _ _ _ _ _ _ hl hk ?_
    by_cases e : m = a
    · subst e
      exact .inr (ha rfl)
    · exact .inl e
  unfold setVlanes
  rcases hc with rfl | rfl
  · simp only [show ¬ (1 = 2) by decide, if_false]
    exact one _ _ _ (fun e => h.resolve_left (fun h => h (by omega)))
  · simp only [if_true]
    have hb : m = n ∨ m = n + 1 → k ≠ l ∧ backed x m = false := fun e => h.resolve_left (fun h => h (by omega))
    rw [one _ _ _ (fun e => ⟨(hb (.inr e)).1, backed_setVlane _ _ _ _ _ (hb (.inr e)).2⟩), one _ _ _ (fun e => hb (.inl e))]

theorem backed_setVlanes (n cnt l m v : Nat) (x : Group) (h : backed x m = false) : backed (setVlanes n cnt l v x) m = false := by
  unfold setVlanes
  split
  · exact backed_setVlane _ _ _ _ _ (backed_setVlane _ _ _ _ _ h)
  · exact backed_setVlane _ _ _ _ _ h
theorem backed_setVlanes_in (n cnt l m v : Nat) (hc : cnt = 1 ∨ cnt = 2) (x : Group) (hm : n ≤ m ∧ m < n + cnt) :
    backed (setVlanes n cnt l v x) m = false := by
  unfold setVlanes
  rcases hc with rfl | rfl
  · obtain rfl : m = n := by omega
    simp [backed_setVlane_self]
  · simp only [if_true]
    by_cases h1 : m = n + 1
    · subst h1
      exact backed_setVlane_self ..
    · obtain rfl : m = n := by omega
      exact backed_setVlane _ _ _ _ _ (backed_setVlane_self ..)

/-- The lanes that `writeLanes` leaves alone. -/
theorem vlane_writeLanes_out (d cnt : Nat) (hc : cnt = 1 ∨ cnt = 2) (ls : List Nat) (v : Nat → Nat) (x : Group) (m k : Nat)
    (hls : ∀ l ∈ ls, l < 64) (hk : k < 64) (h : ¬ (d ≤ m ∧ m < d + cnt) ∨ k ∉ ls ∧ backed x m = false) :
    vlane (writeLanes d cnt ls v x) m k = vlane x m k := by
  unfold writeLanes
  induction ls generalizing x with
  | nil => rfl
  | cons l t ih =>
    have hl := hls l (List.mem_cons_self ..)
    rw [List.foldl_cons, ih _ (fun l hl => hls l (List.mem_cons_of_mem _ hl)), vlane_setVlanes_out _ _ _ _ _ _ hc _ hl hk]
    · exact h.imp_right (fun h => ⟨fun e => h.1 (e ▸ List.mem_cons_self ..), h.2⟩)
    · exact h.imp_right (fun h => ⟨fun e => h.1 (List.mem_cons_of_mem _ e), backed_setVlanes _ _ _ _ _ _ h.2⟩)

/-- The lanes that `writeLanes` writes. -/
theorem vlane_writeLanes_in (d cnt : Nat) (hc : cnt = 1 ∨ cnt = 2) (ls : List Nat) (v : Nat → Nat) (x : Group) (m k : Nat)
    (hls : ∀ l ∈ ls, l < 64) (hm : d ≤ m ∧ m < d + cnt) (hk : k ∈ ls) :
    vlane (writeLanes d cnt ls v x) m k = BitVec.ofNat 32 (v k / 2 ^ (32 * (m - d))) := by
  unfold writeLanes
  induction ls generalizing x with
  | nil => exact absurd hk (List.not_mem_nil)
  | cons l t ih =>
    rw [List.foldl_cons]
    by_cases ht : k ∈ t
    · exact ih _ (fun l hl => hls l (List.mem_cons_of_mem _ hl)) ht
    · obtain rfl : k = l := (List.mem_cons.mp hk).resolve_right ht
      have hl := hls k hk
      have hout := vlane_writeLanes_out d cnt hc t v (setVlanes d cnt k (v k) x) m k (fun l hl => hls l (List.mem_cons_of_mem _ hl)) hl
        (.inr ⟨ht, backed_setVlanes_in _ _ _ _ _ hc _ hm⟩)
      unfold writeLanes at hout
      rw [hout, vlane_setVlanes_in _ _ _ _ _ hc _ hl hm]

/-- What writing lanes keeps of a group. -/
theorem registers_setVlanes (n cnt l v : Nat) (x : Group) :
    registers (setVlanes n cnt l v x) = { registers x with vregs := (setVlanes n cnt l v x).vregs } := by
  unfold setVlanes
  split <;> rfl
theorem control_setVlanes (n cnt l v : Nat) (x : Group) :
    (setVlanes n cnt l v x).pc = x.pc ∧ (setVlanes n cnt l v x).clause = x.clause ∧ (setVlanes n cnt l v x).lc0 = x.lc0 ∧
      (setVlanes n cnt l v x).lc1 = x.lc1 ∧ (setVlanes n cnt l v x).lc2 = x.lc2 ∧ (setVlanes n cnt l v x).lc3 = x.lc3 := by
  unfold setVlanes
  split <;> exact ⟨rfl, rfl, rfl, rfl, rfl, rfl⟩
theorem pairing_setVlanes (n cnt l v : Nat) (x : Group) : (setVlanes n cnt l v x).pairing = x.pairing := by
  unfold setVlanes
  split <;> rfl

theorem registers_writeLanes (d cnt : Nat) (ls : List Nat) (v : Nat → Nat) (x : Group) :
    registers (writeLanes d cnt ls v x) = { registers x with vregs := (writeLanes d cnt ls v x).vregs } := by
  unfold writeLanes
  induction ls generalizing x with
  | nil => rfl
  | cons l t ih =>
    rw [List.foldl_cons, ih, registers_setVlanes]
theorem control_writeLanes (d cnt : Nat) (ls : List Nat) (v : Nat → Nat) (x : Group) :
    (writeLanes d cnt ls v x).pc = x.pc ∧ (writeLanes d cnt ls v x).clause = x.clause ∧ (writeLanes d cnt ls v x).lc0 = x.lc0 ∧
      (writeLanes d cnt ls v x).lc1 = x.lc1 ∧ (writeLanes d cnt ls v x).lc2 = x.lc2 ∧ (writeLanes d cnt ls v x).lc3 = x.lc3 := by
  unfold writeLanes
  induction ls generalizing x with
  | nil => exact ⟨rfl, rfl, rfl, rfl, rfl, rfl⟩
  | cons l t ih =>
    rw [List.foldl_cons]
    obtain ⟨h1, h2, h3, h4, h5, h6⟩ := ih (setVlanes d cnt l (v l) x)
    obtain ⟨g1, g2, g3, g4, g5, g6⟩ := control_setVlanes d cnt l (v l) x
    exact ⟨h1.trans g1, h2.trans g2, h3.trans g3, h4.trans g4, h5.trans g5, h6.trans g6⟩
theorem pairing_writeLanes (d cnt : Nat) (ls : List Nat) (v : Nat → Nat) (x : Group) : (writeLanes d cnt ls v x).pairing = x.pairing := by
  unfold writeLanes
  induction ls generalizing x with
  | nil => rfl
  | cons l t ih => rw [List.foldl_cons, ih, pairing_setVlanes]

/-! ## The shapes -/

theorem mem_activeLanes (s : State) (l : Nat) (hl : l < 64) :
    l ∈ activeLanes s s.cur ↔ laneIn (activeMask s s.cur) l = true := by
  unfold activeLanes lanesOf activeMask laneIn widthMask
  simp only [List.mem_filter, List.mem_range, BitVec.getLsbD_and, Bool.and_eq_true, BitVec.getLsbD_ofNat, hl, decide_true,
    Nat.testBit_two_pow_sub_one, decide_eq_true_eq, Bool.true_and]
  exact And.comm

theorem activeLanes_lt (s : State) (l : Nat) (h : l ∈ activeLanes s s.cur) : l < 64 := by
  unfold activeLanes lanesOf at h
  simp only [List.mem_filter] at h
  by_cases hl : l < 64
  · exact hl
  · rw [BitVec.getLsbD_of_ge _ _ (by omega)] at h
    exact absurd h.2 (by decide)

/-- The lanes of an update written, its flags set and the pc moved on. -/
theorem lanesWrote_of (s t u : State) (d cnt : Nat) (hc : cnt = 1 ∨ cnt = 2) (val : Nat → Nat) (met : Nat)
    (v : SameView s t) (hg : groupOnly s u)
    (hr : registers (grp u s.cur) =
      { registers (writeLanes d cnt (activeLanes s s.cur) val (grp t s.cur)) with
        fpflags := (me s).fpflags ||| BitVec.ofNat 32 met })
    (hb : ∀ n, backed (grp t s.cur) n = backed (me s) n) :
    lanesWrote s u d cnt val met := by
  have hlane (m k : Nat) : vlane (grp u s.cur) m k = vlane (writeLanes d cnt (activeLanes s s.cur) val (grp t s.cur)) m k := by
    unfold vlane
    rw [show (grp u s.cur).vregs = _ from congrArg Registers.vregs hr]
    rfl
  refine ⟨?_, hg, ?_, ?_⟩
  · intro l hl ha k hk
    rw [hlane, vlane_writeLanes_in d cnt hc _ _ _ _ _ (fun l => activeLanes_lt s l) (by omega) ((mem_activeLanes s l hl).mpr ha)]
    simp
  · intro n l hl h
    rw [hlane, vlane_writeLanes_out d cnt hc _ _ _ _ _ (fun l => activeLanes_lt s l) hl]
    · exact vlane_view v ..
    · rcases h with h | h
      · exact .inl (fun hn => h (by simpa using ⟨n - d, by omega, by omega⟩))
      · refine .inr ⟨fun hl' => ?_, (hb n).trans h.2⟩
        rw [(mem_activeLanes s l hl).mp hl'] at h
        exact absurd h.1 (by decide)
  · rw [hr, show (grp u s.cur).vregs = _ from congrArg Registers.vregs hr, registers_writeLanes, v.regs s.cur]
    rfl

/-- A vector instruction without flags that issues. -/
theorem issueV_wrote (quay : Bool) (sg : Sig) (d : Byte) (cnt : Nat) (hc : cnt = 1 ∨ cnt = 2) (val : State → Nat → Nat) (s : State)
    (i : Instr) (hs : sigOf (widthOf s s.cur) i = some sg)
    (h : issues none quay i s = true) (hv : ∀ t, SameView s t → ∀ l, l < 64 → val t l = val s l) :
    ∃ u, issueOn none quay sg (fun t => finishV t d cnt (val t)) s = .next u ∧ lanesWrote s u d.toNat cnt (val s) 0 := by
  have h' := issues_sig hs h
  have hcur := issuesWith_cur h'
  rw [issueOn_go _ _ _ _ _ h']
  have v := noteIssue_view s s.cur sg hcur
  have hb := noteIssue_backed s s.cur sg hcur
  generalize noteIssue s s.cur sg = t at v hb
  refine ⟨_, rfl, ?_⟩
  have hwl : writeLanes d.toNat cnt (activeLanes t t.cur) (val t) = writeLanes d.toNat cnt (activeLanes s s.cur) (val s) := by
    funext x
    rw [v.activeLanes]
    exact foldl_congr_mem _ _ _ (fun y l hl => by rw [hv t v l (activeLanes_lt s l hl)]) x
  rw [hwl]
  obtain ⟨h1, h2⟩ := advance_update s t (writeLanes d.toNat cnt (activeLanes s s.cur) (val s)) v hcur
    (fun x => control_writeLanes ..)
  refine lanesWrote_of s t _ d.toNat cnt hc (val s) 0 v h1 ?_ hb
  rw [h2, registers_writeLanes, v.regs s.cur]
  simp only [BitVec.or_zero]
  rfl

/-! ## Flags and enabled events (R152, R207) -/

theorem modGrp_modGrp (s : State) (g : Nat) (f h : Group → Group) (hg : g < s.groups.length) :
    modGrp (modGrp s g f) g h = modGrp s g (fun x => h (f x)) := by
  unfold modGrp setGrp
  have : grp { s with groups := s.groups.set g (f (grp s g)) } g = f (grp s g) := grp_setGrp_same s g _ hg
  rw [this]
  simp [List.set_set]

/-- The flags that a list of results meets. -/
def metBy (ls : List Nat) (v : Nat → Nat × Nat) : Nat := ls.foldl (fun m l => m ||| (v l).2) 0

theorem registers_withFlags (x : Group) (w : Word) :
    registers { x with fpflags := w } = { registers x with fpflags := w } := rfl
theorem registers_withPairFlags (x : Group) (m : Nat) : registers { x with pairFlags := m } = registers x := rfl

/-- What follows an instruction that met events none of which traps now. -/
theorem finishFlags_quiet (s t : State) (f : Group → Group) (met : Nat) (v : SameView s t) (hc : s.cur < s.groups.length)
    (hf : ∀ x, (f x).pc = x.pc ∧ (f x).clause = x.clause ∧ (f x).lc0 = x.lc0 ∧ (f x).lc1 = x.lc1 ∧ (f x).lc2 = x.lc2 ∧
      (f x).lc3 = x.lc3)
    (hr : ∀ x, registers (f x) = { registers x with vregs := (f x).vregs, sregs := (f x).sregs })
    (hp : ∀ x, (f x).pairing = x.pairing)
    (hm : (me s).pairing ≠ .alone ∨ met &&& (me s).trapen.toNat = 0) :
    groupOnly s (finishFlags (modMe t f) t.cur met) ∧
      registers (grp (finishFlags (modMe t f) t.cur met) s.cur) =
        { registers (f (grp t s.cur)) with fpflags := (me s).fpflags ||| BitVec.ofNat 32 met } := by
  have ec : t.cur = s.cur := v.cur
  have hl : t.cur < t.groups.length := by rw [ec, v.length]; exact hc
  have hx : grp (modMe t f) t.cur = f (grp t s.cur) := by rw [← ec]; exact me_modMe t f hl
  have hpair : (f (grp t s.cur)).pairing = (me s).pairing := by rw [hp, v.pairing]; rfl
  have hten : (f (grp t s.cur)).trapen = (me s).trapen := by
    rw [show (f (grp t s.cur)).trapen = (grp t s.cur).trapen from congrArg Registers.trapen (hr _), ← me_view v, v.trapen]
  have hfl : (f (grp t s.cur)).fpflags = (me s).fpflags := by
    rw [show (f (grp t s.cur)).fpflags = (grp t s.cur).fpflags from congrArg Registers.fpflags (hr _), ← me_view v, v.fpflags]
  let k : Group → Group := fun x => { f x with fpflags := (f x).fpflags ||| BitVec.ofNat 32 met }
  have hk : modGrp (modMe t f) t.cur (fun x => { x with fpflags := x.fpflags ||| BitVec.ofNat 32 met }) = modMe t k :=
    modGrp_modGrp t t.cur f _ hl
  obtain ⟨h1, h2⟩ := advance_update s t k v hc hf
  have h2' : registers (grp (advance (modMe t k) t.cur) s.cur) =
      { registers (f (grp t s.cur)) with fpflags := (me s).fpflags ||| BitVec.ofNat 32 met } := by
    rw [h2, registers_withFlags, hfl]
  unfold finishFlags
  dsimp only
  rw [hk, hx, hpair, hten]
  split
  · rename_i ha
    have hz : met &&& (me s).trapen.toNat = 0 := hm.resolve_left (fun h => h ha)
    rw [if_pos hz]
    exact ⟨h1, h2'⟩
  · have hg : ∀ h, registers (grp (modGrp (advance (modMe t k) t.cur) t.cur
        (fun x => { x with pairFlags := x.pairFlags ||| met &&& (me s).trapen.toNat })) h) =
        registers (grp (advance (modMe t k) t.cur) h) := fun h => registers_modGrp _ _ _ (fun x => registers_withPairFlags x _) h
    refine ⟨⟨onlyGroups_trans h1.1 (onlyGroups_modGrp _ _ _), fun a => h1.2.1 a, fun h hh => (hg h).trans (h1.2.2.1 h hh), ?_⟩,
      (hg _).trans h2'⟩
    intro hi
    obtain ⟨m1, m2, m3, m4, m5⟩ := h1.2.2.2 hi
    have hlen : t.cur < (advance (modMe t k) t.cur).groups.length := by
      have := advance_length (modMe t k) t.cur
      rw [this]
      simpa using hl
    have hq := grp_modGrp_same (advance (modMe t k) t.cur) t.cur
      (fun x => { x with pairFlags := x.pairFlags ||| met &&& (me s).trapen.toNat }) hlen
    rw [ec] at hq ⊢
    rw [hq]
    rw [ec] at m1 m2 m3 m4 m5
    exact ⟨m1, m2, m3, m4, m5⟩

/-- A floating-point instruction that issues and met no event that traps now. -/
theorem issueF_wrote (quay : Bool) (sg : Sig) (d : Byte) (cnt : Nat) (hc : cnt = 1 ∨ cnt = 2) (val : State → Nat → Nat × Nat) (s : State)
    (i : Instr) (hs : sigOf (widthOf s s.cur) i = some sg)
    (h : issues none quay i s = true) (hv : ∀ t, SameView s t → ∀ l, l < 64 → val t l = val s l)
    (hm : (me s).pairing ≠ .alone ∨ metBy (activeLanes s s.cur) (val s) &&& (me s).trapen.toNat = 0) :
    ∃ u, issueOn none quay sg (fun t => finishF t d cnt (val t)) s = .next u ∧
      lanesWrote s u d.toNat cnt (fun l => (val s l).1) (metBy (activeLanes s s.cur) (val s)) := by
  have h' := issues_sig hs h
  have hcur := issuesWith_cur h'
  rw [issueOn_go _ _ _ _ _ h']
  have v := noteIssue_view s s.cur sg hcur
  have hb := noteIssue_backed s s.cur sg hcur
  generalize noteIssue s s.cur sg = t at v hb
  have hwl : writeLanes d.toNat cnt (activeLanes t t.cur) (fun l => (val t l).1) =
      writeLanes d.toNat cnt (activeLanes s s.cur) (fun l => (val s l).1) := by
    funext x
    rw [v.activeLanes]
    exact foldl_congr_mem _ _ _ (fun y l hl => by simp only [hv t v l (activeLanes_lt s l hl)]) x
  have hmet : (activeLanes t t.cur).foldl (fun m l => m ||| (val t l).2) 0 = metBy (activeLanes s s.cur) (val s) := by
    unfold metBy
    rw [v.activeLanes]
    exact foldl_congr_mem _ _ _ (fun y l hl => by rw [hv t v l (activeLanes_lt s l hl)]) 0
  refine ⟨_, rfl, ?_⟩
  rw [hwl, hmet]
  obtain ⟨h1, h2⟩ := finishFlags_quiet s t (writeLanes d.toNat cnt (activeLanes s s.cur) (fun l => (val s l).1))
    (metBy (activeLanes s s.cur) (val s)) v hcur (fun x => control_writeLanes ..) (fun x => by
      rw [registers_writeLanes]
      have : (writeLanes d.toNat cnt (activeLanes s s.cur) (fun l => (val s l).1) x).sregs = x.sregs :=
        congrArg Registers.sregs (registers_writeLanes ..)
      rw [this]
      rfl) (fun x => pairing_writeLanes ..) hm
  exact lanesWrote_of s t _ d.toNat cnt hc _ _ v h1 h2 hb

end Sys2Proof.Machine
end

