-- ==== Sys2Proof/WellFormed.lean ====
section
/-!
DEFINITION. Well-formed instructions: those whose fields the description of the instruction admits for some budget and header count
(R149, R169).
-/
namespace Sys2Proof

/-- The fields of an instruction are admitted: every operand names registers there can be, and every other field holds a value its
description allows. A device event has no fields to check. -/
def Instr.wf (i : Instr) : Bool :=
  match Machine.sigOf 64 i with
  | some g => (Machine.sigDetail 256 256 g).isNone
  | none => true

end Sys2Proof
end

