-- ==== Sys2Proof/Tests/Slice0.lean ====
section
/-!
SUPPORT. Tests: ill-formed terms that the check refuses, words of the specification that decode, witnesses that the hypotheses of the
statements can be met, and a few single steps with results worked out from the specification's examples.
-/
namespace Sys2Proof.Tests
set_option Elab.async false
open Sys2Proof.Machine
open Sys2Proof.Claims

/-! ## States -/

/-- A word stored at a location. -/
def poke (a v : Nat) (s : State) : State := { s with mem := writeLE s.mem a 8 v }
/-- A placed group of 32 lanes at a `nop`. -/
def start : State := State.reset.withFetchWord 64 0x4A00000000000000
/-- The same with its group changed. -/
def withGroup (f : Group → Group) : State := modGrp start 0 f
/-- The group with a handler at 0x20000. -/
def handled0 : State := withGroup (fun x => { x with trapbase := 0x20000 })
/-- The group inside its handler. -/
def inHandler : State := withGroup (fun x => { x with trapbase := 0x20000, intrap := true, trappc := 0x10000 })
/-- The group at the first of two instructions of its clause. -/
def inClause : State := withGroup (fun x =>
  { x with clause := some { cls := 0, count := 2, wpath := 7, wthresh := 0, pair := 0, yield := false } })
/-- A grid with eight bytes of arguments. -/
def withArgs : State := modGrid start 0 (fun x => { x with args := List.replicate 8 1 })

/-- Forms of uniform and mask instructions: register and special sources, with low op values. -/
def formsT : List FmtT :=
  let f : FmtT := { decodeT 0 with d := 2, a := 4, b := 6, ka := 1, kb := 1 }
  [0, 1, 2, 3, 4].flatMap fun o =>
    [{ f with op := o }, { f with op := o, b := 0, kb := 0 }, { f with op := o, c := 8, kc := 1 }, { f with op := o, d := 0, b := 0, kb := 0 },
     { f with op := o, d := 0 }, { f with op := o, a := 0, ka := 0, b := 0, kb := 0 }, { f with op := o, a := 0, ka := 0 }]
def formsI : List FmtI :=
  let f : FmtI := { decodeI 0 with d := 2, a := 4, imm := 0, ka := 1 }
  [0, 1, 2, 3, 4].flatMap fun o => [{ f with op := o }, { f with op := o, a := 0, ka := 0 }, { f with op := o, d := 0, a := 0, ka := 0, imm := 8 },
    { f with op := o, d := 0, imm := 8 }]

/-- Vector forms, with every op of a list. -/
def vecT (ops : List Byte) : List FmtT :=
  let f : FmtT := { decodeT 0 with d := 8, a := 2, b := 4 }
  ops.flatMap fun o => [{ f with op := o }, { f with op := o, b := 0 }, { f with op := o, c := 6 }, { f with op := o, c := 6, kc := 1 }]
def vecI (ops : List (BitVec 4)) : List FmtI :=
  let f : FmtI := { decodeI 0 with d := 8, a := 2, imm := 3 }
  ops.flatMap fun o => [{ f with op := o }, { f with op := o, a := 0 }]

/-! ## Witnesses: uniform and control instructions -/

theorem test_wit_uniform_rows :
    arithT.all (fun r => formsT.any (fun f => issues none true (r.instr f) start && r.holds f start)) = true ∧
    arithI.all (fun r => formsI.any (fun f => issues none true (r.instr f) withArgs && r.holds f withArgs)) = true := by decide +kernel

theorem test_wit_mask_rows :
    maskPairs.all (fun r => formsT.any (fun f => issues none true (r.instr f) start && r.holds f start)) = true ∧
    maskExecs.all (fun r => formsT.any (fun f => issues none true (r.1 f) start && r.2.1 f start)) = true := by decide +kernel

theorem test_wit_swr :
    issues none true (.swr { decodeI 0 with a := 4, ka := 1, imm := 0x19 }) start = true ∧ (sysRead start 0 0x19).isSome = true := by
  decide +kernel

/-- The group with every lane off. -/
def idle : State := withGroup (fun x => { x with trapbase := 0x20000, exec := 0 })


/-- Taken to a good target, taken to a bad one with a handler, and not taken. -/
theorem test_wit_branches :
    branches.all (fun b => formsI.any (fun f => [handled0, idle].any (fun s =>
      issues none true (b.1 f) s && b.2.1 f s && goodTarget (b.2.2 f s)))) = true ∧
    branches.all (fun b => [({ decodeI 0 with imm := 0xFFFC0000 } : FmtI),
        { decodeI 0 with imm := 0xFFFC0000, a := 4, ka := 1, op := 1 }].any (fun f =>
      [handled0, idle].any (fun s => issues none true (b.1 f) s && b.2.1 f s && !goodTarget (b.2.2 f s) && hasHandler s 0))) = true ∧
    (branches.drop 1).all (fun b => [start, idle].any (fun s => formsI.any (fun f => issues none true (b.1 f) s && !b.2.1 f s))) = true := by
  decide +kernel

theorem test_wit_calls :
    issues none true (.call { decodeI 0 with d := 2, a := 4, ka := 1, imm := 8 }) start = true ∧
    goodTarget (callTarget { decodeI 0 with d := 2, a := 4, ka := 1, imm := 8 } start) = true ∧
    issues none true (.ret { decodeT 0 with a := 2, ka := 1, b := 4, kb := 1 }) start = true ∧
    checkPc start 0 (spair (me start) 2) = .good := by decide +kernel

/-- A code object of 64 bytes, whose second clause is a `nop`. -/
def longer (s : State) : State :=
  poke 16 0x00E0000000000000 (poke 24 0x4A00000000000000 { s with codes := s.codes.map (fun c => { c with text := (0x10000, 0x10040) }) })
/-- Loop register 0 of the placed group closes at its clause with a count of 3. -/
def looping (s : State) : State := modGrp s 0 (fun x => { x with lc0 := { start := 0x10010, stop := 0x10000, count := 3 } })
/-- Uniform register 4 holds a value. -/
def sreg4 (v : Word) (s : State) : State := modGrp s 0 (setSreg 4 v)

def loopI : FmtI := { decodeI 0 with a := 4, ka := 1, imm := 8 }
theorem test_wit_loop :
    let s := sreg4 5 start
    issues none true (.loop loopI) s = true ∧ liveLoops (me s) < 4 ∧ (after s : Int) ≤ loopEndOf loopI s ∧ iA loopI s ≠ 0 ∧
      loopEndOf loopI s < 2 ^ 57 ∧ (clauseOf (me s)).count ≤ pcIndex (me s).pc + 1 ∧
      (∀ n, n < 4 → (loopReg (me s) n).count = 0) := by decide +kernel
theorem test_wit_loop_zero :
    let s := longer start
    issues none true (.loop loopI) s = true ∧ s.bad = [] ∧ liveLoops (me s) < 4 ∧ (after s : Int) ≤ loopEndOf loopI s ∧ iA loopI s = 0 ∧
      (fetch s 0 (loopEndOf loopI s).toNat).any (headerOk s 0 (loopEndOf loopI s).toNat) = true := by decide +kernel
theorem test_wit_loop_back :
    let s := looping start
    issues none true (.nop (decodeT 0)) s = true ∧ liveLoops (me s) = 1 ∧ (clauseOf (me s)).count ≤ pcIndex (me s).pc + 1 ∧
      (loopReg (me s) 0).stop.toNat = pcHeader (me s).pc ∧ 1 < (loopReg (me s) 0).count.toNat := by decide +kernel
theorem test_wit_lbrk :
    let s := looping inClause
    issues none true (.lbrk (decodeI 0)) s = true ∧ breaks (decodeI 0) s = true ∧ liveLoops (me s) = 1 ∧
      issues none true (.lbrk { decodeI 0 with op := 1 }) s = true ∧ breaks { decodeI 0 with op := 1 } s = false ∧
      pcIndex (me s).pc + 1 < (clauseOf (me s)).count := by decide +kernel

theorem test_wit_exit_and_hints :
    issues none true (.exit (decodeT 0)) start = true ∧ activeMask start 0 ≠ 0 ∧
      (me start).live &&& ~~~ activeMask start 0 = 0 ∧
      (let s := withGroup (fun x => { x with exec := 1 }); issues none true (.exit (decodeT 0)) s = true ∧
        (me s).live &&& ~~~ activeMask s 0 ≠ 0) ∧
      issues none true (.nop (decodeT 0)) start = true ∧ issues none true (.yield (decodeT 0)) inClause = true ∧
      issues none true (.sleep { decodeI 0 with imm := 1 }) start = true ∧ (me start).yielding = [] ∧
      (clauseOf (me start)).count ≤ pcIndex (me start).pc + 1 := by decide +kernel

/-! ## Witnesses: traps -/

theorem test_wit_trap_entry : hasHandler handled0 0 = true ∧ 0 < inHandler.groups.length ∧ (grp inHandler 0).intrap = true := by decide +kernel
theorem test_wit_software_traps :
    issues none true (.bkpt { decodeT 0 with op := 255 }) handled0 = true ∧ issues none true (.trap { decodeI 0 with imm := 0xFFFF }) handled0 = true ∧
      hasHandler handled0 0 = true := by decide +kernel
theorem test_wit_trapret :
    (let s := poke 0 0x00E0000000000000 inHandler
     issues none true (.trapret (decodeT 0)) s = true ∧ (me s).intrap = true ∧ returnCheck s 0 (me s).trappc = .good) ∧
      (let s := poke 0 0x9000000000000000 inHandler
       issues none true (.trapret (decodeT 0)) s = true ∧ (me s).intrap = true ∧ returnCheck s 0 (me s).trappc = .target) ∧
      (let s := modGrp inHandler 0 (fun x => { x with trappc := 0x1000000000020000 })
       issues none true (.trapret (decodeT 0)) s = true ∧ returnCheck s 0 (me s).trappc = .noFetch) ∧
      issues none true (.trapret (decodeT 0)) handled0 = true := by decide +kernel
theorem test_wit_illegal :
    (sigOf (widthOf start 0) (.sadd { decodeT 0 with op := 9 })).any (fun g => (sigDetail (me start).budget (uniCount start 0) g).isSome) = true ∧
      canIssue start 0 = true ∧ isQuayCore (coreOf start 0) = false ∧ canIssue handled0 0 = true ∧ hasHandler handled0 0 = true := by decide +kernel

/-! ## Witnesses: vectors -/

theorem test_wit_integer_rows :
    integerT.all (fun r => (vecT [0, 0x77, 6]).any (fun f => issues none (r.quay f) (r.instr f) start)) = true ∧
    integerI.all (fun r => (vecI [0, 1]).any (fun f => issues none (r.quay f) (r.instr f) start)) = true := by decide +kernel


/-- Its source b is a uniform register. -/
def seeded (ops : List Byte) : List FmtT := (vecT ops).map (fun f => { f with kb := 1 })
/-- An instruction issues, and the events it meets are not enabled. -/
def quietly {α : Type} (r : VectorRow α) (f : α) (s : State) : Bool :=
  issues none (r.quay f) (r.instr f) s && (r.met f s &&& (me s).trapen.toNat == 0)
/-- Overflow and inexact are enabled, and lane values are large. -/
def trapping : State := withGroup (fun x =>
  { setVlane 2 0 0x7F7FFFFF (setVlane 4 0 0x7F7FFFFF x) with trapbase := 0x20000, trapen := 0x3F })
/-- An instruction issues alone and meets an enabled event. -/
def loudly {α : Type} (r : VectorRow α) (f : α) (s : State) : Bool :=
  issues none (r.quay f) (r.instr f) s && (me s).pairing == .alone && (r.met f s &&& (me s).trapen.toNat != 0) && hasHandler s s.cur

theorem test_wit_float_rows :
    floatT.all (fun r => (vecT [0, 0x0A]).any (fun f => quietly r f start)) = true ∧
    floatI.all (fun r => (vecI [0]).any (fun f => quietly r f start)) = true := by decide +kernel

theorem test_wit_enabled_event :
    loudly (f32T .fmul (fun f s l => as32 s (byRnd f s) (fmul (xA f s l) (xB f s l)))) { decodeT 0 with d := 8, a := 2, b := 4 } trapping = true ∧
    loudly (f32I .fmulImm (fun f s l => as32 s (byCtl s) (fmul (zA f s l) (zI f s)))) { decodeI 0 with d := 8, a := 2, imm := 0x7F7FFFFF }
      trapping = true := by decide +kernel

theorem test_wit_compare_rows :
    compareT.all (fun r => (vecT [0, 8, 9]).any (fun f => issues none r.quay (r.instr f) start)) = true ∧
    compareI.all (fun r => (vecI [0]).any (fun f => issues none r.quay (r.instr f) start)) = true ∧
    issues none true (.vaddc { decodeT 0 with d := 8, a := 2, b := 4, c := 6, kc := 1, op := 1 }) start = true := by decide +kernel

/-- `cvt` of an f32 to i8, and of a block of f32 to MXFP8. -/
def toFloat : FmtT := { decodeT 0 with d := 8, a := 2, op := 0x90 }
def toBlocks (o : Byte) : FmtT := { decodeT 0 with d := 8, a := 2, c := 6, kc := 1, op := o }
theorem test_wit_cvt :
    cvtMx (toFloat.op.toNat / 16) = false ∧ quietly convertRow toFloat start = true ∧
    (let f := toBlocks 0x50
     cvtMx (f.op.toNat / 16) = true ∧ issues none true (.cvt f) start = true ∧ widthOf start start.cur = 32 ∧
       (mxEncode (fmtOfCode (f.op.toNat / 16)) (mxValues (me start) f 32 (activeMask start start.cur) 0)).2.2 &&&
         (me start).trapen.toNat = 0) := by decide +kernel

theorem test_wit_one_lane :
    (let f : FmtT := { decodeT 0 with d := 2, a := 3, b := 4, kb := 1 }
     issues none true (.vrdl f) start = true ∧ issues none true (.vrdl { f with a := 4, op := 8 }) start = true) ∧
    (let f : FmtT := { decodeT 0 with d := 2, a := 3, ka := 1, b := 4, kb := 1 }
     issues none true (.vwrl f) start = true ∧ backed (me start) 2 = false ∧ backed (me start) 3 = false) := by decide +kernel

theorem test_wit_reductions :
    [reduceRow, scanRow].all (fun r => (vecT [0x20] ++ seeded [0x20]).any (fun f => quietly r f start && widthOf start 0 % subWidth f.op == 0)) = true := by
  decide +kernel


/-! ## Witnesses: exchanges and memory -/

/-- Operations in flight, some clocks later. -/
def flying (xs : List Op) : State := { start with ops := xs, clock := 9 }
/-- A lane's access of 4 bytes. -/
def lane4 (a v : Nat) : LaneReq := { lane := 3, addr := a, named := a, data := v, cmp := 0 }
/-- Lane 3 alone is active. -/
def lane3 : State := withGroup (fun x => { x with trapbase := 0x20000, exec := 8 })

theorem test_wit_exchanges :
    issues (some 0) true (.vperm { decodeT 0 with d := 8, a := 2, b := 4 }) start = true ∧
    issues (some 0) true (.vshfl { decodeT 0 with d := 8, a := 2, b := 4, kb := 1 }) start = true ∧
    (let s := flying [{ g := 0, kind := .perm 0 none, path := some 0 }]
     xbarWaits (op s 0) = true ∧ (op s 0).issuedAt < s.clock ∧ s.ops.length = 1) := by decide +kernel

def memForm : FmtM := { decodeM 0 with d := 8, a := 4, ka := true, size := 2 }
/-- A grid with a segment on its die. -/
def segmented : State := modGrid start 0 (fun x => { x with segSize := 128, segs := [0, 0, 0, 0] })
theorem test_wit_scratchpad :
    scratchForms.all (fun i => issues (scratchPath i.2.1 i.2.2) (!i.2.2) (i.1 memForm) segmented && segmented.dbg.watches.isEmpty &&
      (activeLanes segmented 0).all (fun l =>
        scratchOk segmented 0 (spaceOf memForm i.2.2) (memAddr (me segmented) memForm l) (memSize memForm)) &&
      decide (activeLanes segmented 0 ≠ []) && issues (scratchPath i.2.1 i.2.2) (!i.2.2) (i.1 memForm) idle &&
      decide (activeLanes idle 0 = []) && spaceOf memForm i.2.2 != .stack &&
      (let f := { memForm with off := 2 }
       issues (scratchPath i.2.1 i.2.2) (!i.2.2) (i.1 f) handled0 && hasHandler handled0 0 &&
         (activeLanes handled0 0).find? (fun l =>
           !scratchOk handled0 0 (spaceOf f i.2.2) (memAddr (me handled0) f l) (memSize f)) == some 0)) = true := by decide +kernel

theorem test_wit_peer_issue :
    [true, false].all (fun isLoad =>
      issues (if isLoad then some 2 else none) false (if isLoad then .pld memForm else .pst memForm) start &&
        (activeLanes start 0).all (fun l => decide (memAddr (me start) memForm l % (memSize memForm : Int) = 0)) &&
        !peerFull start 0 ((activeLanes start 0).map (memAddr (me start) memForm)) && decide (activeLanes start 0 ≠ []) &&
        issues (if isLoad then some 2 else none) false (if isLoad then .pld memForm else .pst memForm) idle &&
        decide (activeLanes idle 0 = [])) = true := by decide +kernel

/-- Window 0 of core 0 is open on line 0 of team 0. -/
def windowed (s : State) : State := { s with sync := { s.sync with windows := [(0, some { team := 0, line := 0, single := false, writer := 0 })] } }
theorem test_wit_peer_at_owner :
    [OpKind.peerLoad, .peerStore].all (fun k =>
      let s := windowed (flying [{ g := 0, kind := k, lanes := [lane4 0 7] }])
      (op s 0).lanes.any (fun q => q.lane == 3) && laneReady s 0 (laneReq (op s 0) 3) && !peerRefused s (op s 0) (laneReq (op s 0) 3) &&
        (peerLoc s (coreOf s 0) 0).isSome && (windowAt s (peerKey (coreOf s 0) 0)).all (fun w => (team s w.team).phase != .parked)) = true ∧
    (let s := flying [{ g := 0, kind := .peerLoad, lanes := [lane4 0 7] }]
     peerRefused s (op s 0) (laneReq (op s 0) 3) = true ∧ laneReady s 0 (laneReq (op s 0) 3) = true) := by decide +kernel
theorem test_wit_calm : calm (windowed (flying [{ g := 0, kind := .peerLoad, lanes := [lane4 0 7] }])) :=
  ⟨⟨rfl, rfl⟩, rfl, rfl, by intro x hx; rw [List.mem_singleton.mp hx]; rfl⟩

def ctlForm : FmtE := { decodeE 0 with d := 8, a := 4, b := 6, op := 0xC000 }
/-- Every entry of core 0 is open on another line. -/
def allOpen : State :=
  { start with sync := { start.sync with windows := (List.range 64).map (fun e => (e, some { team := 0, line := 1024, single := false, writer := 0 })) } }
/-- Every entry of core 0 is open, entry 5 on line 0. -/
def allOpenTie : State :=
  { start with sync := { start.sync with windows := (List.range 64).map (fun e =>
    (e, some { team := 0, line := if e = 5 then 0 else 1024, single := false, writer := 0 })) } }
theorem test_wit_window_tie :
    issues none false (.wopen ctlForm) allOpenTie = true ∧ (eA ctlForm allOpenTie).toNat = 0 ∧ (eB ctlForm allOpenTie).toNat < 8 ∧
      (windowAt allOpenTie (64 * coreOf allOpenTie 0 + 5)).map (fun w => (w.team, w.line)) = some ((me allOpenTie).team, 0) ∧
      (∀ e, e < 64 → (windowAt allOpenTie (64 * coreOf allOpenTie 0 + e)).isSome = true) ∧
      (∃ e, e < 64 ∧ windowAt (windowed start) (64 * 0 + e) = none) := by
  refine ⟨?_, ?_, ?_, ?_, ?_, 1, by omega, rfl⟩ <;> decide +kernel
theorem test_wit_windows :
    issues none false (.wopen ctlForm) start = true ∧ (eA ctlForm start).toNat = 0 ∧ (eB ctlForm start).toNat = 0 ∧
      (teamOf start 0).allocSize = 4096 ∧ coreOf start 0 = 0 ∧
      (List.range 64).find? (fun e => (windowAt start (64 * 0 + e)).isNone) = some 0 ∧
      (∀ d, d < 64 → windowAt start (64 * 0 + d) = none) ∧
      issues none false (.wopen ctlForm) allOpen = true ∧ (∀ d, d < 64 → (windowAt allOpen (64 * 0 + d)).map (·.line) = some 1024) ∧
      issues none false (.wopen ctlForm) (windowed start) = true ∧
      (windowAt (windowed start) 0).map (fun w => (w.team, w.line)) = some ((me start).team, 0) ∧
      issues none false (.wclose { decodeE 0 with a := 4, op := 0x8000 }) (windowed start) = true ∧
      rangeQuiet (windowed start) 0 (locTeam 0 ((teamOf start 0).allocBase + 0)) 128 = true ∧
      issues none false (.wclose { decodeE 0 with a := 4, op := 0x8000 }) start = true ∧ (me start).intrap = false := by decide +kernel

theorem test_wit_landing :
    (let s := flying [{ g := 0, kind := .load 0, lanes := [lane4 16 0], got := [(3, 7)], dv := [5], performed := 8 }]
     landable (op s 0) = true ∧ ((op s 0).got.map (·.1)).Nodup ∧ (op s 0).dv.Nodup ∧ (op s 0).g < s.groups.length) ∧
    (let s := flying [{ g := 0, kind := .load 0, lanes := [lane4 16 0], dv := [5] }]
     laneReady s 0 (lane4 16 0) = true ∧ laneIn 8 3 = true ∧ (op s 0).got = [] ∧ (op s 0).path ≠ some 0) ∧
    ([false, true].all (fun k => let s := flying [{ g := 0, kind := .store true, stk := k, lanes := [lane4 (locTeam 0 16) 9] }]
      laneReady s 0 (lane4 (locTeam 0 16) 9) && !ownerRefused s (grp s 0).team (locTeam 0 16) 4)) = true := by decide +kernel


/-! ## Witnesses: atomics and synchronisation -/

/-- s[4:5] holds the address of the team's scratchpad, s[6:7] that of the die segment. -/
def addressed (s : State) : State := modGrp s 0 (fun x => setSreg 5 0x50000000 (setSreg 7 0x40000000 x))
def atForm : FmtA := { decodeA 0 with d := 8, a := 4, b := 10, ka := true, ret := true, kb := true, op := 0 }
/-- Lanes of a team address in a core's own scratchpad. -/
def home4 : Nat → Nat × Bool := fun _ => (locTeam 0 0, false)
/-- Value of an answer. -/
def goodLoc : Except AccErr (Nat × Bool) → Option (Nat × Bool)
  | .ok p => some p
  | .error _ => none

theorem test_wit_atomics :
    let s := addressed start
    [(Instr.atop atForm, 4), (.atcas { atForm with c := 12, kc := true, op := 0x10 }, 4),
      (.atcas128 { atForm with d := 8, b := 12, c := 16, kc := true, op := 0 }, 16)].all (fun p =>
      issues (some 5) true p.1 s && decide (activeLanes s 0 ≠ []) && (activeLanes s 0).all (fun l =>
        goodLoc (atomLoc s 0 true (addrA (me s) atForm l) p.2 atomNeed).2 == some (home4 l))) = true ∧ s.bad = [] ∧ s.poundSize = 0 := by
  decide +kernel
theorem test_wit_atomic_home :
    (let s := flying [{ g := 0, kind := .atop 0 0, path := some 5, lanes := [lane4 (locTeam 0 0) 3] }]
     atomReady s 0 3 = true ∧ (op s 0).stamp = none) ∧
    (let s := flying [{ g := 0, kind := .atop 0 0, path := some 5, stamp := some (0, 0), lanes := [lane4 (locTeam 0 0) 3] }]
     atomReady s 0 3 = true ∧ floorsReach s 0 = true ∧
       (homesUnder s (locTeam 0 0) 4).all (firstAtHome s (0, 0)) = true) := by decide +kernel

/-- A parameter block of two words of the die segment, at offset 0 of the team's scratchpad. -/
def blocked : State :=
  let a := locTeam 0 0
  let s := addressed segmented
  { s with mem := writeLE (writeLE (writeLE (writeLE s.mem a 8 2) (a + 8) 8 0x4000000000000000) (a + 32) 8 0x4000000000000008) (a + 24) 8 5 }
/-- An `mcas` on its way. -/
def swapping (st : Nat) (rs : List LaneReq) : Op := { g := 0, kind := .mcas, path := some 5, du := [8], stamp := some (0, 0), stage := st, lanes := rs }
def asked : LaneReq := { lane := 0, addr := locTeam 0 0, named := 0x5000000000000000, data := 0, cmp := 0 }
def swapped (a : Nat) (l : Nat) : LaneReq := { lane := l, addr := locDie 0 a, named := a, data := 5, cmp := 0 }
def swapForm : FmtA := { decodeA 0 with d := 8, a := 4, ka := true, scope := 4, order := 4, ret := true }
def swapAt (st : Nat) (rs : List LaneReq) : State := { blocked with ops := [swapping st rs], clock := 9 }

theorem test_wit_mcas_issue :
    issues (some 5) true (.mcas swapForm) blocked = true ∧ activeMask blocked 0 ≠ 0 ∧
      issues (some 5) true (.mcas swapForm) idle = true ∧ activeMask idle 0 = 0 := by decide +kernel
theorem test_wit_mcas_steps :
    (let s := swapAt 0 [asked]
     mayPerform s 0 asked = true ∧ unlocked s 0 asked.addr 200 = true ∧ (op s 0).block = [] ∧ (match (mcasRead s 0).2 with
       | .ok blk => (mcasCheck s 0 blk).2.isOk
       | .error _ => false) = true) ∧
    mcasFirst (swapAt 1 [asked]) 0 = true ∧
    (let s := swapAt 2 [swapped 0 0, swapped 128 1]
     (mcasKeys (op s 0))[0]? = some (locDie 0 0) ∧ unlocked s 0 (locDie 0 0) 128 = true ∧ (mcasKeys (op s 0)).length = 2) ∧
    (let s := swapAt 2 [swapped 0 0, swapped 8 1]
     (mcasKeys (op s 0))[0]? = some (locDie 0 0) ∧ (mcasKeys (op s 0)).length = 1 ∧ (∀ r ∈ (op s 0).lanes, rd s r.addr 8 = r.cmp) ∧
       (op s 0).lanes.Pairwise (fun p q => p.addr + 8 ≤ q.addr ∨ q.addr + 8 ≤ p.addr)) ∧
    (let s := swapAt 2 [swapped 0 0, { swapped 8 1 with cmp := 1 }]
     ∃ r ∈ (op s 0).lanes, rd s r.addr 8 ≠ r.cmp) ∧
    (let s := { swapAt 2 [] with ops := [{ swapping 2 [swapped 0 0, swapped 8 1] with records := 1 }], clock := 4000 }
     (op s 0).records ≠ 0 ∧ (op s 0).askedAt + 4 * lockBound s ((mcasKeys (op s 0)).getD 0 0) ≤ s.clock) := by decide +kernel

def redForm : FmtA := { atForm with d := 0, ret := false }
/-- An entry of team 0, and a buffer without room. -/
def entry : RedEntry :=
  { team := 0, partition := 0, gid := 0, g := 0, lane := 0, oper := 0, ty := 0, addr := locTeam 0 0, named := 0x5000000000000000, data := 3 }
def buffered (n : Nat) (s : State) : State := { s with sync := { s.sync with redb := List.replicate n entry } }
theorem test_wit_redb :
    (let s := addressed start
     issues none false (.redb redForm) s = true ∧ redbCount s 0 (partitionOf s 0) + (activeLanes s 0).length ≤ redbMax ∧
       (activeLanes s 0).all (fun l => goodLoc (atomLoc s 0 true (addrA (me s) redForm l) 4 atomNeed).2 == some (home4 l)) = true) ∧
    (let s := buffered 2048 (addressed start)
     issues none false (.redb redForm) s = true ∧ redbMax < redbCount s 0 (partitionOf s 0) + (activeLanes s 0).length) ∧
    issues none false (.redf (decodeA 0)) start = true ∧ (me start).team < start.teams.length := by decide +kernel
theorem test_wit_drain :
    let s := buffered 1 (modTeam (withGroup (fun x => { x with wait := { code := 9, obj := 0, opnd := 0 }, drained := true })) 0
      (fun x => { x with drains := [(0, 1)] }))
    nextEntry s 0 [] ((drainOrder s 0).filter (fun e => decide (e.no < 1))) = some entry ∧ (team s 0).drains = [(0, 1)] ∧
      drainOrder { s with sync := { s.sync with redb := [] } } 0 = [] ∧ (grp s 0).wait.code = 9 ∧
      onCore s 0 = true ∧ (grp s 0).drained = true := by decide +kernel

/-- Waits until the word differs from s10 (0), under the mask in s12. -/
def waitForm (c : BitVec 14) : FmtA := { atForm with a := 6, ret := false, b := 10, c := 12, kc := true, op := c }
def armedNow : Armed := { home := homeOf start (locDie 0 0), addr := locDie 0 0, size := 4, g := 0, dreg := 8, cond := 1, isSigned := true,
                          expected := 0, mask := 0xFFFFFFFF }
theorem test_wit_waita :
    (let s := addressed segmented
     [0, 1].all (fun c => issues none true (.waita (waitForm c)) s &&
       goodLoc (atomLoc s 0 false (spair (me s) 6).toNat 4 { read := true, atom := true }).2 == some (locDie 0 0, false) &&
       unlocked s noOp (locDie 0 0) 4 && clearBefore s s.ops.length { g := 0, kind := .load 0, size := 4 }
         { lane := 0, addr := locDie 0 0, named := 0, data := 0, cmp := 0 }) = true ∧
     (let s := { s with ops := [{ g := 0, kind := .store false, lanes := [lane4 (locDie 0 0) 9] }] }
      issues none true (.waita (waitForm 0)) s = true ∧ clearBefore s s.ops.length { g := 0, kind := .load 0, size := 4 }
         { lane := 0, addr := locDie 0 0, named := 0, data := 0, cmp := 0 } = false) ∧
     armedTest { armedNow with cond := 0, mask := 0 } (rd s (locDie 0 0) 4) = true ∧
       armedTest { armedNow with mask := 0 } (rd s (locDie 0 0) 4) = false ∧
     homeOf s (locDie 0 0) ≠ 4000) ∧
    (let s := flying [{ g := 0, kind := .store false, lanes := [lane4 (locDie 0 0) 9] }]
     laneReady s 0 (lane4 (locDie 0 0) 9) = true ∧ ownerRefused s 0 (locDie 0 0) 4 = false ∧ isParked s 0 = false ∧
       armedTest armedNow (rd (wr s (locDie 0 0) 4 9) (locDie 0 0) 4) = true) := by decide +kernel

def fenceForm (o sc : BitVec 3) : FmtA := { decodeA 0 with order := o, scope := sc }
/-- A store to the team's scratchpad is on its way. -/
def storing : State := flying [{ g := 0, kind := .store false, lanes := [lane4 (locTeam 0 16) 9] }]
theorem test_wit_fences :
    issues none true (.fence (fenceForm 3 1)) start = true ∧ fenceClear start 0 3 1 = true ∧
    issues none true (.fence (fenceForm 3 1)) storing = true ∧ fenceClear storing 0 3 1 = false ∧
    issues none true (.fence (fenceForm 4 4)) start = true ∧
    (let s := withGroup (fun x => { x with wait := { code := 10, obj := 0, opnd := 3 + 16 } })
     onCore s 0 = true ∧ fenceClear s 0 3 1 = true ∧ scFenceOf s 0 = none) ∧
    (let s := { withGroup (fun x => { x with wait := { code := 10, obj := 0, opnd := 4 + 64 } }) with
                ops := [{ g := 0, kind := .scFence, stamp := some (0, 0) }] }
     fenceClear s 0 4 4 = true ∧ scFenceOf s 0 = some 0 ∧ floorsReach s 0 = true ∧
       (∀ y ∈ s.ops, y.kind = .scFence → inTransit y = true → stampBefore (stampOf y) (stampOf (op s 0)) = false)) := by decide +kernel

/-- s4 names team flight 2; the flight has the group as a member of a mode. -/
def named2 (m : Option Nat) (e : Bool) (s : State) : State :=
  let s := modGrp s 0 (setSreg 4 0x80000002)
  match m with
  | none => s
  | some m => setFlight s (teamFlight 0 2) { members := [{ who := .group 0, mode := m, early := e }] }
def oneForm (d b : Byte) (kb : Bool) : FmtE := { decodeE 0 with d, a := 4, b, op := if kb then 0xC000 else 0x8000 }
theorem test_wit_flights :
    (let s := named2 none false start
     flightWord s 0 (eA (oneForm 8 6 true) s).toNat = .flight (teamFlight 0 2) 1 ∧ issues none false (.flreg (oneForm 8 6 true)) s = true ∧
       (eB (oneForm 8 6 true) s).toNat ≤ 2 ∧ memberOf (flight s 2) (.group 0) = none) ∧
    (let s := named2 (some 0) false start
     issues none false (.fldrop (oneForm 0 0 false)) s = true ∧ (memberOf (flight s 2) (.group 0)).isSome = true ∧
       dropHeld s 0 2 = false ∧ issues none false (.flarr (oneForm 8 0 false)) s = true ∧ memberIs s 2 signaller = true ∧
       arrivalClear s 0 2 1 s.ops.length = true ∧ resultsIn s 0 s.ops.length = true ∧ earlySet (flight s 2) (.group 0) = false ∧
       issues none false (.flreg (oneForm 8 6 true)) s = true ∧ (me s).intrap = false) ∧
    (let s := named2 (some 0) true start
     issues none false (.flarr (oneForm 8 0 false)) s = true ∧ earlySet (flight s 2) (.group 0) = true) ∧
    (let s := named2 (some 0) false storing
     issues none false (.flarr (oneForm 8 0 false)) s = true ∧ arrivalClear s 0 2 1 s.ops.length = false) ∧
    (let s := named2 (some 0) false (flying [{ g := 0, kind := .load 0, lanes := [lane4 16 0], dv := [5] }])
     issues none false (.fldrop (oneForm 0 0 false)) s = true ∧ resultsIn s 0 s.ops.length = false) := by decide +kernel
/-- The group's clause has one instruction, i. -/
def holding (i : Instr) (s : State) : State := modGrp s 0 (fun x => { x with words := [encode i] })
/-- Its phase is 1. -/
def phase1 (b : Option Nat) (s : State) : State := setFlight s 2 { flight s 2 with phase := 1, broken := b }
theorem test_wit_flight_waits :
    (let s := named2 (some 2) false handled0
     issues none false (.flwait (oneForm 0 6 true)) s = true ∧ memberIs s 2 (fun m => m.mode != 0) = true ∧
       phasePassed (flight s 2).phase (eB (oneForm 0 6 true) s) = false ∧ (flight s 2).broken = none ∧
       issues none false (.flwait (oneForm 0 6 true)) (phase1 none s) = true ∧
       phasePassed (flight (phase1 none s) 2).phase (eB (oneForm 0 6 true) s) = true ∧
       (let t := setFlight s 2 { flight s 2 with broken := some 3 }
        issues none false (.flwait (oneForm 0 6 true)) t = true ∧ hasHandler t 0 = true ∧
          phasePassed (flight t 2).phase (eB (oneForm 0 6 true) t) = false) ∧
       issues none false (.fladv (oneForm 8 0 false)) s = true ∧ memberIs s 2 (fun m => m.mode == 2) = true ∧
       phasePassed (arrive (flight s 2) (.group 0)).phase (flight s 2).phase = true) ∧
    (let s := named2 (some 2) false handled0
     let t := setFlight s 2 { members := (flight s 2).members ++ [{ who := .group 7, mode := 0 }] }
     issues none false (.fladv (oneForm 8 0 false)) t = true ∧
       phasePassed (arrive (flight t 2) (.group 0)).phase (flight t 2).phase = false) ∧
    (let s := (phase1 none (modGrp (named2 (some 0) false start) 0
        (fun x => { x with waitPc := x.pc, wait := { code := 1, obj := 0x80000002, opnd := 0 } })))
     let s := holding (.flarr (oneForm 8 0 false)) (modGrp s 0 (fun x => { x with waitEarly := true }))
     onCore s 0 = true ∧ phasePassed (flight s 2).phase 0 = true ∧ instrAt s 0 = some (.flarr (oneForm 8 0 false)) ∧
       (grp s 0).waitEarly = true ∧ earlySet (flight s 2) (.group 0) = false ∧ arrivalClear s 0 2 1 s.ops.length = true) ∧
    (let s := named2 (some 2) false storing
     issues none false (.fladv (oneForm 8 0 false)) s = true ∧ memberIs s 2 (fun m => m.mode == 2) = true ∧
       arrivalClear s 0 2 1 s.ops.length = false) ∧
    (let s := named2 (some 2) true start
     issues none false (.fladv (oneForm 8 0 false)) s = true ∧ arrivalClear s 0 2 1 s.ops.length = true ∧
       earlySet (flight s 2) (.group 0) = true) := by decide +kernel

/-- A landing at offset 0 of the team's scratchpad whose phase bit is 1. -/
def landed (s : State) : State := { s with mem := writeLE s.mem (locTeam 0 8) 4 1 }
theorem test_wit_landings :
    issues none false (.binit (oneForm 0 6 true)) start = true ∧ issues none false (.bxp (oneForm 0 6 true)) start = true ∧
      landingBad start 0 0 = false ∧ (eA (oneForm 0 6 true) start).toNat = 0 ∧
    (let s := flying [{ g := 0, kind := .landing true, lanes := [{ lane4 (locTeam 0 0) 9 with lane := 0 }] }]
     laneReady s 0 { lane4 (locTeam 0 0) 9 with lane := 0 } = true) ∧
    issues none false (.bwait (oneForm 0 6 true)) start = true ∧
    (landingReady start 0 (landingLoc start 0 0) 0 = true ∨ landingReady start 0 (landingLoc start 0 0) 0 = false) ∧
    landingReady start 0 (landingLoc start 0 0) 0 ≠ landingReady (landed start) 0 (landingLoc start 0 0) 0 ∧
    issues none true (.waitp { oneForm 0 0 false with op := 0x8000 }) start = true ∧ counter (me start).counters 0 ≤ 0 ∧
    (let s := withGroup (fun x => { x with counters := raised (some 0) x.counters })
     issues none true (.waitp { oneForm 0 0 false with op := 0x8000 }) s = true ∧ 0 < counter (me s).counters 0) ∧
    onCore start 0 = true := by decide +kernel


/-! ## Witnesses: decoding and stepping -/

/-- A second group of team 0, and a stream of it at a `mnop`. -/
def crowded : State :=
  let s := { start with groups := start.groups ++ [{ me start with gid := 1 }] }
  { s with runs := [{ team := 0, g := 0, first := 0x10008, pc := 0x10008 }],
           codes := s.codes.map (fun c => { c with mstream := (0x10008, 0x10010) }) }
theorem test_wit_step :
    (match (me start).clause with
      | none => false
      | some c => nothingDue start && mayTurn start 0 && !bitOf c.pair (pcIndex (me start).pc) && (match wordAt (me start) 0 with
        | none => false
        | some w => (match decode (toBytesLE 8 w.toNat) with
            | .ok (i, rest) => i == .nop (decodeT 0) && rest == []
            | _ => false) && !misplaced c (pcIndex (me start).pc) w)) = true ∧
    start.agenda = [] ∧
    (let s := actAs (setAgenda { crowded with agenda := [.group 1, .clocks 1 0] } [.clocks 1 0]) 1
     (me s).clause.isSome = true ∧ nothingDue s = true) ∧
    (let s := actAsCore (poke 8 0x0B00000000000000 crowded) 0
     runOn s 0 = some 0 ∧ (actingRun s).isSome = true ∧ (streamFetch s 0).2.toOption = some 0x0B00000000000000 ∧
       decodeStream 0x0B00000000000000 = some (.mnop (decodeZ 0))) ∧
    (Instr.fenceComplete 0).isGroup = false ∧ (Instr.fenceComplete 0).isStream = false ∧
    (codeOf start 0).flat = false ∧ codePhys (codeOf start 0) 0x10008 = some 8 := by decide +kernel
/-- A clause of two `nop` that issue together. -/
def paired : State :=
  { start with
    groups := start.groups.map (fun x =>
      { x with clause := some { cls := 0, count := 2, wpath := 7, wthresh := 0, pair := 1, yield := false }
               words := [some 0x6104010200000000, some 0xA207030500100000] })
    codes := start.codes.map (fun c => { c with text := (0x10000, 0x10020) }) }
theorem test_wit_pair :
    (match pickedUp paired 0 with
      | .two i j => (match exec i (pairFirst paired 0) with
        | .next t => (match exec j (pairSecond t 0) with
          | .next _ => true
          | _ => false)
        | _ => false)
      | _ => false) = true := by decide +kernel

/-! ## Witnesses: tow commands -/

/-- A descriptor of two rows of `len` units: source, destination, control, and a dword at 0x50. -/
def descr (src dst ctl x50 rows len : Nat) : List Byte :=
  toBytesLE 8 src ++ toBytesLE 8 dst ++ toBytesLE 4 ctl ++ toBytesLE 4 rows ++ toBytesLE 4 len ++ toBytesLE 4 0 ++ toBytesLE 8 16 ++
    toBytesLE 8 16 ++ toBytesLE 32 0 ++ toBytesLE 8 x50 ++ toBytesLE 40 0
def spotA : Nat := 0x5000000000000100
def spotB : Nat := 0x5000000000000200
/-- s4 holds 64, the offset of a descriptor that names two rows of 16 bytes; s6 0, that of a landing. -/
def towing : State :=
  let s := modGrp handled0 0 (setSreg 4 64)
  { s with mem := writeBytes s.mem (locTeam 0 64) (descr spotA spotB 0 0 2 16) }
def towForm : FmtE := { decodeE 0 with a := 4, b := 6 }
/-- A command of the group. -/
def aTow (oper : Nat) (ph : CommandPhase) (bs : List Byte) : Tow :=
  { oper, g := 0, desc := locTeam 0 64, named := 0x5000000000000040, landing := locTeam 0 0, before := 0, bytes := bs, phase := ph }
def fullQueue (s : State) : State := { s with tows := List.replicate 128 (aTow 0x90 .queued []) }
/-- The group waits for a place in the queue, its clause the one instruction i. -/
def awaitingTow (i : Instr) (s : State) : State :=
  holding i (modGrp s 0 (fun x => { x with wait := { code := 11, obj := 0, opnd := 0 } }))

theorem test_wit_tow_issue :
    towForms.all (fun r => issues none false (r.1 towForm) towing && towPlaced r.2 towForm 0 towing &&
      decide (towQueued towing 0 < 128) && issues none false (r.1 towForm) (fullQueue towing) &&
      towPlaced r.2 towForm 0 (fullQueue towing) && decide (128 ≤ towQueued (fullQueue towing) 0) &&
      towClear r.2 towForm 0 towing &&
      (let s := modGrp towing 0 (setSreg 4 65)
       issues none false (r.1 towForm) s && hasHandler s 0 && decide (towOff towForm (me s) % 64 ≠ 0)) &&
      (let s := { towing with ops := [{ g := 0, kind := .store false, lanes := [lane4 (locTeam 0 64) 9] }] }
       issues none false (r.1 towForm) s && !towClear r.2 towForm 0 s) &&
      (let s := awaitingTow (r.1 towForm) towing
       onCore s 0 && instrAt s 0 == some (r.1 towForm) && towPlaced r.2 towForm 0 s && (waitingTow s 0).isNone)) = true ∧
    towRejected 0x90 towForm 0 towing = none ∧ (towRejected 0x90 towForm 0 (modGrp towing 0 (setSreg 4 128))).isSome = true ∧
    (let s := awaitingTow (.tcopy towForm) { towing with tows := [aTow 0x90 .waiting []] }
     waitingTow s 0 = some 0 ∧ towQueued s 0 < 128) := by decide +kernel

def towState (c : Tow) : State := { towing with tows := [c], clock := 9 }
def reached : Reach (List Piece) → List (Nat × Nat)
  | .ok _ ps => ps.map (fun p => (p.loc, p.len))
  | .stop _ => []

theorem test_wit_tow_start :
    (let s := { towState (aTow 0x90 .reading []) with
                ops := [{ g := 0, kind := .descriptor 0, size := 64, lanes := [{ lane4 (locTeam 0 64) 0 with lane := 0 }] }] }
     s.ops.findIdx? (fun x => x.kind == .descriptor 0 && !x.finished) = some 0 ∧ isHeld s (.tow 0) = false ∧
       laneReady s 0 (laneReq (op s 0) 0) = true) ∧
    (let c := aTow 0x90 .queued (descr spotA spotB 0 0 2 0)
     (towChecks c).find? (·.2) = some (0x18, true) ∧ c.acq = none ∧ towAcquired (towState c) c = true) ∧
    (let c := aTow 0x92 .queued (descr spotA spotB 0 0 2 16)
     portAdmits (towState c) 0 = true ∧ reachable (towState c) c = true) ∧
    (let c := aTow 0x90 .queued (descr spotA spotB 0 0 2 16)
     (towChecks c).find? (·.2) = none ∧ badSpan (towState c) c = none ∧ tMode c ≠ 3) ∧
    (let c := aTow 0x90 .queued (descr (spotA + 0x10000000) spotB 0 0 2 16)
     (badSpan (towState c) c).isSome = true) := by decide +kernel

/-- What comes next of a command of one job, whichever one the module picks. -/
theorem towNext_one (s : State) (c : Tow) (f : Nat) (h : tRows c * jobsOfRow c = 1) : towNext s c f = jobAccess s c f 0 := by
  simp [towNext, h, Nat.mod_one, List.range_succ]
/-- The next access of a job that has one range to read, or one to write. -/
theorem jobAccess_one (s : State) (c : Tow) (f : Nat) (job : Job) (r w : List Nat) (h : c.finished.contains 0 = false)
    (hi : (rowIndex c (0 / jobsOfRow c)).isNone = false) (hj : jobAt c 0 = some job) (ho : c.oper ≠ 0x92)
    (hr : (List.range job.reads.length).filter (fun k => !c.brought.any (fun p => p.1 == (0, k))) = r)
    (hw : (List.range job.writes.length).filter (fun k =>
      !c.wrote.contains (0, k) && lastToWrite s c 0 (job.writes.getD k (0, 0)) && unitReady s c (job.writes.getD k (0, 0))) = w) :
    jobAccess s c f 0 = match pickOf f r with
      | some k => some (.read 0 k (job.reads.getD k (0, 0)).1 (job.reads.getD k (0, 0)).2)
      | none => (pickOf f w).map (fun k => .write 0 k (job.writes.getD k (0, 0)).1 (job.writes.getD k (0, 0)).2) := by
  cases hp : pickOf f r <;> simp only [jobAccess, h, hi, hj, hr, hw, hp, Option.bind_some, if_neg ho, Bool.false_eq_true, if_false]
theorem pickOf_one (f a : Nat) : pickOf f [a] = some a := by simp [pickOf, Nat.mod_one]
theorem pickOf_none (f : Nat) : pickOf f ([] : List Nat) = none := by simp [pickOf]
/-- A command of one row of one byte, with what it has read; of one element for `txform`. -/
def oneJob (oper : Nat) (rd : List ((Nat × Nat) × List Byte)) : Tow :=
  { aTow oper .running (descr spotA spotB 0 (if oper = 0x91 then 0x3F800000 else 0) 1 1) with brought := rd }
theorem test_wit_tow_read (f : Nat) : towNext (towState (oneJob 0x90 [])) (oneJob 0x90 []) f = some (.read 0 0 spotA 1) ∧
    towNext (towState (oneJob 0x91 [])) (oneJob 0x91 []) f = some (.read 0 0 spotA 4) := by
  constructor <;> rw [towNext_one _ _ _ (by decide +kernel)]
  · rw [jobAccess_one _ _ f { reads := [(spotA, 1)], writes := [(spotB, 1)] } [0] [0], pickOf_one] <;> decide +kernel
  · rw [jobAccess_one _ _ f { reads := [(spotA, 4)], writes := [(spotB, 4)] } [0] [0], pickOf_one] <;> decide +kernel
theorem test_wit_tow_write (f : Nat) :
    towNext (towState (oneJob 0x90 [((0, 0), [7])])) (oneJob 0x90 [((0, 0), [7])]) f = some (.write 0 0 spotB 1) ∧
    towNext (towState (oneJob 0x94 [])) (oneJob 0x94 []) f = some (.write 0 0 spotB 1) ∧
    towNext (towState { oneJob 0x94 [] with finished := [0] }) { oneJob 0x94 [] with finished := [0] } f = none := by
  refine ⟨?_, ?_, ?_⟩ <;> rw [towNext_one _ _ _ (by decide +kernel)]
  · rw [jobAccess_one _ _ f { reads := [(spotA, 1)], writes := [(spotB, 1)] } [] [0], pickOf_none, pickOf_one] <;> decide +kernel
  · rw [jobAccess_one _ _ f { reads := [], writes := [(spotB, 1)] } [] [0], pickOf_none, pickOf_one] <;> decide +kernel
  · rfl
/-- A gather of one row of one byte, whose index stands at spot A plus 64. -/
def gathering : Tow :=
  aTow 0x90 .running (toBytesLE 8 spotA ++ toBytesLE 8 spotB ++ toBytesLE 4 2 ++ toBytesLE 4 1 ++ toBytesLE 4 1 ++ toBytesLE 4 0 ++
    toBytesLE 8 16 ++ toBytesLE 8 16 ++ toBytesLE 8 (spotA + 64) ++ toBytesLE 72 0)
theorem test_wit_tow_index (f : Nat) : towNext (towState gathering) gathering f = some (.index 0) := by
  rw [towNext_one _ _ _ (by decide +kernel)]
  rfl
theorem test_wit_tow_ranges :
    ([(0x90, false, spotA, 1, 256), (0x91, false, spotA, 4, 256), (0x90, true, spotB, 1, 512), (0x94, true, spotB, 1, 512)] :
        List (Nat × Bool × Nat × Nat × Nat)).all (fun p =>
      let s := towState (oneJob p.1 [])
      reached (towReach (passFree s 1) 0 p.2.1 p.2.2.1 p.2.2.2.1) == [(locTeam 0 p.2.2.2.2, p.2.2.2.1)] && !isHeld s (.tow 0)) = true ∧
    (let c := oneJob 0x90 [((0, 0), [7])]
     jobAt c 0 = some { reads := [(spotA, 1)], writes := [(spotB, 1)] } ∧ (writeBytesOf c 0 0 { reads := [(spotA, 1)], writes := [(spotB, 1)] }).length = 1) ∧
    jobAt (oneJob 0x94 []) 0 = some { reads := [], writes := [(spotB, 1)] } ∧
    (let s := towState gathering
     reached (towReach (passFree s 1) 0 false (spotA + 64 : Nat) 4) = [(locTeam 0 320, 4)] ∧
       rangeOk s (towSpace s gathering) spotA (copyAddrs gathering 0 0).1 1 = true ∧
       rangeOk s (towSpace s gathering) spotB (copyAddrs gathering 0 0).2 1 = true) ∧
    (let c := aTow 0x93 .running (descr spotA spotB 0 0 2 16)
     (match reachTow (towState c) 0 {} (rowAt spotA 16 0) 16 with
       | .ok s ps => decide (s = towState c) && piecesQuiet s c ps
       | .stop _ => false) = true) ∧
    (let c := aTow 0x90 .finishing (descr spotA spotB 0 0 2 16)
     remotesDone (towState c) 0 = true ∧ landingSettled (towState c) c = true ∧
       (c.desc + 0x20 ≤ c.landing ∨ c.landing + 12 ≤ c.desc + 0x1C)) := by decide +kernel

/-! ## Witnesses: the matrix engine -/

/-- A code object with a stream. -/
def streamed (s : State) : State := { s with codes := s.codes.map (fun c => { c with mstream := (0x10008, 0x10010) }) }
/-- s4 names its first word; no holders. -/
def forking : State := streamed (modGrp start 0 (fun x => setSreg 4 0x10008 (setSreg 8 0xFFFFFFFF (setSreg 6 3 x))))
def forkForm : FmtE := { decodeE 0 with d := 0x10, a := 4, b := 6, c := 8 }
theorem test_wit_fork :
    issues none false (.fork forkForm) forking = true ∧ runOn forking 0 = none ∧ forksWaiting forking 0 = [] ∧ forkOk forking forkForm = true ∧
    (let s := modGrp forking 0 (setSreg 4 0)
     issues none false (.fork forkForm) s = true ∧ forkOk s forkForm = false ∧ (me s).team < s.teams.length) ∧
    (let s := { forking with runs := [{ team := 0, g := 0, first := 0x10008, pc := 0x10008 }] }
     issues none false (.fork forkForm) s = true ∧ (runOn s 0).isSome = true ∧ issues none false (.rdv { decodeE 0 with d := 8 }) s = true ∧
       runsEnded s 0 1 = false) ∧
    issues none false (.rdv { decodeE 0 with d := 8 }) start = true ∧ runsEnded start 0 0 = true ∧
    (let s := holding (.fork forkForm) (modGrp forking 0 (fun x => { x with wait := { code := 7, obj := 0x10008, opnd := 0 } }))
     runOn s 0 = none ∧ instrAt s 0 = some (.fork forkForm) ∧ leastBy (fun h => (grp s h).lastIssue) (forksWaiting s 0) = some 0 ∧
       forkOk (actAs s 0) forkForm = true) ∧
    (let s := withGroup (fun x => { x with wait := { code := 8, obj := 0, opnd := 0 } })
     onCore s 0 = true ∧ runsEnded s 0 (grp s 0).waitRuns = true) := by decide +kernel

/-- A run of team 0, which has two tiles. -/
def aRun : Run := { team := 0, g := 0, first := 0x10008, pc := 0x10008, signals := 1, waits := 2, holders := 0xFFFFFFFF }
def running (x : Run) : State :=
  modTeam { start with runs := [x], curCore := 0 } 0 (fun t => { t with hdr := { t.hdr with ztiles := 2 }, tileMap := [0, 1] })
theorem test_wit_stream_words :
    let s := running aRun
    actingRun s = some 0 ∧ (∀ z ∈ tileRun (decodeZ 0), z < (team s 0).hdr.ztiles) ∧ (runAt s 0).writes = [] ∧
      scalarOk 0 false = true ∧ runRange s 0 0 32 32 = true ∧
      (let s := modTeam s 0 (fun t => { t with allocSize := 65536 })
       actingRun s = some 0 ∧ runRange s 0 0 16384 128 = true ∧ mzstOk (decodeZ 0) = true ∧ runRange s 0 0 (512 * codeBits 0) 32 = true ∧
         isMx 0 = false) ∧
      bitOf (runAt s 0).signals 0 = true ∧ bitOf (runAt s 0).waits 1 = true ∧ earlySet (flight s 0) (.run 0) = false ∧
      phasePassed (flight s 1).phase 0 = false ∧ phasePassed (flight (setFlight s 1 { phase := 1 }) 1).phase 0 = true ∧
      scalar (runAt s 0) 0 = 0 ∧ scalar (setScalar 0 5 aRun) 0 = 5 ∧ aRun.loop0.count = 0 ∧ (runAt s 0).team < s.teams.length ∧
      actingRun (running { aRun with loop0 := { start := 0x10010, stop := 0x10020, count := 2 } }) = some 0 ∧
      earlySet (flight (setFlight s 0 { members := [{ who := .run 0, mode := 0, arrived := true, early := true }] }) 0) (.run 0) = true := by
  decide +kernel
theorem test_wit_stream_codes :
    let f : FmtZ := { decodeZ 0 with mods := 0x550000 }
    isMx (zfield f 20 4) = true ∧ (mzstOk { f with mods := 0x500000, c := 2 } = true) := by decide +kernel

/-- A record of bf16 by bf16, and one holder, in quarter 0. -/
def mmaForm : FmtZ := { decodeZ 0 with a := 1, b := 2, mods := 0x400000 }
def multiplying : State :=
  let s := running (setScalar 1 128 { aRun with holders := 0xFFFFFF00 })
  { s with mem := writeLE s.mem (locTeam 0 0) 2 0x0101 }
theorem test_wit_mma :
    let s := multiplying
    actingRun s = some 0 ∧ (0 : Nat) < (team s 0).hdr.ztiles ∧ scalarOk mmaForm.a (zbit mmaForm 13) = true ∧ scalarOk mmaForm.c false = true ∧
      zfield mmaForm 0 12 = 0 ∧ zfield mmaForm 22 2 = 1 ∧ zfield mmaForm 19 3 = 0 ∧ zfield mmaForm 14 4 = 0 ∧ runRange s 0 0 32 32 = true ∧
      (let b := blockRec (readBytes s.mem (runLoc s 0 0) 32)
       recordOk b 1 0 (zbit mmaForm 18) = true ∧ mmaRanges s 0 128 b = true) ∧
      (∀ q, q < 4 → holderBad s 0 2 q = false) ∧ holderOf s 0 0 = some 0 ∧ holderBusy s [(0, holderRegs s 0 2)] = false ∧
      (∀ n ∈ holderRegs s 0 2, backed (grp s 0) n = false) := by decide +kernel
theorem test_wit_mma_later :
    (let s := { running { aRun with reading := some 8 } with clock := 200 }
     (runAt s 0).reading = some 8 ∧ 8 + 192 ≤ s.clock ∧ (runAt s 0).ended = false) ∧
    (let w : TileWrite := { tile := 0, due := 100, values := [(0, 1), (5, 2)] }
     let s := { running { aRun with writes := [w] } with clock := 200 }
     (runAt s 0).writes = [w] ∧ w.due ≤ s.clock ∧ (w.values.map (·.1)).Nodup) := by decide +kernel


/-! ## Witnesses: rays, filtering, quay cores, rasterisation and called units -/

/-- An arena of context 0 on stack 0, over its first megabyte; s4 is 0, s[6:7] names a root at 1024, and lane 3 holds a ray. -/
def arenaed (s : State) : State :=
  modGrp { s with latched := { s.latched with arenas := [(0, { base := 0, length := 0x100000, read := true, write := true, ctx := 0 })] } } 0
    (fun x => setSreg 6 1024 (setVlane 0x23 3 0x3F800000 x))
def rayForm : FmtE := { decodeE 0 with d := 4, a := 0x20, b := 6, c := 8 }
/-- A barge of trace 0. -/
def aBarge (p : BargePlace) : Barge :=
  { trace := 0, lane := 3, ray := [0, 0, 0, 0x3F800000, 0, 0, 0, 0x42C80000], tmax := 0x42C80000, stack := 0, place := p, slot := some 0 }
def aTrace : Trace := { op := 0, area := locTeam 0 0, root := 1024, ctx := 0, stack := 0, flags := 0, mask := 255, count := 1 }
def tracing (n : Nat) (bs : List Barge) : State :=
  { arenaed start with ops := [{ g := 0, kind := .records, path := some 3, records := n }],
                       quay := { traces := [aTrace], barges := bs } }

theorem test_wit_trace :
    (let s := arenaed start
     issues (some 3) false (.trace rayForm) s = true ∧ areaGood rayForm s 32 32 = true ∧ activeLanes s 0 ≠ [] ∧
       traceLanes rayForm s = [3] ∧ raySlotsHeld s 0 + 1 ≤ raySlots ∧ slotWaiters s 0 = []) ∧
    (let s := arenaed { tracing 1 (List.replicate 4096 (aBarge .top)) with groups := start.groups }
     issues (some 3) false (.trace rayForm) s = true ∧ traceLanes rayForm s = [3] ∧ raySlots < raySlotsHeld s 0 + 1) ∧
    (let s := arenaed (holding (.trace rayForm) (withGroup (fun x => { x with wait := { code := 12, obj := 1024, opnd := 1 } })))
     instrAt s 0 = some (.trace rayForm) ∧ leastBy (fun h => (grp s h).lastIssue) (slotWaiters s 0) = some 0 ∧
       raySlotsHeld s 0 + 1 ≤ raySlots ∧ areaGood rayForm (actAs s 0) 32 32 = true ∧
       (traceLanes rayForm (actAs s 0)).length ≤ 1 ∧ activeLanes s 0 ≠ []) := by decide +kernel
theorem test_wit_filter_issue :
    [false, true].all (fun hash =>
      issues (some 3) false (if hash then .qhash { rayForm with c := 8 } else .qfilt { rayForm with c := 0 }) start &&
        areaGood rayForm start 16 (if hash then hashArea 0 else 16) && decide (activeLanes start 0 ≠ [])) = true := by decide +kernel

/-- s[6:7] names a record at 1024, s4 a landing. -/
def pqForm : FmtE := { decodeE 0 with a := 6, b := 4 }
theorem test_wit_pqlaunch :
    (let s := arenaed start
     issues none false (.pqlaunch pqForm) s = true ∧ landingBad s 0 0 = false ∧ (gridOf s 0).privileged = true ∧
       (spair (me s) 6).toNat = 1024 ∧ arenaOk s (stackOverCore (coreOf s 0)) 0 1024 64 true true = true ∧ physOk s.poundSize 1024 64 = true) ∧
    (let s := modGrid start 0 (fun x => { x with privileged := false })
     issues none false (.pqlaunch pqForm) s = true ∧ (gridOf s 0).privileged = false ∧ (me s).intrap = false) := by decide +kernel

/-- A triangle (0,0), (8,0), (0,8) in the first eight pixels, in s[0x20..0x28]; its scissor in s[4:5]. -/
def drawing (k : Word) : State :=
  modGrp start 0 (fun x => setSreg 0x23 0x41000000 (setSreg 0x27 0x41000000 (setSreg 5 0x00080008 (setSreg 8 k x))))
def rastForm : FmtE := { decodeE 0 with d := 0x10, a := 0x20, b := 4, c := 8 }
theorem test_wit_rast :
    (let s := drawing 0xC0000000
     issues none false (.rast rastForm) s = true ∧ rastGood rastForm s = true ∧ bitField (rastK rastForm s) 30 2 = 3) ∧
    (let s := drawing 0
     issues none false (.rast rastForm) s = true ∧ rastGood rastForm s = true ∧
       ((rastGiven rastForm s).any (fun r => !rastDone 0 r && (rastFrom rastForm s r).isSome)) = true ∧
       physRoom s 0 (regSet (((List.range 5).map (16 + ·)).filter (fun n => !regIn (me s).mapped n))) = true) ∧
    (let s := drawing 0x40000000
     issues none false (.rast rastForm) s = true ∧ rastGood rastForm s = true ∧
       ((rastGiven rastForm s).any (fun r => !rastDone 0 r && rastInside rastForm s r)) = true) ∧
    (let s := drawing 0x40000FFF
     issues none false (.rast rastForm) s = true ∧ bitField (rastK rastForm s) 30 2 = 1 ∧ rastShut rastForm s = false ∧
       ((rastGiven rastForm s).any (fun r => !rastDone 0 r && !rastInside rastForm s r)) = true) ∧
    (let s := drawing 0x80000000
     issues none false (.rast rastForm) s = true ∧ rastGood rastForm s = false ∧ (me s).intrap = false) := by decide +kernel

theorem test_wit_rays :
    (let s := tracing 1 [aBarge .formed]
     bargesWith s (fun b => b.trace == 0 && b.place == .formed) ≠ [] ∧ acquired s 0 0 none = true ∧ unlocked s noOp 1024 32 = true) ∧
    (bargeAt (tracing 1 [aBarge .moving]) 0).place = .moving ∧
    (let s := tracing 1 [aBarge .basin]
     freeUnit s 0 = some 0 ∧ chooseBasin s 0 = some 0 ∧ (bargeAt s 0).treelet = 0 ∧
       bargesWith s (fun b => b.place == .top && b.stack == 0) = [] ∧ (takeBarges 0 0 ((basinOf s 0).take 512) s).isSome = true) ∧
    (let s := { tracing 1 [aBarge .top] with quay := { traces := [{ aTrace with dir := 2 ^ 30 }], barges := [aBarge .top] } }
     (bargeAt s 0).place = .top ∧ arenaOk s 0 0 (traceAt s 0).dir 256 true false = false ∧ (topStep s 0).isSome = true) ∧
    (let s := tracing 2 [aBarge .ended]
     (bargeAt s 0).place = .ended ∧ unlocked s noOp (aTrace.area + 32 * 3) 32 = true ∧ 1 < (op s 0).records) ∧
    (let s := { tracing 1 [aBarge .ended] with quay := { traces := [{ aTrace with gen := some 0 }], barges := [aBarge .ended] } }
     (op s 0).records = 1 ∧ (∀ y ∈ s.quay.barges, y.trace = 0 → y.status ≤ 1) ∧
       counterOf 1024 0 + 8 ≤ aTrace.area + 32 * 3) := by decide +kernel

/-- A kernel header of width 8, one role of 8 lanes and a budget of 16, at physical 0x8000. -/
def quayProgram (s : State) : State :=
  { s with mem := writeBytes s.mem 0x8000 (toBytesLE 4 0x4B4D494E ++ toBytesLE 4 0x80000001 ++ toBytesLE 4 0x00100010 ++ toBytesLE 8 0 ++
    toBytesLE 4 0x0100 ++ toBytesLE 8 0 ++ toBytesLE 4 0x000F0008) }
/-- Numbers of a list's elements that satisfy a test, read back. -/
theorem read_filter {α : Type} (l : List α) (d : α) (p : α → Bool) :
    ((List.range l.length).filter (fun i => p (l.getD i d))).map (fun i => l.getD i d) = l.filter p := by
  have h : (List.range l.length).map (fun i => l.getD i d) = l := by
    apply List.ext_getElem <;> simp
    intro i hi
    simp [List.getElem?_eq_getElem hi]
  conv => rhs; rw [← h, List.filter_map]
  rfl
/-- n barges stand in basins of stack 0, and one more comes. -/
def crowdedBasins (n : Nat) : State := tracing 1 (List.replicate n (aBarge .basin) ++ [aBarge .moving])
theorem basins_full (n : Nat) : (inBasins (crowdedBasins n) 0).map (bargeAt (crowdedBasins n)) = List.replicate n (aBarge .basin) := by
  refine (read_filter (List.replicate n (aBarge .basin) ++ [aBarge .moving])
    { trace := 0, lane := 0, ray := [], tmax := 0, stack := 0, place := .landed } (fun b => b.place == .basin && b.stack == 0)).trans ?_
  rw [List.filter_append, List.filter_replicate_of_pos (by rfl)]
  exact List.append_nil _
theorem comes_last (n : Nat) : bargeAt (crowdedBasins n) n = aBarge .moving := by
  simp [bargeAt, crowdedBasins, tracing]
theorem test_wit_spill :
    let s := crowdedBasins 4096; let there := (inBasins s 0).map (bargeAt s)
    (bargeAt s 4096).place = .moving ∧ (bargeAt s 4096).ray.length = 8 ∧
      sramBarges ≤ (there.filter (fun x => x.spill.isNone)).length ∧ lowestFree (there.filterMap (·.spill)) = 0 ∧
      unlocked s noOp (spillSlot s 0 0) 64 = true ∧ unlocked s noOp (spillIndex s 0 0) 4 = true ∧
      (spillSlot s 0 0 + 64 ≤ spillIndex s 0 0 ∨ spillIndex s 0 0 + 4 ≤ spillSlot s 0 0) := by
  dsimp only
  rw [comes_last, basins_full, List.filter_replicate_of_pos (by rfl), List.filterMap_replicate_of_none (by rfl), List.length_replicate]
  exact ⟨rfl, rfl, Nat.le_refl _, rfl, rfl, rfl, by decide +kernel⟩
def aHit : Hit := { t := 0x3F800000, uv := 0, prim := 5, inst := 6 }
theorem test_wit_any_hit_start :
    let s := quayProgram (tracing 1 [{ aBarge .candidate with ahk := 0x8040, cand := some aHit }])
    bargesWith s (fun b => b.place == .candidate && b.stack == 0) = [0] ∧
      (match quayHeader s 0 0 0 0x8040 with
        | (t, .ok h) => decide (10 ≤ (h.roles.headD { lanes := 0, budget := 0 }).budget) && (quayRoom t 0 (allocOf h)).isSome &&
            (quayPlace t 0).isSome
        | _ => false) = true ∧ (bargeAt s 0).ray.length = 8 := by decide +kernel
/-- Group 0 as an any-hit group that has ended, with candidate 0 in lane 3. -/
def decided (v : Word) (left : Bool) : State :=
  modGrp (tracing 1 [{ aBarge (.testing 0 3) with cand := some aHit }]) 0
    (fun x => { x with anyHit := true, ended := true, exited := if left then 8 else 0, exitV0 := [(3, v)] })
theorem test_wit_any_hit_decision :
    [(decided 2 true, true), (decided 0 true, true), (decided 0 false, false)].all (fun p => let s := p.1
      (grp s 0).anyHit && (grp s 0).ended && (bargeAt s 0).place == .testing 0 3 && (bargeAt s 0).cand == some aHit &&
        decide (s.quay.barges.length = 1) && !(grp s 0).stranded && laneIn (grp s 0).exited 3 == p.2) = true ∧
    (exitValue (grp (decided 2 true) 0) 3 = 2 ∧ exitValue (grp (decided 0 true) 0) 3 = 0 ∧
      (goOn (modBarge (decided 0 true) 0 (fun x => { x with cand := none })) 0 false).isSome = true) ∧
    (let s := withGroup (fun x => { x with anyHit := true, issued := 2 ^ 24 })
     spent (grp s 0) = true ∧ (grp s 0).live ≠ 0 ∧ (grp s 0).ending = false ∧ onCore s 0 = true) := by decide +kernel

/-- A texture of one texel, or a hash grid of one level, described at physical 64, and a request for it. -/
def filtering (hash good : Bool) : State :=
  let s := tracing 2 []
  let f : Filter := { op := 0, hash, desc := 64, area := locTeam 0 0, ctx := 0, stack := 0, lanes := [(3, [0, 0, 0]), (4, [0, 0, 0])] }
  { s with quay := { filters := [f] }
           mem := if !good then s.mem else if hash then writeBytes s.mem 64 (toBytesLE 8 0x1000 ++ [1, 10, 2, 0] ++ toBytesLE 4 0 ++ [4])
             else writeBytes s.mem 64 (toBytesLE 8 0x1000 ++ toBytesLE 4 1 ++ toBytesLE 4 1 ++ [0, 1, 0, 0]) }
def aFilter (hash : Bool) : Filter := { op := 0, hash, desc := 64, area := locTeam 0 0, ctx := 0, stack := 0, lanes := [(3, [0, 0, 0]), (4, [0, 0, 0])] }
theorem test_wit_filters :
    (let s := filtering false true
     filterOf s 0 = some 0 ∧ filterReady s (aFilter false) 3 16 = true ∧ 1 < (op s 0).records ∧
       (match ((texRecord (aFilter false) [0, 0, 0]).run).run s with
         | (.ok b, t) => decide (t = s) && decide (b.length = 16)
         | _ => false) = true) ∧
    (let s := filtering false false
     (match ((texRecord (aFilter false) [0, 0, 0]).run).run s with
         | (.error _, t) => decide (t = s)
         | _ => false) = true) ∧
    (let s := filtering true true
     filterOf s 0 = some 0 ∧ (match ((hashSetup (aFilter true)).run).run s with
         | (.ok (some h, false), t) => decide (t = s) && filterReady s (aFilter true) 3 (hashSize h 0) &&
             (match ((hashRecord (aFilter true) h [0, 0, 0]).run).run s with
               | (.ok _, u) => decide (u = s)
               | _ => false)
         | _ => false) = true) := by decide +kernel

/-- A `pqlaunch` whose grid has no groups left to place or to wait for. -/
def launching : State :=
  { start with tows := [{ aTow 0xFE .finishing [] with desc := 2048 }], grids := start.grids ++ [{ entry := 0, code := 0, hdr := {}, pq := some 0 }] }
theorem test_wit_pqlaunch_complete :
    (List.range launching.grids.length).find? (fun i => (grid launching i).pq == some 0) = some 1 ∧ (towOf launching 0).phase = .finishing ∧
      (∀ g ∈ gridGroups launching 1, (grp launching g).stranded = false) ∧ unlocked launching noOp 2048 64 = true ∧
      2048 + 0x20 ≤ (towOf launching 0).landing := by decide +kernel

/-- The grid has domain 0, and a graph whose node 0 stands at physical 0x3000. -/
def granted (s : State) : State := modGrid s 0 (fun x => { x with domains := 1 })
def counting (n : Nat) : State :=
  { granted start with ops := [{ g := 0, kind := .token 0 0, du := [8] }], units := { start.units with counts := [(screenKey 0 0, n)] } }
def tokForm : FmtE := { decodeE 0 with d := 8, a := 4, b := 6 }
def skipForm : FmtE := { decodeE 0 with a := 4, b := 6, op := 3 }
theorem test_wit_tokens :
    issues none false (.tokacq (tokForm)) (granted start) = true ∧ domainGranted (granted start) 0 0 = true ∧ tileOk 0 = true ∧
      issues none false (.tokacq (tokForm)) start = true ∧ domainGranted start 0 0 = false ∧ (me start).intrap = false ∧
      (op (counting 3) 0).finished = false ∧ issues none false (.tokskip skipForm) (counting 3) = true ∧
      tokenTaken (counting 3) 0 0 0 0 = true ∧
      (∀ u, u < 2 → tokenNow (counting 3) 0 0 u ≤ 0 ∧ (counting 3).units.closed.contains (unitKey 0 0 u, 0) = false) := by decide +kernel


/-- A graph of context 0 with one node of two ports on die 0, at physical 0x3000. -/
def graphed (s : State) : State :=
  { s with launch := { s.launch with graphs := [{ ctx := 0, table := 0x8000000000003000, nodes := 1 }] }
           mem := writeLE s.mem 0x3008 1 2 }
def enqForm : FmtE := { decodeE 0 with a := 4, b := 6, c := 8, rel := true, relScope := 1 }
def aMatch (d : Nat) : Match := { die := d, ctx := 0, node := 0, port := 0, tag := 1, payload := [] }
theorem test_wit_enqr :
    (let s := graphed start
     issues none false (.enqr enqForm) s = true ∧ enqGood enqForm s { template := 0, ports := 2, die := 0 } ∧ matchUsed s 0 < matchEntries) ∧
    (let s := graphed (holding (.enqr enqForm) (withGroup (fun x => { x with wait := { code := 13, obj := 0, opnd := 0 } })))
     instrAt s 0 = some (.enqr enqForm) ∧ enqGood enqForm (actAs s 0) { template := 0, ports := 2, die := 0 } ∧ onCore s 0 = true ∧
       enqTarget enqForm (actAs s 0) = 0) ∧
    (let s := { graphed start with ops := [{ g := 0, kind := .enq 0 0 1 [], size := 16, lanes := [lane4 (locTeam 0 0) 0], scope := 1 }] }
     mayPerform s 0 (lane4 (locTeam 0 0) 0) = true ∧ earlierDone s 0 0 1 true true = true ∧ unlocked s noOp (locTeam 0 0) 16 = true ∧
       readNode s 0 true 0 = (s, some { template := 0, ports := 2, die := 0 }) ∧
       readyRecords [{ aMatch 0 with payload := List.replicate 16 0 }] { aMatch 0 with payload := List.replicate 16 0 } 2 = none) := by
  unfold enqGood
  decide +kernel

def callForm : FmtE := { decodeE 0 with d := 4, a := 0x20, b := 6, c := 8 }
/-- s6 holds a call word of a unit. -/
def calling (u : Word) : State := modGrp start 0 (setSreg 6 u)
/-- A batch of two records for a unit, of token t of tile 0, whose binding 0 is a surface of 8 by 8 samples at physical 0x2000. -/
def aBatch (k w t : Nat) : Batch :=
  { op := 0, die := 0, kind := k, word := w, token := t, area := locTeam 0 0, records := [(3, [1, 2, 0x3F800000, 0, 0, 0]), (4, [1, 2, 0, 0, 0, 0])] }
def batched (fmt : Nat) (x : Batch) : State :=
  { granted start with
    ops := [{ g := 0, kind := .records, path := some 4, records := 2 }]
    units := { start.units with batches := [x], counts := [(screenKey 0 0, 3)] }
    latched := { start.latched with bindings := [(0, { base := 0x2000, pitch := 128, width := 8, height := 8, format := fmt })] } }
theorem test_wit_callq :
    [(0 : Word), 1, 2, 3].all (fun u => let s := calling u
      issuesWith (some 4) false (callqSig s { callForm with c := if u = 2 then 0 else 8 }) s && areaGood callForm s 32 32 &&
        decide (activeLanes s 0 ≠ []) && decide (queuedRecords s (callDie callForm s) u.toNat + (activeLanes s 0).length ≤ 256) &&
        decide (queueWaiters s (queueObject (callDie callForm s) u.toNat) = [])) = true ∧
    (let s := { calling 0 with units := { start.units with batches := [{ aBatch 0 0 0 with records := List.replicate 250 (3, []) }] } }
     256 < queuedRecords s 0 0 + (activeLanes s 0).length) ∧
    (let s := holding (.callq callForm) (modGrp (calling 0) 0 (fun x => { x with wait := { code := 6, obj := 0, opnd := 32 } }))
     instrAt s 0 = some (.callq callForm) ∧ callUnit (callWord callForm (actAs s 0)) = 0 ∧ queueObject (callDie callForm (actAs s 0)) 0 = 0 ∧
       (activeLanes s 0).length = 32 ∧ leastBy (fun h => (grp s h).lastIssue) (queueWaiters s 0) = some 0 ∧
       queuedRecords s 0 0 + 32 ≤ 256 ∧ areaGood callForm (actAs s 0) 32 32 = true) := by decide +kernel
theorem test_wit_called_records :
    [(0, 0x1000 + 6 * 256, 0), (1, 1, 1)].all (fun p =>
      let s := batched p.2.2 (aBatch p.1 p.2.1 0)
      batchNext s 0 && batchAcquired s (batchAt s 0) && decide (tokenState s (batchAt s 0) = .current) &&
        decide ((batchAt s 0).kind = p.1) && (recordFault s (batchAt s 0) [1, 2, 0x3F800000, 0, 0, 0]).isNone) = true ∧
    (let s := batched 0 (aBatch 0 0 0)
     (recordFault s (batchAt s 0) [8, 2, 0x3F800000, 0, 0, 0] = some 2) ∧ unlocked s noOp (sampleLoc (surfaceOf s (batchAt s 0)) 1 2) 4 = true) ∧
    (let s := batched 0 (aBatch 0 0 5)
     batchNext s 0 = true ∧ tokenState s (batchAt s 0) = .wrong) ∧
    (let s := batched 0 (aBatch 0 0 2)
     queueHead s 0 = true ∧ tokenState s (batchAt s 0) = .later ∧ holdRoom s 0 0 2 = true) ∧
    (let s := batched 0 (aBatch 2 2 0)
     queueHead s 0 = true ∧ (batchAt s 0).kind = 2 ∧ batchAcquired s (batchAt s 0) = true) ∧
    (let s := batched 0 { aBatch 0 0 0 with records := [], returns := [(3, [0]), (4, [0])] }
     (batchAt s 0).returns = (3, [0]) :: [(4, [0])] ∧ unlocked s noOp (locTeam 0 0 + 32 * 3) 32 = true ∧ 1 < (op s 0).records) := by
  decide +kernel


/-! ## Witnesses: groups and teams over time -/

/-- The group stands before a clause that is still to be entered. -/
def entering : State := withGroup (fun x => { x with trapbase := 0x20000, clause := none, pc := mkPc 0x10000 0 })
/-- The address of its header lies outside its code. -/
def astray : State := modGrp entering 0 (fun x => { x with pc := mkPc 0x30000 0 })
def goodHeader : Nat := 0x00E0000000000000
theorem test_wit_clause_entry :
    boundary astray 0 = none ∧ hasHandler astray 0 = true ∧ fetch astray 0 (pcHeader (grp astray 0).pc) = none ∧
    (let s := poke 0 0x9000000000000000 entering
     boundary s 0 = none ∧ fetch s 0 (pcHeader (grp s 0).pc) = some 0x9000000000000000 ∧ headerOk s 0 0x10000 0x9000000000000000 = false) ∧
    (let s := poke 0 goodHeader entering
     boundary s 0 = none ∧ (grp s 0).clause = none ∧ fetch s 0 (pcHeader (grp s 0).pc) = some (BitVec.ofNat 64 goodHeader) ∧
       headerOk s 0 0x10000 (BitVec.ofNat 64 goodHeader) = true) := by decide +kernel
theorem test_wit_boundaries :
    (let s := withGroup (fun x => { x with trapbase := 0x20000, pending := [{ cause := 6, detail := 3, addr := some 16 }] })
     atBoundary s 0 = true ∧ hasHandler s 0 = true) ∧
    (let s := withGroup (fun x => { x with intrap := true, doomed := some 6 })
     runnable s 0 = true ∧ (grp s 0).doomed = some 6) ∧
    (let s := { handled0 with dbg := { handled0.dbg with dctx := 0, breaks := [(2, (me handled0).pc, 0xFF)] } }
     boundary s 0 = none ∧ (grp s 0).clause.isSome = true ∧ (fetch s 0 (pcInstr (grp s 0).pc)).isSome = true ∧ breakpointAt s 0 = some 2) ∧
    (let s := withGroup (fun x => { x with trapbase := 0x20000, stepping := some true })
     atBoundary s 0 = true ∧ (grp s 0).pending = []) := by decide +kernel
/-- Registers 0 to 255 of the group hold places; its backing region is not mapped. -/
def wholly : State := withGroup (fun x => { x with mapped := BitVec.allOnes 256, written := BitVec.allOnes 256 })
/-- The group's backing region is at a physical address, as a quay core's. -/
def backedAt (r : Option Nat) : State :=
  modGrid (withGroup (fun x => { x with backing := 0x8000000000010000, backSize := 16384, filling := r, trapbase := 0x20000 })) 0
    (fun x => { x with parent := some 0 })
theorem test_wit_slots :
    residentGroup wholly 0 = true ∧ takeable wholly 0 5 = true ∧ (writeSlot wholly 0 5).2.isSome = true ∧
      (writeSlot wholly 0 5).1 = wholly ∧
      (readSlot (backedAt (some 5)) 0 5).2 = none ∧ (grp (backedAt (some 5)) 0).filling = some 5 ∧
      (readSlot (withGroup (fun x => { x with filling := some 5 })) 0 5).2.isSome = true ∧ hasHandler (backedAt (some 5)) 0 = true := by decide +kernel

/-- Nine groups of partition 0 of core 0: eight in the active set, the last ready since clock 3. -/
def lineUp (n : Nat) : State :=
  { start with clock := 5000
               groups := (List.range (n + 1)).map (fun i =>
                 if i = n then { me start with gid := 4 * i, active := false, readyStamp := some 3 }
                 else { me start with gid := 4 * i, entryStamp := i, clause := if i = 0 then none else (me start).clause }) }
theorem test_wit_active_set :
    (let s := { withGroup (fun x => { x with sleepUntil := 5 }) with clock := 9 }
     (grp s 0).sleepUntil ≠ 0 ∧ (grp s 0).sleepUntil ≤ s.clock) ∧
    (let s := lineUp 7
     (activeGroups s 0 0).length < 8 ∧ 7 ∈ partitionGroups s 0 0 ∧ (grp s 7).active = false ∧ pendingReady s 7 = true) ∧
    (let s := lineUp 8
     oldestReady s (partitionGroups s 0 0) = some 8 ∧ (grp s 8).readyStamp.getD s.clock + 2048 ≤ s.clock ∧ 8 ≤ (activeGroups s 0 0).length ∧
       leastBy (fun g => (grp s g).entryStamp) (activeGroups s 0 0) = some 0 ∧ (grp s 0).clause = none) := by decide +kernel
theorem test_wit_group_ends :
    (let s := { withGroup (fun x => { x with halted := true })  with ptpNs := 100000000 }
     (grp s 0).halted = true ∧ onCore s 0 = true ∧ isQuayCore (coreOf s 0) = false ∧ s.dbg.hold = false ∧
       (grp s 0).haltedAt + 100000000 ≤ timeOf s) ∧
    endReady (withGroup (fun x => { x with ending := true, live := 0 })) 0 = true := by decide +kernel
/-- A group of a quay core whose spill memory is at physical 1 MiB. -/
def moving (r : Nat) : State :=
  modGrid (withGroup (fun x => { x with returning := r, backing := 0x8000000000100000, backSize := 0x10000, origin := 3 })) 0
    (fun x => { x with parent := some 0 })
theorem test_wit_return_trap :
    (grp (moving 1) 0).returning = 1 ∧ (grp (moving 1) 0).live ≠ 0 ∧ quiet (moving 1) 0 = true ∧ (saveMoving (moving 1) 0).2 = true ∧
      (grp (moving 1) 0).team < (moving 1).teams.length ∧
    (let s := withGroup (fun x => { x with returning := 1 })
     (grp s 0).returning = 1 ∧ (grp s 0).live ≠ 0 ∧ quiet s 0 = true ∧ saveMoving s 0 = (s, false)) ∧
    (let s := moving 2; let n := allocOf (teamOf s 0).hdr
     slotTaken s (coreOf s 0) 0 = false ∧ findRange s (coreOf s 0) n = some 4096 ∧
       (match readSpan s (backSpace s 0) ((grp s 0).backing + quayBacking) (n + n / 32) with
        | (t, .ok _) => decide (t = s)
        | _ => false) = true) ∧
    (let s := { moving 2 with ptpNs := 1000000 }
     (grp s 0).returning = 2 ∧ (grp s 0).returnAt + 1000000 ≤ timeOf s) := by decide +kernel
theorem test_wit_slot_trap :
    let s := { withGroup (fun x => { x with trapbase := 0x20000, slotFault := some (0x0105, 64) }) with agenda := [.group 0] }
    runnable s 0 = true ∧ (grp s 0).doomed = none ∧ (grp s 0).clause.isSome = true ∧ hasHandler s 0 = true ∧ mayTurn s 0 = true := by
  decide +kernel

/-- A grid of two teams, the first of which has been placed. -/
def placing : State :=
  { start with grids := [{ gridOf start 0 with nteams := 3, placed := 1, slots := 4 }] }
theorem test_wit_places : placesNow placing 0 1 :=
  ⟨rfl, by decide +kernel, rfl, ⟨rfl, rfl, fun _ h => nomatch h⟩, rfl, rfl, rfl, by decide, by decide, rfl, by decide +kernel⟩
theorem test_wit_placement :
    (grid placing 0).pq = none ∧ placeTurn placing 0 = true ∧ placing.bar.hot = false ∧ (grid placing 0).parent = none ∧
      (grid placing 0).phase = .running ∧ 0 < (grid placing 0).placed ∧ (grid placing 0).placed < (grid placing 0).nteams ∧
      (grid placing 0).deadline = 0 ∧ freeSlot placing 0 = some 1 ∧
      (let v := variantOf (grid placing 0) 0
       coreOpen placing (grid placing 0).gfx 1 = true ∧ fitsCore placing 1 v.2 (groupCount v.2 (grid placing 0).width) = true) := by
  decide +kernel
/-- Its one group has ended. -/
def finished (n : Nat) (done : Option Nat) : State :=
  modGrid (withGroup (fun x => { x with ended := true, ending := true, live := 0 })) 0 (fun x => { x with nteams := n, done })
theorem test_wit_retirement :
    [finished 2 none, finished 1 (some 4096)].all (fun s =>
      decide (0 < s.teams.length) && decide ((team s 0).phase = .resident) && decide (groupsOf s 0 = [0]) && (grp s 0).ended &&
        (runOfTeam s 0).isNone && teamQuiet s 0 && (drainOrder s 0).isEmpty && decide ((team s 0).grid < s.grids.length) &&
        (grid s 0).parent.isNone && (grid s 0).deadline == 0) = true ∧
    (grid (finished 2 none) 0).retired + 1 < (grid (finished 2 none) 0).nteams ∧
    (let s := finished 1 (some 4096)
     (grid s 0).retired + 1 = (grid s 0).nteams ∧ (grid s 0).failed = false ∧ (grid s 0).keep = false ∧ unlocked s noOp 4096 8 = true) := by
  decide +kernel
/-- A grid with a deadline and two rungs. -/
def pressed (r : Nat) (cost : List Nat) (dl : DWord) : State :=
  { start with grids := [{ gridOf start 0 with nteams := 3, placed := 1, slots := 4, deadline := dl, rung := r, rungmax := 1, cost, gfx := true }] }
theorem test_wit_projection :
    (let s := pressed 0 [1000000, 1] 2000000
     projected s 0 = true ∧ (grid s 0).rung < (grid s 0).rungmax ∧ lateAt s 0 0 = true ∧ lateAt s 0 1 = false) ∧
    (let s := pressed 1 [1000000, 1000000] 500000
     projected s 0 = true ∧ lateAt s 0 1 = true ∧ (grid s 0).late = false) := by decide +kernel
theorem test_wit_balancer :
    balances start 0 = true ∧ deadlineGrids start 0 = [] ∧
    (let s := pressed 1 [1000000, 1000000] 500000
     balances s 0 = true ∧ s.duty.getLsbD 5 = false ∧ 0 ∈ deadlineGrids s 0 ∧ lateAt s 0 (grid s 0).rung = true) ∧
    (let s := { modReach start 0 (fun x => { x with mark := some (5, 0), preempt := true })  with ptpNs := 100000 }
     (dieReach s 0).mark = some (5, 0) ∧ teamsOn s 5 = [] ∧ (dieReach s 0).preempt = true ∧ 100000 ≤ timeOf s) := by decide +kernel


/-! ## Witnesses: pre-emption, commands and the host -/

/-- Core 0 alone is in the graphics reach; grid 1 of a higher priority needs all of its scratchpad, which team 0 has begun. -/
def crowding : State :=
  let s := modReach start 0 (fun x => { x with bound := 1 })
  { s with ptpNs := 2000
           grids := s.grids ++ [{ gridOf start 0 with nteams := 2, placed := 1, slots := 2, prio := 5, gfx := true
                                                      hdr := { placedHeader with teamScratch := 393216 } }] }
theorem test_wit_preemption_start : mustPreempt crowding 1 = true ∧ candidates crowding 1 = [0] := by decide +kernel

/-- Context 0 maps the first GiB of virtual addresses to physical ones as they are. -/
def paged (s : State) : State :=
  { s with latched := { s.latched with roots := [(0, 0x100001)] }
           mem := writeLE (writeLE (writeLE s.mem 0x100000 8 0x101001) 0x101000 8 0x102001) 0x102000 8 0x3F }
/-- Team 0 stops; its group's backing region is at 0x40000, its slot of the pool at 0x80000. -/
def stopping : State :=
  let s := paged (withGroup (fun x => { x with backing := 0x40000, backSize := 0x10000 }))
  modTeam (modGrid s 0 (fun x => { x with pool := 0x80000, backing := 0x10000, slots := 1 })) 0
    (fun x => { x with phase := .stopping })
theorem test_wit_save :
    (team stopping 0).phase = .stopping ∧ saveReady stopping 0 = true ∧ openGroups stopping 0 = [0] ∧
      (grp stopping 0).doomed = none ∧ (grp stopping 0).pending = [] ∧ (saveTeam stopping 0).2.any = false ∧
      (saveTeam { stopping with latched := start.latched } 0).2.any = true := by decide +kernel

/-- Team 0 is parked and holds nothing; its group's image is that of a group of 32 lanes at its entry. -/
def parkedTeam (maps : Bool) : State :=
  let s := if maps then paged start else start
  let s := modGrp s 0 (fun x => { x with backing := 0x40000, backSize := 0x10000 })
  let img : List Byte := [1, 2, 0, 0] ++ toBytesLE 4 0 ++ toBytesLE 4 1 ++ [32, 0, 0, 0] ++ toBytesLE 8 0x10000 ++
    toBytesLE 8 0xFFFFFFFF ++ toBytesLE 8 0xFFFFFFFF
  let t := modTeam (modGrid s 0 (fun x => { x with pool := 0x80000, backing := 0x10000, slots := 1 })) 0
    (fun x => { x with phase := .parked, allocSize := 0 })
  { t with mem := writeBytes (writeBytes t.mem 0x40000 img) (teamRegion t 0) (toBytesLE 4 1 ++ toBytesLE 4 1 ++ toBytesLE 4 (team t 0).core) }
theorem test_wit_resume :
    (let s := parkedTeam true
     resumeTurn s 0 = true ∧ (grid s 0).cores = false ∧ resumeFits s 0 = true ∧ memoryFree s = true ∧ (team s 0).allocSize = 0 ∧
       (team s 0).tileMap = [] ∧ runOfTeam s 0 = none ∧ openGroups s 0 = [0] ∧ (grp s 0).ending = false ∧
       (let s1 := takeRoom s 0
        (match areaRead s 0 with
         | (t, .ok a) => decide (t = s1) && areaOk (team s1 0) a
         | _ => false) = true ∧
          (match readSpan s1 (backSpace s1 0) (grp s 0).backing imageSize with
           | (t, .ok b) => decide (t = s1) && imageOk s1 0 b && recField b 0x20 8 != 0 && bitField (recField b 8 4) 4 5 != 1 &&
               bitField (recField b 8 4) 4 5 != 4
           | _ => false) = true)) ∧
    (let s := parkedTeam false
     resumeTurn s 0 = true ∧ resumeFits s 0 = true ∧ memoryFree s = true ∧ (grid s 0).cores = false ∧
       (areaRead s 0).2.isOk = false) := by decide +kernel

/-- Queue 0 of context 0, privileged, has one command in a ring at physical 0x4000. -/
def queued (kind op val : Nat) (s : State) : State :=
  let s := modQueue s 0 (fun _ =>
    { ring := 0x8000000000004000, size := 4, prio := 10, privileged := true, enabled := true, tail := 1, vector := 3 })
  { s with mem := writeBytes s.mem 0x4000 (toBytesLE 8 kind ++ toBytesLE 8 op ++ toBytesLE 8 val) }
/-- The command of queue 0 is due. -/
def dueNow (kind op val : Nat) (s : State) : Bool :=
  mayStart s 0 0 && (match (headCommand s 0).2 with
    | .ok b => recField b 0 1 == kind && commandPlain b &&
        commandOf 0 0 b == { queue := 0, index := 0, kind, operand := op, value := val }
    | .error _ => false)
/-- A launch record at physical 0x6000 for the program at 0x8040. -/
def recorded8 (s : State) : State :=
  { quayProgram s with mem := writeBytes (quayProgram s).mem 0x6000 (toBytesLE 8 0x8000000000008040 ++ toBytesLE 4 0 ++ [10, 0, 0, 0] ++
      toBytesLE 4 1 ++ toBytesLE 4 1 ++ toBytesLE 4 1 ++ zeros 0x20 ++ toBytesLE 4 0x1000 ++ toBytesLE 8 0x80000 ++ toBytesLE 4 1 ++ zeros 0x34) }
theorem test_wit_launches :
    (let s := queued 1 0x8000000000006000 0 (recorded8 start)
     dueNow 1 0x8000000000006000 0 s = true ∧ (match readSpan s (queueSpace s 0) 0x8000000000006000 128 with
       | (t, .ok r) => decide (t = s) && decide ((launchRecord s (queueSource s 0 0 0x8000000000006000) r).2 = some 1)
       | _ => false) = true) ∧
    (let s := queued 1 0x8000000000006000 0 start
     dueNow 1 0x8000000000006000 0 s = true ∧ (match readSpan s (queueSpace s 0) 0x8000000000006000 128 with
       | (t, .ok r) => decide (t = s) && decide ((launchRecord s (queueSource s 0 0 0x8000000000006000) r).2 = none)
       | _ => false) = true) := by decide +kernel
/-- A read answers from a state and leaves it as it is. -/
def readsOk (s : State) (p : State × Except AccErr (List Byte)) (v : List Byte) : Bool := decide (p.1 = s) && (match p.2 with
  | .ok b => decide (b = v)
  | .error _ => false)
theorem test_wit_commands :
    (let d : List Byte := toBytesLE 8 0x3000 ++ toBytesLE 4 1 ++ toBytesLE 4 0
     let s0 := queued 2 0x8000000000005000 0 start
     let s := { s0 with mem := writeBytes s0.mem 0x5000 d }
     let c : Command := { queue := 0, index := 0, kind := 2, operand := 0x8000000000005000, value := 0 }
     dueNow 2 c.operand 0 s = true ∧ pendingCommand s 0 0 2 = none ∧ readsOk (begun s 0 c) (readSpan (begun s 0 c) (queueSpace s 0) c.operand 16) d = true ∧
       graphOf s 0 = none) ∧
    (let c : Command := { queue := 0, index := 0, kind := 3, operand := 0x8000000000005000, value := 0 }
     let s := queued 3 c.operand 0 start
     dueNow 3 c.operand 0 s = true ∧ pendingCommand s 0 0 3 = none ∧
       readsOk (begun s 0 c) (readSpan (begun s 0 c) (queueSpace s 0) c.operand 8) (zeros 8) = true ∧
       pendingCommand (begun s 0 c) 0 0 3 = some 0) ∧
    (let c : Command := { queue := 0, index := 0, kind := 4, operand := 0x8000000000005000, value := 7 }
     let s := queued 4 c.operand 7 start
     dueNow 4 c.operand 7 s = true ∧ pendingCommand s 0 0 4 = none ∧ earlierCommands s 0 s.launch.commands.length = true ∧
       goodLoc (locate (begun s 0 c) (queueSpace s 0) c.operand 8 { write := true }) = some (0x5000, true)) ∧
    dueNow 5 2 0x10007 (queued 5 2 0x10007 start) = true ∧
    (let s := modQueue (queued 5 2 0x10007 start) 0 (fun x => { x with privileged := false })
     dueNow 5 2 0x10007 s = true ∧ (queueAt s 0).privileged = false) := by decide +kernel
theorem test_wit_commands_2 :
    (let s := modGrid (queued 6 0x6000 1 start) 0 (fun x => { x with record := 0x6000, queue := some 0, rungmax := 2 })
     dueNow 6 0x6000 1 s = true ∧ gridOfRecordAt s 0 0x6000 = some 0 ∧ (grid s 0).rung ≤ 1 ∧ 1 ≤ (grid s 0).rungmax) ∧
    (let s0 := queued 7 5 0 start
     let s := { s0 with launch := { s0.launch with kept := [{ ctx := 0, segid := 5, bases := [], size := 65536 }] } }
     dueNow 7 5 0 s = true ∧ pendingCommand s 0 0 7 = none ∧ (keptSeg s 0 5).isSome = true) ∧
    dueNow 0 0 0 (queued 0 0 0 start) = true ∧ dueNow 9 0 0 (queued 9 0 0 start) = true ∧
    (let s := modGrid start 0 (fun x => { x with grantWait := true })
     (grid s 0).grantWait = true ∧ grantBusy s (grid s 0) = false) := by decide +kernel

/-- Aperture 0 is enabled on physical 0. -/
def aperture0 (s : State) : State := { s with bar := { s.bar with apertures := [(0, 1)] } }
theorem test_wit_host :
    apertureAddr (aperture0 start) 4096 = some 4096 ∧ physOk 0 4096 8 = true ∧ hostFree (aperture0 start) 4096 8 = true ∧
      apertureAddr start 4096 = none ∧ start.log.en = false ∧ (queueAt start 5).enabled = false ∧ bitOf 0x800000 23 = true ∧
      (3 : Word).toNat < 2 ^ (queueAt (queued 0 0 0 start) 0).size ∧ 2 ^ (queueAt start 0).size ≤ (3 : Word).toNat := by decide +kernel
theorem test_wit_host_memory :
    (let s := { start with agenda := [.hostStore (2 ^ 51) 8 5] }
     regionOf s.poundSize (2 ^ 51) = .host ∧ regionOf s.poundSize (2 ^ 51 + 8 - 1) = .host ∧ unlocked s noOp (2 ^ 51) 8 = true) ∧
    ({ start with agenda := [.barRead 0xB000 4] } : State).agenda = .barRead 0xB000 4 :: [] ∧ 0xB000 % 4 = 0 := by decide +kernel

theorem test_wit_host_controls :
    (∀ i, i < 6 → (8 : Word).getLsbD i ≠ start.duty.getLsbD i → dutyUsed start i = false) ∧
    ((1 : Word).getLsbD 0 ≠ start.duty.getLsbD 0 ∧ dutyUsed start 0 = true) ∧
    (let d : Word := 0x01000020; d.toNat % 2 ^ 9 ≤ d.toNat / 2 ^ 16 % 2 ^ 9 ∧ d.toNat / 2 ^ 16 % 2 ^ 9 ≤ 288) ∧
    (let d : Word := 0x00000020; d.toNat / 2 ^ 16 % 2 ^ 9 < d.toNat % 2 ^ 9) ∧
    (bitField (0x11 : Word).toNat 4 4 ≤ 10 ∧ (0x11 : Word).getLsbD 0 = true ∧ start.log.en = false) ∧
    (let d : Word := 0xB0; 10 < bitField d.toNat 4 4 ∧ d.getLsbD 0 = false ∧ logFree start = true) ∧
    ((start.log.head + 1) % (64 * 2 ^ 1) ≠ start.log.tail) ∧
    (let h : Held := { seq := 3, since := 0, who := .tow 0 }
     let s := { start with held := [h], ptpNs := 100000000 }
     heldFault s 3 = some h ∧ h.since + 100000000 ≤ timeOf s ∧ heldFault s 4 = none) := by decide +kernel
/-- Bytes of a region that holds nothing. -/
theorem readBytes_zero (m : List (Nat × Byte)) (a n : Nat) (h : ∀ b, a ≤ b → byteAt m b = 0) : readBytes m a n = List.replicate n 0 := by
  induction n generalizing a with
  | zero => rfl
  | succ n ih => simp only [readBytes, List.replicate_succ]; rw [h a (Nat.le_refl a), ih (a + 1) (fun b hb => h b (by omega))]
/-- A table that holds nothing has no entries. -/
theorem readEntries_zero {α : Type} (base n : Nat) (parse : List Byte → Entry α) (l : List Nat) (s : State) (hb : s.bad = [])
    (hz : ∀ b, base ≤ b → byteAt s.mem b = 0) (hp : parse (List.replicate n 0) = .absent) :
    readEntries base n parse l s = (s, []) := by
  induction l with
  | nil => rfl
  | cons i t ih =>
    simp only [readEntries, readEntry, checkRead, hb, List.isEmpty_nil, true_or, if_true]
    rw [readBytes_zero s.mem _ n (fun b h => hz b (by omega)), hp]
    simp only [ih]
/-- The change word at the configuration base, 0x200000, has a new value; nothing is configured. -/
def changed : State :=
  { start with ready := true, mem := [(15, 0x4A), (0x200000, 7)], bar := { start.bar with cfgbase := 0x200000 } }
theorem changed_zero (b : Nat) (h : 0x200001 ≤ b) : byteAt changed.mem b = 0 := by
  rw [show changed.mem = [(15, 0x4A), (0x200000, 7)] from rfl]
  simp only [byteAt, mapGet]
  rw [if_neg (by omega), if_neg (by omega)]
theorem absent_arena : parseArena (List.replicate 32 0) = .absent := rfl
theorem absent_binding : parseBinding (List.replicate 32 0) = .absent := rfl
theorem absent_root : parseRoot (List.replicate 8 0) = .absent := rfl
theorem absent_record : parseInvalidation (List.replicate 32 0) = .absent := rfl
theorem record_zero (s : State) (a : Nat) (hb : s.bad = []) (hz : ∀ b, a ≤ b → byteAt s.mem b = 0) :
    readEntry s a 32 parseInvalidation = (s, none) := by
  simp only [readEntry, checkRead, hb, List.isEmpty_nil, true_or, if_true]
  rw [readBytes_zero s.mem _ 32 hz, absent_record]
/-- A configuration block that holds nothing past its change word configures nothing. -/
theorem readTables_zero (la lb lr : List Nat) (s : State) (hb : s.bad = []) (hz : ∀ b, s.bar.cfgbase + 1 ≤ b → byteAt s.mem b = 0) :
    readTables la lb lr s = (s, { roots := [], arenas := [], bindings := [] }, none) := by
  simp only [readTables, readEntries_zero (s.bar.cfgbase + 0x1000) _ parseArena _ s hb (fun b h => hz b (by omega)) absent_arena,
    readEntries_zero (s.bar.cfgbase + 0x8000) _ parseBinding _ s hb (fun b h => hz b (by omega)) absent_binding,
    readEntries_zero (s.bar.cfgbase + 0x10000) _ parseRoot _ s hb (fun b h => hz b (by omega)) absent_root,
    record_zero s (s.bar.cfgbase + 0x100) hb (fun b h => hz b (by omega))]
theorem readConfig_zero (s : State) (hb : s.bad = []) (hz : ∀ b, s.bar.cfgbase + 1 ≤ b → byteAt s.mem b = 0) :
    readConfig s = (s, { roots := [], arenas := [], bindings := [] }, none) := readTables_zero _ _ _ s hb hz
theorem changed_reads : readConfig changed = (changed, { roots := [], arenas := [], bindings := [] }, none) :=
  readConfig_zero changed rfl (fun b h => changed_zero b h)
theorem test_wit_reloads :
    (let s := { start with dbg := { start.dbg with base := some 0x40000, hold := true }, mem := writeLE start.mem 0x40000 8 1 }
     rd s 0x40000 8 ≠ rd s 0x40008 8 ∧ s.dbg.hold = true ∧ s.log.en = false) ∧
    changed.ready = true ∧ rd changed changed.bar.cfgbase 8 ≠ changed.bar.change ∧
    arenasFree changed { roots := [], arenas := [], bindings := [] } = true ∧
    contextsFree changed { roots := [], arenas := [], bindings := [] } = true := by decide +kernel


/-! ## Witnesses: links, display, Porman -/

/-- Port 0 is up and has accepted the given flits; every device is reached over it, and device 5 may send commands. -/
def linked (fs : List Nat) (s : State) : State :=
  { s with fabric := { s.fabric with sources := 32, ports := [(0, { state := 0, lanes := 0xFF, rx := fs })] } }
/-- A command head from device 5 to a device with a number of hops left. -/
def headFor (dest hops oper len addr data : Nat) : Nat := mkFlit 0 0 dest hops (headPayload oper 5 77 9 len false addr data)
def respFor (dest hops : Nat) : Nat := mkFlit 2 1 dest hops (3 + 5 * 2 ^ 8 + 77 * 2 ^ 16)
theorem test_wit_camtos :
    (4095 < 4096 ∧ headFor 3 2 1 16 0x5000 7 % 4096 = 0) ∧
    (let f := headFor 0 3 1 16 0x5000 7
     let s := linked [f] (paged start)
     rxFlit s 0 0 0 = some f ∧ flitField f 0 1 = 1 ∧ bitField f 24 6 = s.deviceId ∧ bitOf (flitField f 12 1) 0 = false ∧
       sourceEnabled s (flitField f 1 1) = true ∧ flitField f 8 4 = 16 ∧ flitField f 16 8 = 0x5000 ∧ inboundFree s 0x5000 16 = true ∧
       pieces 0x5000 16 = [(0x5000, 16)] ∧
       (match (locateAll (inboundSpace (takeRx s 0 0)) { write := true } [(0x5000, 16)] (takeRx s 0 0)).2 with
         | .ok [l] => decide (l.len = 16)
         | _ => false) = true ∧
       routeUp (takeRx s 0 0) 5 = true ∧ routeOf (takeRx s 0 0) 5 = 0 ∧ (portAt (takeRx s 0 0) 0).used.getD 1 0 < 256) ∧
    (let f := headFor 0 3 2 8 0x5000 7
     let s := linked [f] (paged start)
     rxFlit s 0 0 0 = some f ∧ flitField f 0 1 = 2 ∧ bitField f 24 6 = s.deviceId ∧ inboundFree s 0x5000 8 = true ∧
       goodLoc (locate (takeRx s 0 0) (inboundSpace (takeRx s 0 0)) 0x5000 8 atomNeed) = some (0x5000, false)) ∧
    (let f := headFor 0 3 7 8 0x5000 7
     rxFlit (linked [f] start) 0 0 0 = some f ∧ flitField f 0 1 = 7 ∧ logFree (linked [f] start) = true) ∧
    (let f := mkBody 9 0x1234
     let b : Inbound := { port := 0, link := 9, addr := 0x5000, left := 100 }
     let s0 := linked [f] (paged start)
     let s := { s0 with fabric := { s0.fabric with inbounds := [b] } }
     rxFlit s 0 0 1 = some f ∧ bodyTag f = 9 ∧ b.status = 0 ∧ inboundFree s b.addr 56 = true ∧ pieces b.addr 56 = [(b.addr, 56)] ∧
       (match (locateAll (inboundSpace (takeRx s 0 0)) { write := true } [(b.addr, 56)] (takeRx s 0 0)).2 with
         | .ok [l] => decide (l.len = 56)
         | _ => false) = true) ∧
    ([1, 2, 7].all (fun oper =>
      let f := headFor 9 2 oper 16 0x5000 7
      let s := linked [f] start
      rxFlit s 0 0 0 == some f && flitField f 0 1 == oper && bitField f 24 6 == 9 && bodyBytes oper (flitField f 8 4) == 0 &&
        bitField f 22 2 == 2 && routeUp (takeRx s 0 0) 9 && decide ((portAt (takeRx s 0 0) 0).used.getD 0 0 < 256)) = true) ∧
    ([1, 2, 7].all (fun oper =>
      let f := headFor 9 0 oper 16 0x5000 7
      let s := linked [f] start
      rxFlit s 0 0 0 == some f && bitField f 24 6 == 9 && bitField f 22 2 == 0 && routeUp (takeRx s 0 0) 5 && logFree s) = true) ∧
    (rxFlit (linked [respFor 0 3] start) 0 0 2 = some (respFor 0 3) ∧ bitField (respFor 0 3) 24 6 = 0 ∧ flitField (respFor 0 3) 0 1 ≠ 0) ∧
    (rxFlit (linked [respFor 9 3] start) 0 0 2 = some (respFor 9 3) ∧ bitField (respFor 9 3) 24 6 = 9 ∧
      bitField (respFor 9 3) 22 2 ≠ 0) := by decide +kernel

/-- Port 0 as given. -/
def port0 (x : Port) (s : State) : State := { s with fabric := { s.fabric with ports := [(0, x)] } }
/-- Three flits of sequence numbers 5, 6 and 7 await acknowledgement. -/
def unacked : Port := { state := 0, lanes := 0xFF, txSeq := 8, replay := [5, 6, 7], used := [3, 0, 0] }
theorem test_wit_links :
    ((portAt (port0 unacked start) 0).replay.findIdx? (fun f => flitSeq f == 6 % 4096) = some 1 ∧ unacked.waiting = []) ∧
    ((unacked.replay.head?).map flitSeq = some (5 % 4096) ∧ unacked.replay.findIdx? (fun f => flitSeq f == (5 + 4095) % 4096) = none ∧
      unacked.replays < 8) ∧
    (0 < unacked.used.length ∧ unacked.discarding = false) ∧
    (let s := { port0 unacked start with ptpNs := 1000 }
     (portAt s 0).replay ≠ [] ∧ (portAt s 0).sentAt + 1000 ≤ timeOf s) ∧
    (let s := { port0 { unacked with replays := 8 } start with ptpNs := 1000 }
     8 ≤ (portAt s 0).replays ∧ s.duty.getLsbD 2 = false ∧ ({ s with duty := 4 } : State).duty.getLsbD 2 = true) ∧
    ((portAt (port0 { unacked with state := 1 } start) 0).state = 1) ∧
    (let s := { port0 { unacked with state := 2, downAt := some 0 } start with ptpNs := 100000000 }
     (portAt s 0).state = 2 ∧ (portAt s 0).downAt = some 0 ∧ 0 + 100000000 ≤ timeOf s) ∧
    ((0x80000003 : Word).toNat = 2 ^ 31 + 3 ∧ (0x80000000 : Word).toNat = 2 ^ 31 + 0 ∧ (portAt start 3).state ≠ 2) ∧
    ((portAt start 3).state = 3 ∧ (portAt start 3).waiting = []) := by decide +kernel

theorem test_wit_flits :
    (let f := mkFlit 3 3 0 0 5
     flitKind f = 3 ∧ flitGood f = false) ∧
    (let f := mkFlit 0 0 0 0 5
     flitKind f ≠ 3 ∧ flitGood f = false) ∧
    (let f := sealFlit 9 (mkFlit 2 1 0 0 5); let x : Port := { unacked with rxSeq := 9 }
     flitKind f ≠ 3 ∧ flitGood f = true ∧ flitSeq f = x.rxSeq ∧ x.discarding = false ∧ x.waiting = [] ∧ x.turns = [] ∧
       ({ port0 x start with agenda := [.flit 0 f] } : State).agenda = .flit 0 f :: []) := by decide +kernel

/-- Output 0 is enabled with a block of 8 by 4 pixels; output 1 too, and both may scan binding 0. -/
def showing (s : State) : State :=
  let w : List (Nat × Nat) := [(0, 1), (1, 0x10000), (2, 0x40008), (6, 65536000)]
  let o : Output := { words := w, live := w, enabled := true }
  { s with latched := { s.latched with bindings := [(0, { base := 0x50000, pitch := 64, width := 8, height := 4, format := 1 })] }
           bar := { s.bar with outputs := [(0, o), (1, o)] } }
def frelForm : FmtE := { decodeE 0 with d := 8, a := 4, b := 6, c := 10 }
/-- The pending list of output 0 is full. -/
def backlog (s : State) : State :=
  let o := outputAt s 0
  { s with bar := { s.bar with outputs := mapSet {} 0 { o with pending := List.replicate 4 { binding := 0, time := 5 } } s.bar.outputs } }
theorem test_wit_frel :
    (let s := showing (sreg4 1 start)
     issues none false (.frel frelForm) s = true ∧ frelWord frelForm (me s) = 1 ∧ namedOutputs 1 = [0] ∧
       (outputAt s 0).enabled = true ∧ blockOwner (outputAt s 0).words = (gridOf s s.cur).ctx ∧
       scannable (scanBinding s 0) (outputAt s 0).words = true ∧ frelRetire frelForm (me s) = 0 ∧
       (outputAt s 0).pending.length < 4 ∧ 4 ≤ (outputAt (backlog s) 0).pending.length ∧
       issues none false (.frel frelForm) (backlog s) = true) ∧
    (issues none false (.frel frelForm) start = true ∧ namedOutputs (frelWord frelForm (me start) % 16) = []) ∧
    (let s := modGrp (showing (sreg4 1 start)) 0 (setSreg 10 4)
     issues none false (.frel frelForm) s = true ∧ frelRetire frelForm (me s) % 8 ≠ 0) ∧
    (let s := modGrp (showing (sreg4 1 start)) 0 (fun x => { x with waitPc := x.pc, wait := { code := 14, obj := 1, opnd := 0 } })
     let s := holding (.frel frelForm) s
     let s := { s with bar := { s.bar with frels := [(0, { binding := 2, time := 7 })] } }
     onCore s 0 = true ∧ instrAt s 0 = some (.frel frelForm) ∧ (s.bar.frels.find? (fun p => p.1 == 0)).isSome = true) := by decide +kernel
/-- Output 0 starts a frame at 1 ms, with entries whose times are 5, 7 and 9, the last late. -/
def framing (es : List Release) : State :=
  let s := { showing start with ptpNs := 1000000 }
  let o := outputAt s 0
  { s with bar := { s.bar with outputs := [(0, { o with lastStart := some 999000, pending := es, scanned := some { binding := 3, time := 1 } })] } }
theorem test_wit_frames :
    (let s := framing [{ binding := 1, time := 5 }, { binding := 2, time := 7 }, { binding := 4, time := 9, appended := 1000000 }]
     (outputAt s 0).enabled = true ∧ startsNow (outputAt s 0) (timeOf s) = true ∧
       ((outputAt s 0).pending.filter (dueAt (timeOf s))).map (·.time) = [5, 7]) ∧
    (let s := framing [{ binding := 4, time := 9, appended := 1000000 }]
     startsNow (outputAt s 0) (timeOf s) = true ∧ (outputAt s 0).pending.filter (dueAt (timeOf s)) = [] ∧
       (outputAt s 0).pending.any (lateEntry (timeOf s)) = true) ∧
    (let s := { start with bar := { start.bar with outputs := [(0, { retiring := [{ binding := 0, time := 0, retire := some (0x5000, true) }] })] } }
     (outputAt s 0).retiring.filterMap (·.retire) = [(0x5000, true)] ∧ unlocked s noOp 0x5000 8 = true) ∧
    (bitOf (blockWord (outputAt start 0).words 0) 0 = false ∧ bitOf 0x100 0 = false) ∧
    (let s := showing start
     let s := { s with bar := { s.bar with outputs := mapSet {} 2 { (outputAt s 0) with enabled := false } s.bar.outputs } }
     let w := setBlockWord 0 1 (outputAt s 2).words
     rateExceeded s w = false ∧ blankShort w = false ∧ blockLanes w = 1 ∧ (outputAt s 2).enabled = false) ∧
    (rateExceeded start (setBlockWord 0 1 [(2, 0x40008)]) = true) ∧ true ≠ start.bar.locked := by decide +kernel

theorem test_wit_porman :
    State.reset.ready = false ∧ State.reset.bar.torn = false ∧ State.reset.bar.committing = false ∧
    (let s := { start with bar := { start.bar with committing := true, exchange := [1, 2, 3, 4] }, agenda := [.clocks 5 3] }
     s.agenda = .clocks 5 3 :: [] ∧ s.bar.committing = true ∧ s.bar.exchange = [1, 2, 3, 4] ∧ logFree s = true) ∧ ((4501 : Nat) > 4500 ∧ 0 < start.bar.khz) ∧
    (64 * 5 < 24 * 2 ^ 36 ∧ 64 * 5 % 2 ^ 36 < 48 * 2 ^ 30) ∧
    (let s := { start with bad := [(320, .correctable)] }
     badAt s 320 = .correctable) ∧
    (let s := { start with bad := [(320, .lasting)] }
     badAt s 320 = .lasting) ∧
    (0 < numCores ∧ start.log.en = false ∧ 0x10000 % 32768 = 0) ∧ (start.codes[0]?).isSome = true ∧ restoreServed start = true ∧
    (let s := { start with bar := { start.bar with rlen := 16384, roff := 0, image := [] } }
     restoreServed s = true ∧ 0 < s.bar.rlen ∧ s.bar.roff = s.bar.image.length) ∧
    (let s := { start with poundSize := 2 ^ 31 }
     unlocked s noOp (2 ^ 42) 64 = true ∧ regionOf s.poundSize (2 ^ 42) = .lpddr 0 ∧ tagOk (mapGet 0 s.tags 0) = true) := by decide +kernel


/-! ## Ill-formed terms, one for each check of a field (R149, R152, R163 to R169) -/

/-- A register source past the last register of a pair. -/
theorem test_wf_pair : Instr.wf (.sadd64 { decodeT 0 with d := 1, kb := 1, ka := 1 }) = false := by decide
/-- Operand b that the instruction has not is not zero. -/
theorem test_wf_unused : Instr.wf (.sclz { decodeT 0 with ka := 1, b := 3 }) = false := by decide
/-- A kind code that names nothing. -/
theorem test_wf_kind : Instr.wf (.vadd { decodeT 0 with ka := 3 }) = false := by decide
/-- A modifier that the instruction has not. -/
theorem test_wf_modifier : Instr.wf (.vadd { decodeT 0 with na := true }) = false := by decide
/-- A reserved type code (Table 8-3). -/
theorem test_wf_type : Instr.wf (.vadd { decodeT 0 with op := 0xC }) = false := by decide
/-- A reserved rounding code. -/
theorem test_wf_round : Instr.wf (.fadd { decodeT 0 with rnd := 5 }) = false := by decide
/-- A reserved condition code of a compare. -/
theorem test_wf_cond : Instr.wf (.vcmp { decodeT 0 with op := 0xF0 }) = false := by decide
/-- A reserved format of a conversion. -/
theorem test_wf_format : Instr.wf (.cvt { decodeT 0 with op := 0x55 }) = false := by decide
/-- A size code of format M above 3. -/
theorem test_wf_size : Instr.wf (.dld { memForm with size := 4 }) = false := by decide
/-- An odd pair of addresses. -/
theorem test_wf_address : Instr.wf (.atop { atForm with a := 5 }) = false := by decide
/-- A good instruction of each format passes. -/
theorem test_wf_good :
    ([.vadd { decodeT 0 with d := 4, a := 1, b := 2 }, .vaddImm { decodeI 0 with d := 4, a := 1, imm := 100 }, .dld memForm,
      .atop atForm, .flreg (oneForm 8 6 true), .mma mmaForm, .nop (decodeT 0)] : List Instr).all Instr.wf = true := by decide

/-! ## Words written out from the encodings of the specification (Tables 7-2 to 7-7, 8-1 and 8-2, 14-2) -/

/-- Format T: opcode [63:56], d [55:48], a [47:40], b [39:32], c [31:24]; kinds ka [23:22], kb [21:20], kc [19:18]; op [7:0]. -/
theorem test_decode_uniform : decodeWord 0x0103040500500000 =
    some (.sadd { decodeT 0 with d := 3, a := 4, b := 5, ka := 1, kb := 1 }) := by decide
theorem test_decode_mask : decodeWord 0x4506000000000000 = some (.mxor { decodeT 0 with d := 6 }) := by decide
theorem test_decode_control : decodeWord 0x4C00000000000000 = some (.bkpt (decodeT 0)) ∧ decodeWord 0x5800000000000007 =
    some (.trap { decodeI 0 with imm := 7 }) ∧ decodeWord 0x4D00000000000000 = some (.trapret (decodeT 0)) := by decide
theorem test_decode_double : decodeWord 0xB004000200000000 = some (.dadd { decodeT 0 with d := 4, b := 2 }) := by decide
theorem test_decode_flight : decodeWord 0xF208040600000000 = some (.flreg { decodeE 0 with d := 8, a := 4, b := 6 }) := by decide
theorem test_decode_dash : decodeWord 0x0012345678000000 = none ∧ decodeWord 0xFF00000000000000 = none := by decide
theorem test_decode_atomic : decodeWord 0xE808040600000000 = some (.atop { decodeA 0 with d := 8, a := 4, b := 6 }) := by decide
theorem test_decode_call : decodeWord 0x9B08100412000003 =
    some (.callq { decodeE 0 with d := 8, a := 0x10, b := 4, c := 0x12, op := 3 }) := by decide
theorem test_decode_half : decodeWord 0xAA04010203000000 = some (.hfma2 { decodeT 0 with d := 4, a := 1, b := 2, c := 3 }) := by decide
theorem test_decode_special : decodeWord 0x3804000000000011 = some (.srd { decodeI 0 with d := 4, imm := 0x11 }) := by decide
theorem test_decode_frel : decodeWord 0x9F090A0C0EC00000 =
    some (.frel { decodeE 0 with d := 9, a := 10, b := 12, c := 14, acq := true, acqScope := 4 }) := by decide
theorem test_decode_rast : decodeWord 0x9708141E20000000 =
    some (.rast { decodeE 0 with d := 8, a := 0x14, b := 0x1E, c := 0x20 }) := by decide
theorem test_decode_cvt : decodeWord 0xD002010000000130 =
    some (.cvt { decodeT 0 with d := 2, a := 1, sat := true, op := 0x30 }) := by decide
theorem test_decode_reserved : decodeWord 0x611E01020000000C = some (.vadd { decodeT 0 with d := 0x1E, a := 1, b := 2, op := 0xC }) := by
  decide

/-! ## Single steps: the worked examples of the specification -/

/-- Lane 0 alone is active and holds values in v1, v2 and v3. -/
def lane0 (x1 x2 x3 : Word) : State :=
  withGroup (fun x => { setVlane 3 0 x3 (setVlane 2 0 x2 (setVlane 1 0 x1 x)) with exec := 1 })
/-- Lane 0 of a register, and the arithmetic flags, after a word. -/
def gives (w : DWord) (s : State) (v : Nat) : Option (Word × Word) := match decodeWord w with
  | some i => match exec i s with
    | .next t => some (vlane (me t) v 0, (me t).fpflags)
    | _ => none
  | none => none

/-- Section 9.3: `sbfe.i32 s3, s4, 4, 8`. -/
theorem test_sbfe : ((match exec (.sbfeImm { decodeI 0 with d := 3, a := 4, ka := 1, imm := 0x804 }) (sreg4 0xF30 start) with
    | .next t => some (sreg (me t) 3)
    | _ => none) = some 0xFFFFFFF3) := by decide +kernel
/-- Section 10.4: `vdot4.in`, with and without saturation. -/
theorem test_vdot4_sat : (gives 0x7906010203000176 (lane0 0x7F7F 0xFFFF 0x7FFFFFF0) 6).map Prod.fst = some 0x7FFFFFFF := by decide +kernel
theorem test_vdot4 : (gives 0x7906010203000076 (lane0 0x7F7F 0xFFFF 0x7FFFFFF0) 6).map Prod.fst = some 0x8000FCF2 := by decide +kernel
/-- Table 10-6: a tie goes to the even mantissa, and is inexact (Table 3-5, bit 0). -/
theorem test_fmul_tie : (gives 0xA204010100000000 (lane0 0x3F800800 0xBF801000 0) 4).map Prod.fst = some 0x3F801000 := by decide +kernel
/-- Table 10-6: an exact zero of unlike signs, in the modes nearest and down. -/
theorem test_fadd_zero : gives 0xA005040200000000 (withGroup (fun x => { setVlane 4 0 0x3F801000 (setVlane 2 0 0xBF801000 x) with exec := 1 })) 5 =
    some (0, 0) := by decide +kernel
theorem test_fadd_zero_down :
    gives 0xA005040200000800 (withGroup (fun x => { setVlane 4 0 0x3F801000 (setVlane 2 0 0xBF801000 x) with exec := 1 })) 5 =
      some (0x80000000, 0) := by decide +kernel
/-- Table 10-6: `ffma` rounds once. -/
theorem test_ffma : gives 0xA303010102000000 (lane0 0x3F800800 0xBF801000 0) 3 = some (0x33800000, 0) := by decide +kernel
/-- Section 11.1: 1,000.0 saturates in e4m3, and −∞ does with no flag. -/
theorem test_cvt_e4m3 : (gives 0xD002010000000130 (lane0 0x447A0000 0 0) 2).map Prod.fst = some 0x7E := by decide +kernel
theorem test_cvt_infinity : gives 0xD002010000000130 (lane0 0xFF800000 0 0) 2 = some (0xFE, 0) := by decide +kernel
/-- Table 24-2: 1/2 in lane 1 and 3/0 in lane 2. -/
theorem test_fdiv : ((match exec (.fdiv { decodeT 0 with d := 3, a := 1, b := 2 }) (withGroup (fun x =>
      { setVlane 1 1 0x3F800000 (setVlane 2 1 0x40000000 (setVlane 1 2 0x40400000 x)) with exec := 6, trapbase := 0x20000, trapen := 2 })) with
    | .next t => some (vlane (me t) 3 1, vlane (me t) 3 2, (me t).trapexec, (me t).intrap)
    | _ => none) = some (0x3F000000, 0x7F800000, 6, true)) := by decide +kernel
/-- Section 25.1: an operand over the budget comes before a reserved type: the detail is operand 0. -/
theorem test_illegal_order : ((match decodeWord 0x611E01020000000C with
    | some i => match exec i (withGroup (fun x => { x with budget := 24, trapbase := 0x20000 })) with
      | .next t => some ((me t).trapcause.toNat % 256, (me t).trapcause.toNat / 256 % 65536)
      | _ => none
    | none => none) = some (1, 0)) := by decide +kernel
/-- Table 9-5: `mxor exec, exec, -1` inverts the lanes among the live ones. -/
theorem test_mxor : ((match exec (.mxor { decodeT 0 with a := 0, op := 2, b := 0x0A, kb := 1 }) (withGroup (fun x =>
      { setSreg 10 0xFFFFFFFF (setSreg 11 0xFFFFFFFF x) with exec := 0x39, live := 0x3B })) with
    | .next t => some (me t).exec
    | _ => none) = some 2) := by decide +kernel
/-- Table 11-4: `vshfl.xor.w8` reads a masked source, and 0 from an exited one. -/
theorem test_vshfl : ((match decodeWord 0xD205040206240004 with
    | some i => match exec i (modGrid (withGroup (fun x => { setVlane 4 0 10 (setVlane 4 1 11 (setVlane 4 2 12 (setVlane 4 3 13
        (setVlane 4 4 14 (setVlane 4 5 15 x))))) with exec := 0x39, live := 0x3B, launched := 8 })) 0 (fun x => { x with width := 8 })) with
      | .next t => (t.ops.getLast?).map (fun o => (o.got, o.kind))
      | _ => none
    | none => none) = some ([(0, 11), (3, 0), (4, 15), (5, 14)], .perm 8 (some 6))) := by decide +kernel
/-- Section 5.8: places of two LPDDR6 addresses in a pound of 2 GiB. -/
theorem test_pound_place : poundPlace (2 ^ 31) 0x40000000800 = (1, 0, 0) ∧ poundPlace (2 ^ 31) 0x40300000800 = (1, 0, 1) := by decide
/-- Section 18.6: an entry is due at a frame start no less than 50 µs after its time and its append. -/
theorem test_frames_lead : dueAt 1016666667 { binding := 0, time := 1001200000, appended := 1016616667 } = true ∧
    dueAt 1016666667 { binding := 0, time := 1001200000, appended := 1016616668 } = false := by decide

end Sys2Proof.Tests
end

namespace Sys2Proof.IllegalOperands
open Sys2Proof.Machine
open Sys2Proof.Claims

/-! ## The trap of an instruction whose operands are not admitted (R149, R169, R422) -/

/-- The field checks come before every other check of readiness. -/
theorem readiness_of_sigDetail {s : State} {g d : Nat} {sg : Sig} (path : Option Nat)
    (hd : sigDetail (grp s g).budget (uniCount s g) sg = some d) : readiness s g path sg = .illegal d := by
  simp [readiness, hd]

/-- An instruction that its core executes and whose operand form the checks refuse takes the trap for that form, and its body does not
run. -/
theorem issueOn_illegal {s : State} {d : Nat} {sg : Sig} (path : Option Nat) (quay : Bool) (body : State → Res)
    (hi : canIssue s s.cur = true) (hq : isQuayCore (coreOf s s.cur) = false)
    (hd : sigDetail (me s).budget (uniCount s s.cur) sg = some d) :
    issueOn path quay sg body s = .next (takeTrap s s.cur 1 d none) := by
  have hr : readiness s s.cur path sg = .illegal d := readiness_of_sigDetail path hd
  simp [issueOn, issueWith, hi, hq, hr, notReady]

/-- A `callq` is checked by the form that its call word gives it (R327, R441), not by `sigOf`. -/
theorem callq_illegal {s : State} {d : Nat} (f : FmtE) (hi : canIssue s s.cur = true)
    (hq : isQuayCore (coreOf s s.cur) = false) (hd : sigDetail (me s).budget (uniCount s s.cur) (callqSig s f) = some d) :
    exec (.callq f) s = .next (takeTrap s s.cur 1 d none) :=
  issueOn_illegal (some 4) false (callqBody false f) hi hq hd

/-! ## A `callq` with two operands at fault -/

/-- A group with a budget of 24 vector and 16 uniform registers and a handler at 0x20000, inside a clause; s0 holds a call word of the
depth unit, whose payload is three registers (Table 16-5). -/
def caller : State :=
  { groups := [{ budget := 24, exec := 1, live := 1, trapbase := 0x20000,
                 clause := some { cls := 0, count := 1, wpath := 7, wthresh := 0, pair := 0, yield := false } }]
    teams := [{ hdr := { vregs := 24, sregs := 16 } }]
    grids := [{ width := 32 }] }

/-- `callq s0, v23, s0, s[1:2]`: the payload v23 to v25 passes the budget, and the pair at s1 is not aligned. -/
def pastBudget : FmtE :=
  { d := 0, a := 23, b := 0, c := 1, acq := false, acqScope := 0, rel := false, relScope := 0, op := 0 }

/-- The payload, operand 1, is the first operand at fault. -/
theorem caller_callqSig_detail : sigDetail (me caller).budget (uniCount caller caller.cur) (callqSig caller pastBudget) = some 1 := by
  decide

/-- The form that `sigOf` gives a `callq` has one payload register, so that only its pair c, operand 3, is at fault. -/
theorem caller_sigOf_detail : sigDetail (me caller).budget (uniCount caller caller.cur) (sigCallqOf pastBudget) = some 3 := by
  decide

/-- The handler is told the operand at fault. -/
theorem caller_trapcause_ne :
    (me (takeTrap caller caller.cur 1 1 none)).trapcause ≠ (me (takeTrap caller caller.cur 1 3 none)).trapcause := by
  decide

/-- Refutes O9: a `callq` takes the trap for the first fault of the form that its call word gives it, which `sigOf` does not know. With
a depth call whose payload passes the budget (operand 1, R441) and whose pair c is not aligned (operand 3), the group traps with detail 1
where the first clause, by `sigOf`, has detail 3. -/
theorem not_illegalInstructionsTrap : ¬ Obligations.IllegalInstructionsTrap := by
  unfold Obligations.IllegalInstructionsTrap
  rintro ⟨trapsBySigOf, -⟩
  have hi : canIssue caller caller.cur = true := by decide
  have hq : isQuayCore (coreOf caller caller.cur) = false := by decide
  have claimed := trapsBySigOf (.callq pastBudget) caller _ 3 rfl hi hq caller_sigOf_detail
  have taken := callq_illegal pastBudget hi hq caller_callqSig_detail
  have same : takeTrap caller caller.cur 1 1 none = takeTrap caller caller.cur 1 3 none :=
    Host.Outcome.next.inj (taken.symm.trans claimed)
  exact caller_trapcause_ne (congrArg (fun t => (me t).trapcause) same)

end Sys2Proof.IllegalOperands

namespace Sys2Proof.TrapReturn
open Sys2Proof.Machine
open Sys2Proof.Claims

/-! ## The log, checks of storage and fetches look at no group

An instruction's body runs after the accounts of its issue, which change groups and the count of issues alone. A fetch can correct stored
data and write log records, so that its answer depends on much of the state; these lemmas say that it does not depend on those two. -/

/-- A state with other group records and another count of issues: all that `onlyGroups` lets differ. -/
def regrouped (gs : List Group) (q : Nat) (s : State) : State := { s with groups := gs, seq := q }

/-- The answer of a check of storage, with the same exchange in the state it leaves. It is unfolded by `regroupedFst_mk` alone where a log
record stands in it: a projection left for the kernel to compare makes it unfold the record. -/
abbrev regroupedFst {α : Type} (gs : List Group) (q : Nat) (r : State × α) : State × α := (regrouped gs q r.1, r.2)

section
variable (gs : List Group) (q : Nat) (s : State)

@[simp] theorem timeOf_regrouped : timeOf (regrouped gs q s) = timeOf s := rfl
@[simp] theorem logOpen_regrouped (r : LogRec) : logOpen (regrouped gs q s) r = logOpen s r := rfl

@[simp] theorem poundSize_regrouped : (regrouped gs q s).poundSize = s.poundSize := rfl
theorem region_regrouped (a : Nat) (other : Region) :
    (if 0 < (regrouped gs q s).poundSize then regionOf (regrouped gs q s).poundSize a else other) =
      if 0 < s.poundSize then regionOf s.poundSize a else other := rfl

theorem logMsi_regrouped (cls : Nat) : logMsi (regrouped gs q s) cls = regrouped gs q (logMsi s cls) := by
  unfold logMsi
  simp only [apply_ite (regrouped gs q)]
  rfl

theorem logWrite_regrouped (a : Nat) (bs : List Byte) : logWrite (regrouped gs q s) a bs = regrouped gs q (logWrite s a bs) := by
  unfold logWrite
  rw [apply_ite (regrouped gs q)]
  refine ite_congr rfl (fun _ => rfl) (fun _ => ?_)
  rw [region_regrouped]
  split
  · simp only [apply_ite (regrouped gs q)]
    rfl
  · rfl

theorem logPut_regrouped (r : LogRec) : logPut (regrouped gs q s) r = regrouped gs q (logPut s r) := by
  unfold logPut
  simp only [apply_ite (regrouped gs q)]
  refine ite_congr rfl (fun _ => ite_congr rfl (fun _ => rfl) fun _ => ?_) fun _ => rfl
  rw [logWrite_regrouped]
  refine Eq.trans ?_ (logMsi_regrouped gs q _ _)
  rfl

theorem logNext_regrouped (r : LogRec) : logNext (regrouped gs q s) r = regrouped gs q (logNext s r) := by
  unfold logNext
  refine Eq.trans ?_ (logPut_regrouped gs q _ _)
  rfl

/-- No check of storage and no trap writes a record of class 5, which clears ready (Table 23-5). -/
theorem logRecord_regrouped (r : LogRec) (h5 : r.cls ≠ 5) : logRecord (regrouped gs q s) r = regrouped gs q (logRecord s r) := by
  unfold logRecord
  simp only [if_neg h5, timeOf_regrouped, logOpen_regrouped]
  rw [apply_ite (regrouped gs q)]
  refine ite_congr rfl (fun _ => ?_) fun _ => ?_
  · rw [logNext_regrouped, logNext_regrouped]
  · split
    · rw [logWrite_regrouped]
      rfl
    · rfl
    · exact logNext_regrouped ..

/-! ## Checks of storage -/

@[simp] theorem tags_regrouped : (regrouped gs q s).tags = s.tags := rfl
@[simp] theorem badAt_regrouped (a : Nat) : badAt (regrouped gs q s) a = badAt s a := rfl
@[simp] theorem setBad_regrouped (a : Nat) (b : Bad) : setBad (regrouped gs q s) a b = regrouped gs q (setBad s a b) := rfl
@[simp] theorem logCorrected_regrouped (a flags : Nat) :
    logCorrected (regrouped gs q s) a flags = regrouped gs q (logCorrected s a flags) :=
  logRecord_regrouped gs q s _ (by decide : (0 : Nat) ≠ 5)

theorem regroupedFst_mk {α : Type} (a : α) : regroupedFst gs q (s, a) = (regrouped gs q s, a) := rfl

theorem checkAlone_regrouped (a : Nat) :
    checkAlone (regrouped gs q s) a = regroupedFst gs q (checkAlone s a) := by
  unfold checkAlone
  rw [badAt_regrouped]
  split <;> simp

theorem checkSources_regrouped (us : List Nat) :
    ∀ s, checkSources (regrouped gs q s) us = regroupedFst gs q (checkSources s us) := by
  induction us with
  | nil => intro s; rfl
  | cons u us ih =>
    intro s
    unfold checkSources
    rw [checkAlone_regrouped]
    rcases checkAlone s u with ⟨s1, _ | b⟩
    · exact ih s1
    · rfl

theorem checkUnit_regrouped (a : Nat) :
    checkUnit (regrouped gs q s) a = regroupedFst gs q (checkUnit s a) := by
  unfold checkUnit
  rw [checkAlone_regrouped]
  rcases checkAlone s a with ⟨s1, _ | b⟩
  · rfl
  · rw [regroupedFst_mk]
    dsimp only
    rw [checkSources_regrouped]
    by_cases die : inDieScratch a = true
    · rw [if_pos die, if_pos die]
      rcases checkSources s1 (rebuildSources a) with ⟨s2, _ | _⟩
      · rfl
      · rw [regroupedFst_mk]
        dsimp only
        rw [setBad_regrouped, logCorrected_regrouped, regroupedFst_mk]
    · rw [if_neg die, if_neg die, regroupedFst_mk]

theorem checkUnits_regrouped (us : List Nat) :
    ∀ s, checkUnits (regrouped gs q s) us = regroupedFst gs q (checkUnits s us) := by
  induction us with
  | nil => intro s; rfl
  | cons u us ih =>
    intro s
    unfold checkUnits
    rw [checkUnit_regrouped]
    rcases checkUnit s u with ⟨s1, _ | b⟩
    · exact ih s1
    · rfl

theorem checkRead_regrouped (a n : Nat) :
    checkRead (regrouped gs q s) a n = regroupedFst gs q (checkRead s a n) := by
  unfold checkRead
  rw [apply_ite (regroupedFst gs q)]
  exact ite_congr rfl (fun _ => rfl) (fun _ => checkUnits_regrouped gs q _ s)

theorem withTag_regrouped (key v : Nat) :
    { regrouped gs q s with tags := mapSet 0 key v (regrouped gs q s).tags } =
      regrouped gs q { s with tags := mapSet 0 key v s.tags } := rfl

theorem foldl_setBad_regrouped (us : List Nat) :
    ∀ s, us.foldl (fun s u => setBad s u .sound) (regrouped gs q s) =
      regrouped gs q (us.foldl (fun s u => setBad s u .sound) s) := by
  induction us with
  | nil => intro s; rfl
  | cons u us ih => intro s; exact ih (setBad s u .sound)

/-- A read through the pound: a bad tag record, a hit, a sector not to be allocated, and a fill with or without a write-back (R110). -/
theorem poundStep_regrouped (a n : Nat) (cacheable : Bool) :
    poundStep (regrouped gs q s) a n false cacheable = regroupedFst gs q (poundStep s a n false cacheable) := by
  unfold poundStep
  rw [poundSize_regrouped]
  generalize poundPlace s.poundSize a = place
  obtain ⟨k, i, tag⟩ := place
  dsimp only
  rw [checkUnit_regrouped]
  generalize checkUnit s _ = checked
  obtain ⟨s1, tagBad⟩ := checked
  dsimp only
  rw [tags_regrouped, poundSize_regrouped]
  simp only [Bool.false_eq_true, if_false, Bool.false_and, Bool.not_false]
  split
  · rfl
  · split
    · rw [checkRead_regrouped]
      rcases checkRead s1 _ n with ⟨s2, _ | b⟩ <;> rfl
    · split
      · exact checkRead_regrouped ..
      · by_cases dirty : tagState (mapGet 0 s1.tags (2 ^ 24 * k + i)) = 3
        · simp only [if_pos dirty]
          rw [checkUnits_regrouped]
          rcases checkUnits s1 _ with ⟨s2, _ | b⟩
          · dsimp only
            rw [foldl_setBad_regrouped, withTag_regrouped, checkUnits_regrouped]
            rcases checkUnits _ _ with ⟨s3, _ | b⟩
            · dsimp only
              rw [foldl_setBad_regrouped, withTag_regrouped]
            · rfl
          · rfl
        · simp only [if_neg dirty]
          rw [checkUnits_regrouped]
          rcases checkUnits s1 _ with ⟨s3, _ | b⟩
          · dsimp only
            rw [foldl_setBad_regrouped, withTag_regrouped]
          · rfl

theorem storeCheck_regrouped (a n : Nat) (cacheable : Bool) :
    storeCheck (regrouped gs q s) a n false cacheable = regroupedFst gs q (storeCheck s a n false cacheable) := by
  unfold storeCheck
  rw [region_regrouped]
  split
  · split
    · exact poundStep_regrouped ..
    · exact checkRead_regrouped ..
  · exact checkRead_regrouped ..

/-! ## Fetching and the check of a return address -/

variable {gs s}

theorem teamOf_regrouped {g : Nat} (hteam : (gs.getD g {}).team = (grp s g).team) : teamOf (regrouped gs q s) g = teamOf s g :=
  congrArg (team s) hteam

theorem codeOf_regrouped {g : Nat} (hteam : (gs.getD g {}).team = (grp s g).team) : codeOf (regrouped gs q s) g = codeOf s g := by
  unfold codeOf gridOf
  rw [teamOf_regrouped q hteam]
  rfl

/-- A fetch looks at no group but for its team. -/
theorem fetching_regrouped {g : Nat} (hteam : (gs.getD g {}).team = (grp s g).team) (va : Nat) :
    fetching (regrouped gs q s) g va = regroupedFst gs q (fetching s g va) := by
  unfold fetching coreOf
  rw [codeOf_regrouped q hteam, teamOf_regrouped q hteam, poundSize_regrouped]
  rw [show arenaOk (regrouped gs q s) = arenaOk s from rfl]
  dsimp only
  split
  · rfl
  · split
    · rfl
    · split
      · rfl
      · rw [storeCheck_regrouped]
        rcases storeCheck s _ 8 false _ with ⟨s1, _ | b⟩ <;> rfl

/-- A fetch changes no group. -/
theorem fetching_groups (s : State) (g va : Nat) : (fetching s g va).1.groups = s.groups :=
  congrArg (fun r => r.1.groups) (fetching_regrouped (gs := s.groups) (s := s) s.seq rfl va)

theorem readWords_regrouped {g : Nat} (n : Nat) : ∀ {s : State} (va : Nat), (gs.getD g {}).team = (grp s g).team →
    readWords g va n (regrouped gs q s) = regroupedFst gs q (readWords g va n s) := by
  induction n with
  | zero => intro s va _; rfl
  | succ n ih =>
    intro s va hteam
    have hnext : (gs.getD g {}).team = (grp (fetching s g va).1 g).team := by
      rw [hteam]
      unfold grp
      rw [fetching_groups]
    unfold readWords
    rw [fetching_regrouped q hteam]
    dsimp only
    rw [ih (va + 8) hnext]

theorem readClause_regrouped {g : Nat} (hteam : (gs.getD g {}).team = (grp s g).team) (base : Nat) (w : DWord) :
    readClause (regrouped gs q s) g base w = regroupedFst gs q (readClause s g base w) := by
  unfold readClause
  rw [readWords_regrouped q _ _ hteam]
  split <;> rfl

theorem readClause_groups (s : State) (g base : Nat) (w : DWord) : (readClause s g base w).1.groups = s.groups :=
  congrArg (fun r => r.1.groups) (readClause_regrouped (gs := s.groups) (s := s) s.seq rfl base w)

theorem headerCheck_regrouped {g : Nat} (hteam : (gs.getD g {}).team = (grp s g).team) (pc : DWord) :
    headerCheck (regrouped gs q s) g pc = headerCheck s g pc := by
  unfold headerCheck headerOk fetch
  rw [fetching_regrouped q hteam]
  dsimp only
  split
  · rfl
  · rw [readClause_regrouped q hteam]

end

/-- The check of a return address gives the same answer in a state that looks the same. -/
theorem returnCheck_view {s t : State} (v : SameView s t) (g : Nat) (pc : DWord) : returnCheck t g pc = returnCheck s g pc := by
  have hteam : (grp t g).team = (grp s g).team := congrArg Prod.fst (v.ids g)
  have ht : headerCheck t g pc = headerCheck s g pc := by
    rw [v.only]
    exact headerCheck_regrouped t.seq hteam pc
  unfold returnCheck checkPc
  rw [ht]

/-! ## Transfer of control -/

theorem grp_of_groups_eq {s t : State} (h : t.groups = s.groups) (g : Nat) : grp t g = grp s g := by
  unfold grp
  rw [h]

theorem modGrp_groups_congr {s t : State} (h : t.groups = s.groups) (g : Nat) (f : Group → Group) :
    (modGrp t g f).groups = (modGrp s g f).groups := by
  unfold modGrp
  rw [grp_of_groups_eq h]
  exact congrArg (List.set · g (f (grp s g))) h

/-- A change that keeps the pc of a group keeps that of every group. -/
theorem pc_modGrp (s : State) (g : Nat) (f : Group → Group) (h : ∀ x, (f x).pc = x.pc) (k : Nat) :
    (grp (modGrp s g f) k).pc = (grp s k).pc := by
  by_cases hl : g < s.groups.length
  · by_cases hk : k = g
    · rw [hk, grp_modGrp_same _ _ _ hl, h]
    · rw [grp_modGrp_other _ _ _ _ hk]
  · unfold modGrp setGrp
    rw [List.set_eq_of_length_le (Nat.le_of_not_lt hl)]

theorem pc_yieldExchange (s : State) (g k : Nat) : (grp (yieldExchange s g) k).pc = (grp s k).pc := by
  unfold yieldExchange enterActive
  split
  · rfl
  · rw [pc_modGrp, pc_modGrp] <;> exact fun _ => rfl

theorem pc_leaveClause (s : State) (g : Nat) (x : Group) (k : Nat) : (grp (leaveClause s g x) k).pc = (grp s k).pc := by
  unfold leaveClause
  dsimp only
  split
  · rw [pc_modGrp, pc_modGrp] <;> exact fun _ => rfl
  · rw [pc_yieldExchange, pc_modGrp]
    exact fun _ => rfl
  · split
    · rw [pc_yieldExchange, pc_modGrp]
      exact fun _ => rfl
    · rw [pc_modGrp]
      exact fun _ => rfl

/-- Reading a clause again changes the groups by its header and words alone, or not at all. -/
theorem reenterClause_groups (s : State) (g : Nat) :
    (reenterClause s g).groups = s.groups ∨
      ∃ c ws, (reenterClause s g).groups = (modGrp s g (fun x => { x with clause := some c, words := ws })).groups := by
  have hfetch := fetching_groups s g (pcHeader (grp s g).pc)
  unfold reenterClause
  dsimp only
  generalize fetching s g (pcHeader (grp s g).pc) = fetched at hfetch
  obtain ⟨s1, _ | w⟩ := fetched
  · exact .inl hfetch
  · dsimp only
    have hread := (readClause_groups s1 g (pcHeader (grp s g).pc) w).trans hfetch
    generalize readClause s1 g (pcHeader (grp s g).pc) w = read at hread
    obtain ⟨s2, _ | ⟨c, ws⟩⟩ := read
    · exact .inl hread
    · exact .inr ⟨c, ws, modGrp_groups_congr hread g _⟩

theorem registers_reenterClause (s : State) (g k : Nat) : registers (grp (reenterClause s g) k) = registers (grp s k) := by
  rcases reenterClause_groups s g with h | ⟨c, ws, h⟩ <;> rw [grp_of_groups_eq h]
  exact registers_modGrp _ _ _ (by intro x; rfl) k

theorem pc_reenterClause (s : State) (g k : Nat) : (grp (reenterClause s g) k).pc = (grp s k).pc := by
  rcases reenterClause_groups s g with h | ⟨c, ws, h⟩ <;> rw [grp_of_groups_eq h]
  exact pc_modGrp _ _ _ (by intro x; rfl) k

/-- A transfer changes no register of any group. -/
theorem registers_jumpTo (s : State) (g : Nat) (pc : DWord) (k : Nat) : registers (grp (jumpTo s g pc) k) = registers (grp s k) := by
  unfold jumpTo
  dsimp only
  rw [registers_leaveClause]
  split
  · exact registers_setGrp _ _ _ (by rfl) k
  · rw [registers_reenterClause]
    exact registers_setGrp _ _ _ (by rfl) k

/-- A transfer moves the pc to its target. -/
theorem pc_jumpTo {s : State} {g : Nat} (hg : g < s.groups.length) (pc : DWord) : (grp (jumpTo s g pc) g).pc = pc := by
  unfold jumpTo
  dsimp only
  rw [pc_leaveClause]
  split
  · rw [grp_setGrp_same _ _ _ hg]
  · rw [pc_reenterClause, grp_setGrp_same _ _ _ hg]

/-! ## The return -/

theorem disarmStep_groups (s : State) : (disarmStep s).groups = s.groups := by
  unfold disarmStep
  dsimp only
  split <;> rfl

/-- A return to a good address transfers control as any other transfer does, and arms or disarms the step trap, which is no register. -/
theorem returnFromTrap_good {s : State} {g : Nat} (h : returnCheck s g (grp s g).trappc = .good) :
    ∃ step, ∀ k, grp (returnFromTrap s g) k =
      grp (modGrp (jumpTo (modGrp s g (fun x => { x with intrap := false, exec := x.trapexec &&& x.live })) g (grp s g).trappc) g
        (fun x => { x with resumed := true, stepping := step })) k := by
  refine ⟨if stepMatches s g then some false else none, fun k => ?_⟩
  unfold returnFromTrap
  simp only [h]
  split
  · exact grp_of_groups_eq (disarmStep_groups _) k
  · rfl

theorem pc_returnFromTrap {s : State} {g : Nat} (hg : g < s.groups.length) (h : returnCheck s g (grp s g).trappc = .good) :
    (grp (returnFromTrap s g) g).pc = (grp s g).trappc := by
  obtain ⟨step, hstep⟩ := returnFromTrap_good h
  rw [hstep, pc_modGrp _ _ _ (by intro x; rfl), pc_jumpTo (by simpa using hg)]

theorem registers_returnFromTrap {s : State} {g : Nat} (hg : g < s.groups.length) (h : returnCheck s g (grp s g).trappc = .good) :
    registers (grp (returnFromTrap s g) g) =
      { registers (grp s g) with intrap := false, exec := (grp s g).trapexec &&& (grp s g).live } := by
  obtain ⟨step, hstep⟩ := returnFromTrap_good h
  rw [hstep, registers_modGrp _ _ _ (by intro x; rfl), registers_jumpTo, grp_modGrp_same _ _ _ hg]
  rfl

theorem registers_returnFromTrap_other {s : State} {g k : Nat} (hk : k ≠ g) (h : returnCheck s g (grp s g).trappc = .good) :
    registers (grp (returnFromTrap s g) k) = registers (grp s k) := by
  obtain ⟨step, hstep⟩ := returnFromTrap_good h
  rw [hstep, registers_modGrp _ _ _ (by intro x; rfl), registers_jumpTo, grp_modGrp_other _ _ _ _ hk]

/-- A return to an address that is refused is a double fault with the cause of the refusal. -/
theorem returnFromTrap_bad {s : State} {g : Nat} (h : returnCheck s g (grp s g).trappc ≠ .good) :
    returnFromTrap s g = doubleFault s g (if returnCheck s g (grp s g).trappc = .noFetch then 7 else 0x0C) := by
  unfold returnFromTrap
  dsimp only
  cases hc : returnCheck s g (grp s g).trappc with
  | good => exact absurd hc h
  | target => rfl
  | noFetch => rfl

/-! ## Records -/

theorem logRecord_groups (s : State) (r : LogRec) (h5 : r.cls ≠ 5) : (logRecord s r).groups = s.groups := by
  have same : logRecord s r = regrouped s.groups s.seq (logRecord s r) := logRecord_regrouped s.groups s.seq s r h5
  rw [same]
  rfl

/-- A record of a class that neither merges nor clears ready is put into the log. -/
theorem logRecord_next {s : State} {r : LogRec} (hduty : s.duty.getLsbD 1 = false) (h0 : r.cls ≠ 0) (h5 : r.cls ≠ 5) :
    logRecord s r = logNext s { r with time := r.since.getD (timeOf s), since := none } := by
  simp only [logRecord, logOpen, if_neg h5, hduty, Bool.false_eq_true, false_and, if_false, if_pos (Or.inl h0)]

/-- Until the ring is enabled, the internal buffer takes a record while it has room (R397). -/
theorem logNext_buffer {s : State} (r : LogRec) (hen : s.log.en = false) (hroom : s.log.buffer.length < 256) :
    (logNext s r).log.buffer = s.log.buffer ++ [{ r with
      seq := s.log.seq + 1
      syndrome := if hasSyndrome r then (Config.eccSyndrome (s.log.seq + 1)).toNat else 0 }] := by
  simp [logNext, logPut, hen, hroom]

theorem logRecord_recorded (s : State) {r : LogRec} (h0 : r.cls ≠ 0) (h5 : r.cls ≠ 5) (hsince : r.since = none) :
    recorded s (logRecord s r) r.code r.cls r.detail := by
  intro hf
  simp only [logFree, Bool.and_eq_true, Bool.not_eq_true', decide_eq_true_eq] at hf
  obtain ⟨⟨⟨hen, hroom⟩, hduty⟩, -⟩ := hf
  rw [logRecord_next hduty h0 h5, logNext_buffer _ hen (by omega), hsince]
  exact ⟨_, rfl, rfl, rfl, rfl, rfl, rfl⟩

theorem failGrid_groups (s : State) (i : Nat) : (failGrid s i).groups = s.groups := by
  unfold failGrid
  dsimp only
  split <;> rfl

theorem failGrid_log (s : State) (i : Nat) : (failGrid s i).log = s.log := by
  unfold failGrid
  dsimp only
  split <;> rfl

theorem logGroupBy_groups (s : State) (g code : Nat) {cls : Nat} (d : Deferred) (h5 : cls ≠ 5) :
    (logGroupBy s g code cls d).groups = s.groups := by
  unfold logGroupBy
  dsimp only
  split
  · rw [failGrid_groups, logRecord_groups _ _ h5]
  · exact logRecord_groups _ _ h5

theorem recorded_of_log_eq {s t u : State} {code cls detail : Nat} (h : u.log = t.log) (hr : recorded s t code cls detail) :
    recorded s u code cls detail := by
  intro hf
  rw [h]
  exact hr hf

theorem logGroup_recorded (s : State) (g code : Nat) {cls : Nat} (detail : Nat) (addr : Option Nat) (h0 : cls ≠ 0) (h5 : cls ≠ 5) :
    recorded s (logGroup s g code cls detail addr) code cls detail := by
  unfold logGroup logGroupBy
  dsimp only
  split
  · exact recorded_of_log_eq (failGrid_log _ _) (logRecord_recorded s h0 h5 rfl)
  · exact logRecord_recorded s h0 h5 rfl

/-! ## Faults inside a handler, and trap entry (R410, R413) -/

theorem logGroup_groups (s : State) (g code : Nat) {cls : Nat} (detail : Nat) (addr : Option Nat) (h5 : cls ≠ 5) :
    (logGroup s g code cls detail addr).groups = s.groups :=
  logGroupBy_groups s g code _ h5

/-- A double fault changes the group's halt alone. -/
theorem grp_doubleFault (s : State) (g cause k : Nat) : ∃ now, grp (doubleFault s g cause) k =
    grp (modGrp s g (fun x => { x with halted := true, haltedAt := now, doomed := none, active := false })) k :=
  ⟨_, grp_of_groups_eq (modGrp_groups_congr (logGroup_groups s g 0x01F0 cause none (by decide)) g _) k⟩

theorem registers_doubleFault {s : State} {g : Nat} (hg : g < s.groups.length) (cause : Nat) :
    registers (grp (doubleFault s g cause) g) = { registers (grp s g) with halted := true } := by
  obtain ⟨now, h⟩ := grp_doubleFault s g cause g
  rw [h, grp_modGrp_same _ _ _ hg]
  rfl

theorem pc_doubleFault (s : State) (g cause k : Nat) : (grp (doubleFault s g cause) k).pc = (grp s k).pc := by
  obtain ⟨now, h⟩ := grp_doubleFault s g cause k
  rw [h, pc_modGrp _ _ _ (by intro x; rfl)]

theorem grp_doubleFault_other (s : State) {g k : Nat} (cause : Nat) (hk : k ≠ g) : grp (doubleFault s g cause) k = grp s k := by
  obtain ⟨now, h⟩ := grp_doubleFault s g cause k
  rw [h, grp_modGrp_other _ _ _ _ hk]

theorem doubleFault_recorded (s : State) (g cause : Nat) : recorded s (doubleFault s g cause) 0x01F0 2 cause :=
  recorded_of_log_eq (by rfl) (logGroup_recorded s g 0x01F0 cause none (by decide) (by decide))

/-- With a handler that the group is not in, a trap is the entry and a record, which changes no group. -/
theorem grp_takeTrap {s : State} {g : Nat} (hh : hasHandler s g = true) (cause detail : Nat) (addr : Option Nat) (k : Nat) :
    grp (takeTrap s g cause detail addr) k = grp (modGrp s g (enterTrap cause detail addr)) k := by
  simp only [hasHandler, Bool.and_eq_true, decide_eq_true_eq, bne_iff_ne, Bool.not_eq_true'] at hh
  obtain ⟨⟨-, hbase⟩, hout⟩ := hh
  apply grp_of_groups_eq
  unfold takeTrap takeTrapBy
  simp only [hout, Bool.false_eq_true, if_false, if_neg hbase]
  apply modGrp_groups_congr
  split
  · rfl
  · exact logGroupBy_groups _ _ _ _ (by decide)

/-- Trap entry as the registers show it (R410). -/
theorem registers_enterTrap (cause detail : Nat) (addr : Option Nat) (x : Group) :
    registers (enterTrap cause detail addr x) = entered x cause detail addr := rfl

/-! ## What a state that looks the same shows of traps -/

section
variable {s t : State} (v : SameView s t)
include v

theorem intrap_view (g : Nat) : (grp t g).intrap = (grp s g).intrap := congrArg Registers.intrap (v.regs g)
theorem trappc_view (g : Nat) : (grp t g).trappc = (grp s g).trappc := congrArg Registers.trappc (v.regs g)
theorem trapexec_view (g : Nat) : (grp t g).trapexec = (grp s g).trapexec := congrArg Registers.trapexec (v.regs g)

theorem hasHandler_view (g : Nat) : hasHandler t g = hasHandler s g := by
  have hbase : (grp t g).trapbase = (grp s g).trapbase := congrArg Registers.trapbase (v.regs g)
  unfold hasHandler
  rw [v.length, hbase, intrap_view v]

theorem entered_view (g cause detail : Nat) : entered (grp t g) cause detail none = entered (grp s g) cause detail none := by
  have haddr : (grp t g).faultaddr = (grp s g).faultaddr := congrArg Registers.faultaddr (v.regs g)
  simp only [Claims.entered, v.regs g, v.pc g, exec_view v, live_view v, haddr]

theorem recorded_view {u : State} {code cls detail : Nat} (h : recorded t u code cls detail) : recorded s u code cls detail := by
  rw [show t = regrouped t.groups t.seq s from v.only] at h
  exact h

end

/-! ## `trapret` -/

/-- A `trapret` that issues returns from the handler, or is an illegal instruction outside one, in a state that looks the same. -/
theorem exec_trapret {f : FmtT} {s : State} (h : issues none true (.trapret f) s = true) :
    ∃ t, SameView s t ∧ s.cur < t.groups.length ∧ exec (.trapret f) s =
      .next (if (me s).intrap then returnFromTrap t s.cur else takeTrap t s.cur 1 0x0203 none) := by
  obtain ⟨hexec, view, hcur⟩ := issue_view (sigTrapretOf f)
    (fun t => .next (if (me t).intrap then returnFromTrap t t.cur else takeTrap t t.cur 1 0x0203 none)) s (.trapret f) rfl h
  refine ⟨_, view, by rw [view.length]; exact hcur, hexec.trans ?_⟩
  rw [me_view view, intrap_view view, view.cur]
  rfl

/-- In the handler, with a good `%trappc` (R412). -/
theorem trapret_returns {f : FmtT} {s : State} (h : issues none true (.trapret f) s = true) (hin : (me s).intrap = true)
    (hgood : returnCheck s s.cur (me s).trappc = .good) :
    ∃ t, exec (.trapret f) s = .next t ∧ (grp t s.cur).pc = (me s).trappc ∧ othersKept s t ∧
      registers (grp t s.cur) = { registers (me s) with intrap := false, exec := (me s).trapexec &&& (me s).live } := by
  obtain ⟨t, v, hcur, hexec⟩ := exec_trapret h
  have hcheck : returnCheck t s.cur (grp t s.cur).trappc = .good := by
    rw [returnCheck_view v, trappc_view v]
    exact hgood
  rw [if_pos hin] at hexec
  refine ⟨_, hexec, ?_, fun k hk => ?_, ?_⟩
  · rw [pc_returnFromTrap hcur hcheck, trappc_view v]
    rfl
  · rw [registers_returnFromTrap_other hk hcheck, v.regs]
  · rw [registers_returnFromTrap hcur hcheck, v.regs, trapexec_view v, live_view v]
    rfl

/-- In the handler, with a `%trappc` that is refused (R412, R413). -/
theorem trapret_halts {f : FmtT} {s : State} (h : issues none true (.trapret f) s = true) (hin : (me s).intrap = true)
    (hbad : returnCheck s s.cur (me s).trappc ≠ .good) :
    ∃ t, exec (.trapret f) s = .next t ∧ (grp t s.cur).pc = (me s).pc ∧ othersKept s t ∧
      registers (grp t s.cur) = { registers (me s) with halted := true } ∧
      recorded s t 0x01F0 2 (if returnCheck s s.cur (me s).trappc = .noFetch then 7 else 0x0C) := by
  obtain ⟨t, v, hcur, hexec⟩ := exec_trapret h
  have hcheck : returnCheck t s.cur (grp t s.cur).trappc = returnCheck s s.cur (me s).trappc := by
    rw [returnCheck_view v, trappc_view v]
    rfl
  rw [if_pos hin, returnFromTrap_bad (by rw [hcheck]; exact hbad), hcheck] at hexec
  refine ⟨_, hexec, ?_, fun k hk => ?_, ?_, recorded_view v (doubleFault_recorded t _ _)⟩
  · rw [pc_doubleFault, v.pc]
    rfl
  · rw [grp_doubleFault_other _ _ hk, v.regs]
  · rw [registers_doubleFault hcur, v.regs]
    rfl

/-- Outside the handler (R412). -/
theorem trapret_traps {f : FmtT} {s : State} (h : issues none true (.trapret f) s = true) (hh : hasHandler s s.cur = true) :
    ∃ t, exec (.trapret f) s = .next t ∧ othersKept s t ∧ registers (grp t s.cur) = entered (me s) 1 0x0203 none := by
  obtain ⟨t, v, hcur, hexec⟩ := exec_trapret h
  have hh' : hasHandler t s.cur = true := (hasHandler_view v _).trans hh
  have hout : (me s).intrap = false := by
    simp only [hasHandler, Bool.and_eq_true, Bool.not_eq_true'] at hh
    exact hh.2
  rw [hout] at hexec
  refine ⟨_, hexec, fun k hk => ?_, ?_⟩
  · rw [if_neg (by decide), grp_takeTrap hh', grp_modGrp_other _ _ _ _ hk, v.regs]
  · rw [if_neg (by decide), grp_takeTrap hh', grp_modGrp_same _ _ _ hcur, registers_enterTrap, entered_view v]
    rfl

/-- Settles O8: `trapret` issues into a state that looks the same, in which the check of `%trappc` gives the same answer; then each
clause is the return, the double fault, or the trap. -/
theorem trapReturnRestores : Obligations.TrapReturnRestores := by
  unfold Obligations.TrapReturnRestores
  exact ⟨fun _ _ => trapret_returns, fun _ _ => trapret_halts, fun _ _ => trapret_traps⟩

end Sys2Proof.TrapReturn
